-- ==== Sys2Proof/Word.lean ====
section
/-! DEFINITION. The word types of the DXC-4840 and the lane vector (R4, R12): one lane holds 32 bits of
each vector register, and a gang has 32 lanes. -/

namespace Sys2Proof

/-- 32 bits: a uniform register, or one lane of a vector register (R12, R72). -/
abbrev Word := BitVec 32

/-- 64 bits: an instruction word, an address, a uniform pair (R29, R33). -/
abbrev Dword := BitVec 64

/-- One byte of memory. -/
abbrev Byte := BitVec 8

/-- A set of lanes, one bit per lane (R79, R129). -/
abbrev Mask := BitVec 32

/-- The 32 lane words of one vector register (R12, R110). -/
abbrev LaneVec := Vector Word 32

/-- A uniform register number s0 to s511 (R30, R72). -/
abbrev SReg := BitVec 9

/-- A vector-predicate or uniform-predicate number (R29). -/
abbrev PNum := BitVec 3

end Sys2Proof
end

