-- ==== Sys2Proof/Machine/Maps.lean ====
section
/-! DEFINITION. Sparse maps in one canonical form, byte order, and bit helpers: every memory and table of the
machine is a list of (key, value) pairs with strictly rising keys and no entry equal to what an unlisted key
reads as, so that equal contents are equal data. -/

namespace Sys2Proof.Machine

/-- The value a key reads as: the listed one, or d. -/
def mapGet {α : Type} (d : α) (m : List (Nat × α)) (k : Nat) : α :=
  match m with
  | [] => d
  | (k', v) :: m => if k' = k then v else mapGet d m k

/-- Insert or replace, keeping the keys rising. -/
def mapPut {α : Type} (m : List (Nat × α)) (k : Nat) (v : α) : List (Nat × α) :=
  match m with
  | [] => [(k, v)]
  | (k', v') :: m =>
    if k < k' then (k, v) :: (k', v') :: m
    else if k = k' then (k, v) :: m
    else (k', v') :: mapPut m k v

/-- Remove a key. -/
def mapDel {α : Type} (m : List (Nat × α)) (k : Nat) : List (Nat × α) := m.filter fun p => p.1 != k

/-- Write a key: a value equal to the default leaves the list. -/
def mapSet {α : Type} [DecidableEq α] (d : α) (m : List (Nat × α)) (k : Nat) (v : α) : List (Nat × α) :=
  if v = d then mapDel m k else mapPut m k v

/-- Every key is above lo. -/
def mapAbove {α : Type} (lo : Nat) : List (Nat × α) → Bool
  | [] => true
  | (k, _) :: m => decide (lo < k) && mapAbove k m

/-- The keys rise strictly. -/
def mapSorted {α : Type} : List (Nat × α) → Bool
  | [] => true
  | (k, _) :: m => mapAbove k m

/-- The canonical form: rising keys, no entry equal to the default. -/
def mapWf {α : Type} [DecidableEq α] (d : α) (m : List (Nat × α)) : Bool :=
  mapSorted m && m.all fun p => decide (p.2 ≠ d)

/-- Lookup in a table whose entries need not exist. -/
def tabGet {α : Type} (m : List (Nat × α)) (k : Nat) : Option α :=
  match m with
  | [] => none
  | (k', v) :: m => if k' = k then some v else tabGet m k

/-! Byte memories (R1, R20): an unlisted byte reads zero. -/

/-- What a byte that nothing has written reads as. -/
def unlisted : Byte := 0#8

abbrev Memory := List Host.Cell

def Memory.read (m : Memory) (a : Nat) : Byte := mapGet unlisted m a
def Memory.write (m : Memory) (a : Nat) (v : Byte) : Memory := mapSet unlisted m a v
def Memory.wf (m : Memory) : Bool := mapWf unlisted m

/-- n bytes from address a upwards. -/
def Memory.readBytes (m : Memory) (a n : Nat) : List Byte := (List.range n).map fun i => m.read (a + i)

def Memory.writeBytes (m : Memory) (a : Nat) : List Byte → Memory
  | [] => m
  | b :: bs => (m.write a b).writeBytes (a + 1) bs

/-- Little-endian (R1). -/
def natOfBytes : List Byte → Nat
  | [] => 0
  | b :: bs => b.toNat + 256 * natOfBytes bs

def bytesOfNat : Nat → Nat → List Byte
  | 0, _ => []
  | n + 1, x => BitVec.ofNat 8 x :: bytesOfNat n (x / 256)

def Memory.readNat (m : Memory) (a n : Nat) : Nat := natOfBytes (m.readBytes a n)
def Memory.writeNat (m : Memory) (a n x : Nat) : Memory := m.writeBytes a (bytesOfNat n x)

/-! Bits of a natural number: `field x lo n` is x[lo + n - 1 : lo]. -/

def field (x lo n : Nat) : Nat := x / 2 ^ lo % 2 ^ n
def bitAt (x i : Nat) : Bool := x.testBit i

/-! Lanes. -/

def lane (v : LaneVec) (i : Nat) : Word := if h : i < 32 then v[i] else 0#32
def laneFn (f : Nat → Word) : LaneVec := Vector.ofFn fun i => f i.val
def laneZero : LaneVec := laneFn fun _ => 0#32
def laneIndex : LaneVec := laneFn fun i => BitVec.ofNat 32 i
def laneNums : List Nat := List.range 32
def insertUp (n : Nat) : List Nat → List Nat
  | [] => [n]
  | m :: ms => if n ≤ m then n :: m :: ms else m :: insertUp n ms
/-- Numbers in ascending order. -/
def ascending (l : List Nat) : List Nat := l.foldr insertUp []
/-- The members of a lane set, ascending. -/
def lanesOf (m : Mask) : List Nat := laneNums.filter fun i => m.getLsbD i
def maskFn (f : Nat → Bool) : Mask :=
  BitVec.ofNat 32 (laneNums.foldl (fun a i => if f i then a + 2 ^ i else a) 0)

/-- Words from little-endian bytes, and back (R1). -/
def word (x : Nat) : Word := BitVec.ofNat 32 x
def byte (x : Nat) : Byte := BitVec.ofNat 8 x

end Sys2Proof.Machine
end

