-- ==== Sys2Proof/Config.lean ====
section
/-! DEFINITION. What the manual fixes for no device (free values, R7) and the standards it only names.
Every constant here is opaque: nothing can evaluate it, so a statement holds whatever it is. -/

namespace Sys2Proof.Config

/-- A fresh choice wherever the manual says "which one is not predictable" (R7): applied to State.fresh. -/
opaque choice : Nat → Bool

/-- A free count: quadrant cycles before a read of CYCLE (R75), stalls the timing makes (R37), tokens charged (R367). -/
opaque elapsed : Nat → Nat

/-- A free word, where a word's result is not stated (R52): applied to State.fresh and a lane. -/
opaque freeWord : Nat → Nat → Word

/-- The binary32 code of a special function (R197, R198): the manual bounds it and does not state it.
Arguments: the function number of opcode 0x3A, the sign, the odd significand and the exponent of the operand. -/
opaque special : Nat → Bool → Nat → Int → Word

/-- The integer a .I32 stream takes for a weight of an integer block whose scale is 0xFF (R163, R212), by its sign. -/
opaque oddWeight : Bool → Int

/-- The code of a NaN of a float kind with NAN IEEE and no mantissa bit (R156 gives it no t), by EW and EXPB. -/
opaque bareNan : Nat → Nat → Nat

/-- SHA3-512 (FIPS 202, named by R170, R173, R398): uninterpreted. -/
opaque sha3_512 : List Byte → BitVec 512

/-- The DIGEST a measurement record holds where the header was read and the image has no body to hash (R173). -/
opaque unreadDigest : List Byte → BitVec 512

/-- Whether a HashML-DSA-87 signature (R170) verifies: key digest, message, signature bytes. -/
opaque mlDsaVerify : BitVec 512 → List Byte → List Byte → Bool

/-- The public half of an ML-DSA-87 key pair, and a signature made under it (R398, R400), by its private half. -/
opaque mlDsaPublic : BitVec 512 → BitVec 20736
opaque mlDsaSign : BitVec 512 → List Byte → BitVec 37016

/-- Dexson's root key and its certificate of the part's identity key, made at manufacture (R398, R400). -/
opaque dexsonRoot : BitVec 20736
opaque dexsonCert : BitVec 37016

/-- The vendor ID of Dexson, and the identifiers under which ML-DSA-87 and SHA3-512 are offered (R400 names them and gives no
values). -/
opaque dexsonVendor : Nat
opaque vendorAlgorithm : Nat → BitVec 32

/-- The fused seed, the ROM digest, the configuration digest and the fused minimum firmware version (R398). -/
opaque fusedSeed : BitVec 512
opaque romDigest : BitVec 512
opaque configDigest : BitVec 512
opaque minVersion : Nat

/-- The version and the signature a firmware image holds (R398 names them and gives the image no layout). -/
opaque firmwareVersion : List Byte → Nat
opaque firmwareSig : List Byte → List Byte

/-- The header and body of a factory image's digest (R162, R170), by format ID. -/
opaque factoryDigest : BitVec 16 → BitVec 512

/-- The MSC set that holds a line (R246 gives 512 sets and no index function): space, line address. -/
opaque mscSet : Nat → Nat → Nat

/-- The DRAM row, counted over the banks of a CG, that holds a chunk frame (R264 names rows and gives no map). -/
opaque dramRow : Nat → Nat → Nat

/-- The subarray of a chunk frame within its CG (R322 names subarrays and gives no map). -/
opaque subarray : Nat → Nat

/-- A byte a peer device returns (R252): another device's memory is outside this package. -/
opaque peerByte : Nat → BitVec 8

/-- The KEYID of the Dexson key (R171, R172), and the blocks of 64 bytes of a factory image's body (R162, R171), modulo 961. -/
opaque dexsonKey : BitVec 512
opaque factoryBody : Nat → Nat

end Sys2Proof.Config
end

