-- ==== Sys2Proof/Machine/Numeric.lean ====
section
/-! DEFINITION. Number formats and exact slot arithmetic (R149 to R202): a format image's parameters, decode,
encode, the block layouts, and what the core computes between decode and encode. Exact values are
sign, natural significand and integer exponent of two; nothing here rounds but encode. -/

namespace Sys2Proof.Machine

/-- A format image (R149, R171), as its header's fields. `nan`: 0 NONE, 1 IEEE, 2 SINGLE. `ovf`: 0 IEEE,
1 SATURATE, 2 NAN. `nz`: 0 ZERO, 1 NAN, 2 ESCAPE. `kind`: 0 float, 1 integer, 2 logarithmic, 3 scale.
`blk`: 0 none, 1 MX, 2 FP4X. -/
structure Image where
  fid : Nat
  ew : Nat
  sigw : Nat
  cls : Nat
  kind : Nat
  expb : Nat
  manb : Nat
  bias : Int
  sign : Bool
  inf : Bool
  nan : Nat
  sub : Bool
  ovf : Nat
  nz : Nat
  blk : Nat
  blkBytes : Nat
  bodyLen : Nat
  keyId : Nat
  gen : Nat
  digest : Nat
  deriving DecidableEq, Repr

/-- A canonical value (R151): a NaN, an infinity, or (−1)^s × m × 2^e exactly, a zero when m is 0; each with its sign. -/
inductive Val where
  | nan (s : Bool)
  | inf (s : Bool)
  | num (s : Bool) (m : Nat) (e : Int)
  deriving DecidableEq, Repr

/-- The sticky flags of R77: IV, DZ, OF, UF, NX, ES from bit 0. -/
abbrev Flags := BitVec 6
def flIV : Flags := 1#6
def flDZ : Flags := 2#6
def flOF : Flags := 4#6
def flUF : Flags := 8#6
def flNX : Flags := 16#6
def flES : Flags := 32#6
def flIf (b : Bool) (f : Flags) : Flags := if b then f else 0#6

/-- Shift a significand left by k, or right dropping bits. -/
def shl (m : Nat) (k : Int) : Nat := if 0 ≤ k then m * 2 ^ k.toNat else m / 2 ^ (-k).toNat

/-- floor(log2(m × 2^e)), for m > 0. -/
def ilog (m : Nat) (e : Int) : Int := Int.ofNat (Nat.log2 m) + e

/-- The signed integer m × 2^(e − b), for e ≥ b. -/
def scaled (s : Bool) (m : Nat) (e b : Int) : Int :=
  if s then - Int.ofNat (shl m (e - b)) else Int.ofNat (shl m (e - b))

/-- m ÷ 2^k rounded under rm (R30: 0 RN, 1 RZ, 2 RM, 3 RP) for sign s, and whether it is inexact. -/
def roundShift (rm : Nat) (s : Bool) (m k : Nat) : Nat × Bool :=
  let q := m / 2 ^ k
  let r := m % 2 ^ k
  let up := match rm with
    | 0 => decide (2 * r > 2 ^ k) || (decide (2 * r = 2 ^ k) && q % 2 == 1)
    | 1 => false
    | 2 => s && r != 0
    | _ => !s && r != 0
  (if up then q + 1 else q, r != 0)

/-- m × 2^e rounded to a multiple of 2^g, in units of 2^g. -/
def roundTo (rm : Nat) (s : Bool) (m : Nat) (e g : Int) : Nat × Bool :=
  if g ≤ e then (shl m (e - g), false) else roundShift rm s m (g - e).toNat

/-! Decode (R150, R156, R159 to R161) -/

def floatDecode (im : Image) (c : Nat) : Val :=
  let s := im.sign && c.testBit (im.ew - 1)
  let f := field c im.manb im.expb
  let t := field c 0 im.manb
  let emin := 1 - im.bias
  if s && f == 0 && t == 0 && im.nz != 0 then .nan (im.nz == 2)
  else if f == 2 ^ im.expb - 1 && im.inf && t == 0 then .inf s
  else if f == 2 ^ im.expb - 1 && im.nan == 1 && t != 0 then .nan s
  else if f == 2 ^ im.expb - 1 && im.nan == 2 && t == 2 ^ im.manb - 1 then .nan s
  else if f == 0 then
    if t == 0 || !im.sub then .num s 0 0 else .num s t (emin - im.manb)
  else .num s (2 ^ im.manb + t) (Int.ofNat f - im.bias - im.manb)

def intDecode (im : Image) (c : Nat) : Val :=
  let c := field c 0 im.ew
  let s := im.sign && c.testBit (im.ew - 1)
  .num s (if s then 2 ^ im.ew - c else c) 0

def scaleDecode (c : Nat) : Val :=
  let x := field c 0 8
  if x == 255 then .nan false else .num false 1 (Int.ofNat x - 127)

/-- The table T of R161. -/
def logT (i : Nat) : Nat := match i with | 0 => 0x80 | 1 => 0x98 | 2 => 0xB5 | _ => 0xD7
/-- The two's-complement c of a LOG6 code. -/
def logC (c : Nat) : Int := let x := field c 0 5; if x < 16 then Int.ofNat x else Int.ofNat x - 32
def logVal (s : Bool) (c : Int) : Val := .num s (logT (c % 4).toNat) (c / 4 - 7)
def logDecode (c : Nat) : Val :=
  let s := c.testBit 5
  if logC c == -16 then (if s then .nan true else .num false 0 0) else logVal s (logC c)

/-- Decode one code under an image's element parameters (R182: bits above EW are ignored). -/
def decodeCode (im : Image) (c : Nat) : Val :=
  match im.kind with
  | 0 => floatDecode im (field c 0 im.ew)
  | 1 => intDecode im c
  | 2 => logDecode c
  | _ => scaleDecode c

/-! Encode (R152, R157 to R161) -/

/-- The exponent and mantissa bits of MAXF (R156): zero's where every finite code decodes to zero. -/
def maxCode (im : Image) : Nat :=
  let top := 2 ^ im.expb - 1
  let all := top * 2 ^ im.manb + (2 ^ im.manb - 1)
  let c := if im.nan == 1 then (if im.inf then top * 2 ^ im.manb - 1 else top * 2 ^ im.manb)
    else if im.nan == 2 then all - 1 else all
  if !im.sub && decide (c < 2 ^ im.manb) then 0 else c

def signBit (im : Image) (s : Bool) : Nat := if im.sign && s then 2 ^ (im.ew - 1) else 0
/-- The canonical NaN (R156). Under NAN IEEE with no mantissa bit R156 gives no t, and the code is a free value of EW
bits (log entry 62). -/
def cnan (im : Image) : Nat :=
  if im.nan == 1 && im.manb == 0 then Config.bareNan im.ew im.expb % 2 ^ im.ew
  else (2 ^ im.expb - 1) * 2 ^ im.manb + (if im.nan == 1 then 2 ^ (im.manb - 1) else 2 ^ im.manb - 1)
def infCode (im : Image) (s : Bool) : Nat := (2 ^ im.expb - 1) * 2 ^ im.manb + signBit im s
/-- Z(s) of R157. -/
def zeroCode (im : Image) (s : Bool) : Nat := if im.nz == 0 then signBit im s else 0

/-- The overflow result of R158. -/
def overflowCode (im : Image) (rm : Nat) (sat s : Bool) : Nat :=
  if sat || im.ovf == 1 then maxCode im + signBit im s
  else if im.ovf == 2 then cnan im
  else match rm with
    | 0 => infCode im s
    | 1 => maxCode im + signBit im s
    | 3 => if s then maxCode im + signBit im s else infCode im s
    | _ => if s then infCode im s else maxCode im + signBit im s

def floatNan (im : Image) : Nat × Flags := if im.nan != 0 then (cnan im, 0) else (0, flIV)

/-- A finite nonzero value into a float kind (R157). -/
def floatEncodeNum (im : Image) (rm : Nat) (sat s : Bool) (m : Nat) (e : Int) : Nat × Flags :=
  let emin := 1 - im.bias
  let lg := ilog m e
  let g := max lg emin - Int.ofNat im.manb
  let (u, nx) := roundTo rm s m e g
  let code := ((g + Int.ofNat im.manb + im.bias).toNat * 2 ^ im.manb + u) - 2 ^ im.manb
  if code > maxCode im then (overflowCode im rm sat s, flOF ||| flNX)
  else
    let uf := flIf (decide (lg < emin) && nx) flUF
    if !im.sub && u != 0 && decide (code < 2 ^ im.manb) then (zeroCode im s, flUF ||| flNX)
    else if u == 0 then (zeroCode im s, uf ||| flIf nx flNX)
    else (code + signBit im s, uf ||| flIf nx flNX)

/-- A float's encode (R157). A NaN of sign 1 encoded without a sign sets IV: DESIGN CHOICE (log 83), R184 and R157 differ. -/
def floatEncode (im : Image) (rm : Nat) (sat : Bool) : Val → Nat × Flags
  | .nan s => let (c, f) := floatNan im; (c, f ||| flIf (!im.sign && s) flIV)
  | .inf s =>
    if !im.sign && s then let (c, f) := floatNan im; (c, f ||| flIV)
    else if im.inf then (infCode im s, 0)
    else if im.ovf == 2 && !sat then (cnan im, flIV)
    else (maxCode im + signBit im s, flOF ||| flNX)
  | .num s m e =>
    if m == 0 then (zeroCode im s, 0)
    else if !im.sign && s then let (c, f) := floatNan im; (c, f ||| flIV)
    else floatEncodeNum im rm sat s m e

/-- Rounded to an integer, as a signed integer (R159). -/
def roundInt (rm : Nat) (s : Bool) (m : Nat) (e : Int) : Int × Bool :=
  let (q, nx) := roundTo rm s m e 0
  (if s then - Int.ofNat q else Int.ofNat q, nx)

/-- Into the integers LO to HI (R159, R195). -/
def clampEncode (lo hi : Int) (rm : Nat) : Val → Int × Flags
  | .nan _ => (0, flIV)
  | .inf s => (if s then lo else hi, flIV)
  | .num s m e =>
    let (y, nx) := roundInt rm s m e
    if y < lo then (lo, flIV) else if y > hi then (hi, flIV) else (y, flIf nx flNX)

/-- The low w bits of a signed integer. -/
def wrap (w : Nat) (v : Int) : Nat := (v % (2 ^ w : Nat)).toNat
def intLo (sign : Bool) (w : Nat) : Int := if sign then - Int.ofNat (2 ^ (w - 1)) else 0
def intHi (sign : Bool) (w : Nat) : Int := if sign then Int.ofNat (2 ^ (w - 1) - 1) else Int.ofNat (2 ^ w - 1)

def intEncode (im : Image) (rm : Nat) (v : Val) : Nat × Flags :=
  let (y, f) := clampEncode (intLo im.sign im.ew) (intHi im.sign im.ew) rm v
  (wrap im.ew y, f)

/-- R160. RP takes the upper candidate whatever r is. -/
def scaleEncode (rm : Nat) : Val → Nat × Flags
  | .nan _ => (255, flIV)
  | .inf _ => (255, flIV)
  | .num s m e =>
    if s || m == 0 then (255, flIV)
    else
      let p := 2 ^ Nat.log2 m
      let lower : Int := ilog m e + 127
      let up := match rm with
        | 0 => decide (2 * m > 3 * p) || (decide (2 * m = 3 * p) && lower % 2 == 1)
        | 3 => true
        | _ => false
      let x : Int := if up then lower + 1 else lower
      if x > 254 then (254, flOF ||| flNX)
      else if x < 0 then (0, flUF ||| flNX)
      else (x.toNat, flIf (decide (m ≠ p)) flNX)

/-- The codes of D of R161, zero written 0x10. -/
def logCodes : List Nat := (List.range 64).filter fun c => c != 0x30

/-- R161: of the codes that satisfy ok, the one with the least |value − r|, a tie going to the code with bit 0 clear. -/
def logNearest (ok : Int → Bool) (r b : Int) : Option Nat :=
  logCodes.foldl (init := none) fun best c =>
    match logDecode c with
    | .num s m e =>
      let v := scaled s m e b
      if !ok v then best
      else match best with
        | none => some c
        | some c' =>
          match logDecode c' with
          | .num s' m' e' =>
            let v' := scaled s' m' e' b
            let d := (v - r).natAbs
            let d' := (v' - r).natAbs
            if d < d' || (d == d' && c' % 2 == 1) then some c else best
          | _ => some c
    | _ => best

def logTop (s : Bool) : Nat := if s then 0x2F else 0x0F

def logEncode (rm : Nat) : Val → Nat × Flags
  | .nan _ => (0x30, 0)
  | .inf s => (logTop s, flOF ||| flNX)
  | .num s m e =>
    if m == 0 then (0x10, 0)
    else
      let b := min e (-11)
      let r := scaled s m e b
      let ok : Int → Bool := match rm with
        | 0 => fun _ => true
        | 1 => fun v => decide (v.natAbs ≤ r.natAbs) && (v == 0 || decide (v < 0) == s)
        | 2 => fun v => decide (v ≤ r)
        | _ => fun v => decide (r ≤ v)
      let c := (logNearest ok r b).getD (logTop s)
      let exact := match logDecode c with | .num s' m' e' => scaled s' m' e' b == r | _ => false
      let big := decide (r.natAbs > (scaled false 215 (-4) b).natAbs)
      (c, flIf big (flOF ||| flNX) ||| flIf (!exact) flNX)

/-- Encode one exact value under an image's element parameters (R152). -/
def encodeVal (im : Image) (rm : Nat) (sat : Bool) (v : Val) : Nat × Flags :=
  match im.kind with
  | 0 => floatEncode im rm sat v
  | 1 => intEncode im rm v
  | 2 => logEncode rm v
  | _ => scaleEncode rm v

/-! Factory images (R162) -/

def mkImage (fid ew sigw cls kind expb manb : Nat) (bias : Int) (policy nz blk bytes : Nat) : Image :=
  { fid, ew, sigw, cls, kind, expb, manb, bias, sign := policy.testBit 0, inf := policy.testBit 1,
    nan := field policy 2 2, sub := policy.testBit 4, ovf := field policy 5 2, nz, blk, blkBytes := bytes,
    bodyLen := 0, keyId := 0, gen := 0, digest := 0 }

/-- F0: IEEE 754 binary32, generation 0 (R149). -/
def fp32 : Image := mkImage 0 32 24 0 0 8 23 127 0x17 0 0 0
def bf16 : Image := mkImage 1 16 8 2 0 8 7 127 0x17 0 0 0
def e2m1 : Image := mkImage 7 4 2 1 0 2 1 1 0x31 0 0 0

/-- The rows of R162, by format ID; FID 0 is bound only to F0. The table gives LOG6 no EXPB, MANB and BIAS and E8M0 no
EXPB and MANB: the model's header bytes are 0 there (log entry 63). -/
def factoryRow (fid : Nat) : Option Image :=
  match fid with
  | 0x01 => some bf16
  | 0x02 => some (mkImage 2 16 11 3 0 5 10 15 0x17 0 0 0)
  | 0x03 => some (mkImage 3 8 4 1 0 4 3 7 0x59 0 0 0)
  | 0x04 => some (mkImage 4 8 3 1 0 5 2 15 0x17 0 0 0)
  | 0x05 => some (mkImage 5 6 3 1 0 3 2 3 0x31 0 0 0)
  | 0x06 => some (mkImage 6 6 4 1 0 2 3 1 0x31 0 0 0)
  | 0x07 => some e2m1
  | 0x08 => some (mkImage 8 8 8 2 1 0 0 0 0x31 0 0 0)
  | 0x09 => some (mkImage 9 4 4 1 1 0 0 0 0x31 0 0 0)
  | 0x0A => some (mkImage 10 6 8 1 2 0 0 0 0x31 0 0 0)
  | 0x0B => some (mkImage 11 4 2 1 0 2 1 1 0x31 2 2 32)
  | 0x0C => some (mkImage 12 8 1 0 3 0 0 127 0x38 0 0 0)
  | 0x10 => some (mkImage 16 8 4 1 0 4 3 7 0x59 0 1 36)
  | 0x11 => some (mkImage 17 8 3 1 0 5 2 15 0x17 0 1 36)
  | 0x12 => some (mkImage 18 6 3 1 0 3 2 3 0x31 0 1 28)
  | 0x13 => some (mkImage 19 6 4 1 0 2 3 1 0x31 0 1 28)
  | 0x14 => some (mkImage 20 4 2 1 0 2 1 1 0x31 0 1 20)
  | 0x15 => some (mkImage 21 8 8 2 1 0 0 0 0x31 0 1 36)
  | _ => none

def policyByte (im : Image) : Nat :=
  im.sign.toNat + 2 * im.inf.toNat + 4 * im.nan + 16 * im.sub.toNat + 32 * im.ovf

/-- The 256 header bytes (R171). -/
def headerBytes (im : Image) : List Byte :=
  bytesOfNat 4 0x31465844 ++ bytesOfNat 2 1 ++ bytesOfNat 2 im.fid ++
  [byte im.ew, byte im.sigw, byte im.cls, byte im.kind, byte im.expb, byte im.manb] ++
  bytesOfNat 2 (wrap 16 im.bias) ++
  [byte (policyByte im), byte im.nz, byte im.blk, byte (if im.blk == 0 then 0 else 32)] ++
  bytesOfNat 2 (if im.blk == 0 then 0 else 0x0C) ++ bytesOfNat 2 (if im.blk == 2 then 1 else 0) ++
  [byte (if im.blk == 2 then 6 else 0), 0] ++ bytesOfNat 2 im.blkBytes ++ bytesOfNat 4 im.bodyLen ++
  bytesOfNat 64 im.keyId ++ List.replicate 160 0

/-- Header word w (R181). -/
def headerWord (im : Image) (w : Nat) : Nat := natOfBytes (((headerBytes im).drop (4 * w)).take 4)

/-- SIGW to CLASS (R153). -/
def classOf (sigw : Nat) : Nat := if sigw ≤ 5 then 1 else if sigw ≤ 8 then 2 else if sigw ≤ 12 then 3 else 0

/-- EMAXE of R163: the exponent of the largest element. -/
def emaxe (im : Image) : Int :=
  if im.fid == 0x15 then 0
  else if im.kind == 1 then Int.ofNat (Nat.log2 (intHi im.sign im.ew).toNat)
  else Int.ofNat (maxCode im / 2 ^ im.manb) - im.bias

/-- The scale exponent an MX element carries besides X (R163): MXINT8 values are v × 2^(X − 127 − 6). -/
def mxBias (im : Image) : Int := if im.fid == 0x15 then 133 else 127

/-- The format limits and agreements of R153, R163, R164, R168 and R171: what makes a header malformed. Of an FP4X
header it holds EW, SIGN, EXPB, MANB, BIAS and BLKBYTES to E2M1's, and not INF, NAN, SUB and OVF: DESIGN CHOICE (log 82). -/
def imageOk (im : Image) : Bool :=
  decide (2 ≤ im.ew) && decide (im.ew ≤ 32) && decide (1 ≤ im.sigw) && decide (im.sigw ≤ 24) &&
  decide (im.cls ≤ 3) && decide (im.kind ≤ 3) && decide (im.nan ≤ 2) && decide (im.ovf ≤ 2) &&
  decide (im.nz ≤ 2) && decide (im.blk ≤ 2) && decide (im.bodyLen % 64 = 0) && decide (im.bodyLen ≤ 61440) &&
  (im.kind == 0 || im.sub) && ((im.nz == 2) == (im.blk == 2)) &&
  (match im.kind with
   | 0 =>
     decide (im.expb ≥ 1) && decide (im.expb ≤ 8) && decide (im.manb ≤ 23) &&
     decide (im.ew = im.sign.toNat + im.expb + im.manb) &&
     decide (-255 ≤ im.bias) && decide (im.bias ≤ 255) &&
     (im.inf == (im.nan == 1)) && !(im.ovf == 0 && !im.inf) && !(im.ovf == 2 && im.nan == 0) &&
     !(im.nz == 1 && (!im.sign || im.nan != 0)) &&
     decide (1 - im.bias - im.manb ≥ -512) &&
     decide (Int.ofNat (2 ^ im.expb - 1) - im.bias - im.manb ≤ 511) &&
     im.sigw == im.manb + 1 && im.cls == classOf im.sigw
   | 1 =>
     decide (im.ew ≤ 24) && im.expb == 0 && im.manb == 0 && im.bias == 0 && !im.inf && im.nan == 0 &&
     im.ovf == 1 && !(im.nz == 1 && !im.sign) && im.sigw == im.ew && im.cls == classOf im.sigw
   | 2 => im.ew == 6 && im.sigw == 8 && im.cls == 1
   | _ => im.ew == 8 && im.cls == 0) &&
  (match im.blk with
   | 0 => im.blkBytes == 0
   | 1 => decide (im.kind ≤ 1) && decide (im.ew ≤ 8) && im.blkBytes == 4 * im.ew + 4
   | _ => im.ew == 4 && im.sign && im.expb == 2 && im.manb == 1 && im.bias == 1 && im.blkBytes == 32)

/-- The image a 256-byte header describes, or none where it is malformed (R171, R176 status 0x02). -/
def parseHeader (h : List Byte) : Option Image :=
  let n (a k : Nat) : Nat := natOfBytes ((h.drop a).take k)
  let b := n 0x0E 2
  let p := n 0x10 1
  let im := { mkImage (n 6 2) (n 8 1) (n 9 1) (n 10 1) (n 11 1) (n 12 1) (n 13 1)
      (if b < 32768 then Int.ofNat b else Int.ofNat b - 65536) p (n 0x11 1) (n 0x12 1) (n 0x1A 2) with
      bodyLen := n 0x1C 4, keyId := n 0x20 64 }
  if n 0 4 == 0x31465844 && n 4 2 == 1 && p < 128 && n 0x19 1 == 0 && n 0x60 160 == 0 &&
     n 0x13 1 == (if im.blk == 0 then 0 else 32) && n 0x14 2 == (if im.blk == 0 then 0 else 0x0C) &&
     n 0x16 2 == (if im.blk == 2 then 1 else 0) && n 0x18 1 == (if im.blk == 2 then 6 else 0) && imageOk im
  then some im else none

/-! Exact arithmetic (R183, R188) -/

/-- Whether a value is a NaN. -/
def isNan : Val → Bool
  | .nan _ => true
  | _ => false

def negVal : Val → Val
  | .nan s => .nan s
  | .inf s => .inf (!s)
  | .num s m e => .num (!s) m e

/-- r := a × b (R188). -/
def mulVal : Val → Val → Val × Flags
  | .nan _, _ => (.nan false, 0)
  | _, .nan _ => (.nan false, 0)
  | .inf s, .inf t => (.inf (s != t), 0)
  | .inf s, .num t m _ => if m == 0 then (.nan false, flIV) else (.inf (s != t), 0)
  | .num s m _, .inf t => if m == 0 then (.nan false, flIV) else (.inf (s != t), 0)
  | .num s m e, .num t n f => (.num (s != t) (m * n) (e + f), 0)

/-- r := a + b (R188): an exact zero is +0, or −0 under RM. -/
def addVal (rm : Nat) : Val → Val → Val × Flags
  | .nan _, _ => (.nan false, 0)
  | _, .nan _ => (.nan false, 0)
  | .inf s, .inf t => if s == t then (.inf s, 0) else (.nan false, flIV)
  | .inf s, .num .. => (.inf s, 0)
  | .num .., .inf t => (.inf t, 0)
  | .num s m e, .num t n f =>
    if m == 0 && n == 0 then (.num (if s == t then s else rm == 2) 0 0, 0)
    else if m == 0 then (.num t n f, 0)
    else if n == 0 then (.num s m e, 0)
    else
      let b := min e f
      let x := scaled s m e b + scaled t n f b
      if x == 0 then (.num (rm == 2) 0 0, 0) else (.num (decide (x < 0)) x.natAbs b, 0)

/-- r := a × b + c with no rounding of a × b; 0 × ∞ is IV whatever c is (R188). -/
def fmaVal (rm : Nat) (a b c : Val) : Val × Flags :=
  let (p, fp) := mulVal a b
  if fp != 0 then (.nan false, fp) else addVal rm p c

/-- Compare: none if unordered; −0 equals +0 (R189, R190). -/
def cmpVal : Val → Val → Option Ordering
  | .nan _, _ => none
  | _, .nan _ => none
  | .inf s, .inf t => some (if s == t then .eq else if s then .lt else .gt)
  | .inf s, .num .. => some (if s then .lt else .gt)
  | .num .., .inf t => some (if t then .gt else .lt)
  | .num s m e, .num t n f => let b := min e f; some (compare (scaled s m e b) (scaled t n f b))

def signOf : Val → Bool
  | .nan s => s
  | .inf s => s
  | .num s _ _ => s

/-- The operand FMIN (most := false) or FMAX chooses (R189). -/
def pickVal (most : Bool) (a b : Val) : Val :=
  match a, b with
  | .nan _, b => b
  | a, .nan _ => a
  | a, b =>
    match cmpVal a b with
    | some .lt => if most then b else a
    | some .gt => if most then a else b
    | _ => if signOf a == most then b else a

/-- The condition of FCMP and its IV (R190). -/
def fcmpVal (cc : Nat) (a b : Val) : Bool × Flags :=
  match cmpVal a b with
  | none => (cc == 1 || cc == 6, flIf (decide (2 ≤ cc) && decide (cc ≤ 5)) flIV)
  | some o => (match cc with
    | 0 => o == .eq
    | 1 => o != .eq
    | 2 => o == .lt
    | 3 => o != .gt
    | 4 => o == .gt
    | 5 => o != .lt
    | 6 => false
    | _ => true, 0)

/-- FCLASS (R191). -/
def classifyCode (im : Image) (c : Nat) : Nat :=
  match decodeCode im c with
  | .nan _ => 2 ^ 8
  | .inf s => if s then 1 else 2 ^ 7
  | .num s m _ =>
    if m == 0 then (if s then 2 ^ 3 else 2 ^ 4)
    else if im.kind == 0 && field c im.manb im.expb == 0 then (if s then 2 ^ 2 else 2 ^ 5)
    else if s then 2 ^ 1 else 2 ^ 6

/-- FRND (R192). -/
def frndVal (im : Image) (rm : Nat) (sat : Bool) (a : Val) : Nat × Flags :=
  match a with
  | .num s m e =>
    let (q, nx) := roundTo rm s m e 0
    let (c, f) := encodeVal im rm sat (.num s q 0)
    (c, f ||| flIf nx flNX)
  | a => encodeVal im rm sat a

/-- FSCALE (R192). -/
def scaleVal (a : Val) (n : Int) : Val :=
  match a with
  | .num s m e => .num s m (e + max (-1100) (min 1100 n))
  | a => a

/-- The integer square root of n by fuel bits of Newton's digit method. -/
def isqrtBits (n : Nat) : Nat → Nat → Nat
  | 0, r => r
  | k + 1, r => let c := r + 2 ^ k; isqrtBits n k (if c * c ≤ n then c else r)
def isqrt (n : Nat) : Nat := isqrtBits n (Nat.log2 n / 2 + 1) 0

/-- √(m × 2^e) to 40 bits and a sticky half (R183); exact where the root is. -/
def sqrtNum (m : Nat) (e : Int) : Nat × Int :=
  let m' := if e % 2 == 0 then m else 2 * m
  let e' := if e % 2 == 0 then e else e - 1
  let q := isqrt (m' * 2 ^ 80)
  if q * q == m' * 2 ^ 80 then (q, e' / 2 - 40) else (2 * q + 1, e' / 2 - 41)

/-- m ÷ n to 64 bits below the point and a sticky half. -/
def divNum (m n : Nat) : Nat × Int :=
  let q := m * 2 ^ 64 / n
  if q * n == m * 2 ^ 64 then (q, -64) else (2 * q + 1, -65)

/-- FSQRT (R198). -/
def fsqrtVal : Val → Val × Flags
  | .nan s => (.nan s, 0)
  | .inf s => if s then (.nan false, flIV) else (.inf false, 0)
  | .num s m e =>
    if m == 0 then (.num s 0 0, 0)
    else if s then (.nan false, flIV)
    else let (q, f) := sqrtNum m e; (.num false q f, 0)

/-! Special functions (R197, R198): y is a free value of the device within the bounds of the table. The exact f(a) enters
through rational approximations, whose error is far below every bound. -/

/-- m × 2^e with an odd significand: one argument for one number (R197). -/
def oddForm (m : Nat) (e : Int) : Nat × Int :=
  let p := Nat.gcd m (2 ^ Nat.log2 m)
  (m / p, e + Int.ofNat (Nat.log2 p))

/-- Fixed point with b bits below the point, of a natural significand. -/
def fixed (b : Nat) (m : Nat) (e : Int) : Nat := shl m (e + b)

/-- Σ z^(2k+1) / (2k+1) with alternating or equal signs: the series of atanh and atan, n terms; z and z² in b bits. -/
def oddSeries (b : Nat) (alt : Bool) (z2 : Nat) : Nat → Nat → Nat → Int
  | 0, _, _ => 0
  | n + 1, k, p =>
    let t := Int.ofNat (p / (2 * k + 1))
    oddSeries b alt z2 n (k + 1) (p * z2 / 2 ^ b) + (if alt && k % 2 == 1 then -t else t)

/-- atan(1/q) and atanh(x) in b bits. -/
def atanInv (b q : Nat) : Int := oddSeries b true (2 ^ b / (q * q)) (b / 2 + 2) 0 (2 ^ b / q)
def atanhFix (b x : Nat) : Int := oddSeries b false (x * x / 2 ^ b) (b / 3 + 2) 0 x
/-- π (Machin's formula) and ln 2 in b bits. -/
def piFix (b : Nat) : Nat := (16 * atanInv b 5 - 4 * atanInv b 239).toNat
def ln2Fix (b : Nat) : Nat := (2 * atanhFix b (2 ^ b / 3)).toNat

/-- Σ z^k / k!, of the terms k, k + step, …: exp with step 1, cos and sin with step 2 and alternating signs. -/
def expSeries (b : Nat) (alt : Bool) (step z : Nat) : Nat → Nat → Nat → Int
  | 0, _, _ => 0
  | n + 1, k, t =>
    let t' := if step == 1 then t * z / 2 ^ b / (k + 1) else t * z / 2 ^ b * z / 2 ^ b / ((k + 1) * (k + 2))
    let rest := expSeries b alt step z n (k + step) t'
    Int.ofNat t + (if alt then -rest else rest)

/-- 2^x in b bits, for x in b bits. -/
def exp2Fix (b x : Nat) : Nat :=
  let z := (x % 2 ^ b) * ln2Fix b / 2 ^ b
  (expSeries b false 1 z (b / 2 + 4) 0 (2 ^ b)).toNat * 2 ^ (x / 2 ^ b)

/-- 2^a, for a < 128; far below the binary32 range a value as far below stands in. -/
def exp2Val (s : Bool) (m : Nat) (e : Int) : Val :=
  if 12 ≤ ilog m e then .num false 1 (-4096)
  else
    let b := 160
    let x := scaled s (fixed b m e) 0 0
    let n := x / (2 ^ b : Nat)
    .num false (exp2Fix b (x % (2 ^ b : Nat)).toNat) (n - b)

/-- log2 a, for a > 0. -/
def log2Val (m : Nat) (e : Int) : Val :=
  let b := 160
  let k := ilog m e
  let u := fixed b m (e - k)
  let l := 2 * (atanhFix b ((u - 2 ^ b) * 2 ^ b / (u + 2 ^ b))).toNat * 2 ^ b / ln2Fix b
  let v := k * (2 ^ b : Nat) + Int.ofNat l
  .num (decide (v < 0)) v.natAbs (-b)

/-- sin a or cos a. -/
def sinVal (cosine s : Bool) (m : Nat) (e : Int) : Val :=
  let b := 160
  let q := b + 8 + (max 0 (ilog m e)).toNat
  let r := fixed q m e % (2 * piFix q) / 2 ^ (q - b)
  let v := if cosine then expSeries b true 2 r 64 0 (2 ^ b) else expSeries b true 2 r 64 1 r
  .num (decide (v < 0) != (s && !cosine)) v.natAbs (-b)

/-- tanh a, to a relative precision. -/
def tanhVal (s : Bool) (m : Nat) (e : Int) : Val :=
  if 7 ≤ ilog m e then .num s 1 0
  else
    let b := 160 + 2 * (-(min 0 (ilog m e))).toNat
    let y := 2 * fixed b m e * 2 ^ b / ln2Fix b
    let n := y / 2 ^ b + 1
    let x := exp2Fix b (n * 2 ^ b - y) / 2 ^ n
    .num s ((2 ^ b - x) * 2 ^ b / (2 ^ b + x)) (-b)

/-- 1/a and 1/√a, for a > 0: exact, or with a relative error below 2^-120. -/
def recipVal (s : Bool) (m : Nat) (e : Int) : Val :=
  let b := 160 + Nat.log2 m
  .num s (2 ^ b / m) (-b - e)
def rsqrtVal (m : Nat) (e : Int) : Val :=
  let m' := if e % 2 == 0 then m else 2 * m
  let e' := if e % 2 == 0 then e else e - 1
  let b := 160 + Nat.log2 m
  .num false (isqrt (2 ^ (2 * b) / m')) (-b - e' / 2)

/-- The exact f(a) as the model computes it. -/
def exactVal (fn : Nat) (s : Bool) (m : Nat) (e : Int) : Val :=
  match fn with
  | 0 => recipVal s m e
  | 1 => rsqrtVal m e
  | 3 => exp2Val s m e
  | 4 => log2Val m e
  | 5 => sinVal false s m e
  | 6 => sinVal true s m e
  | _ => tanhVal s m e

/-- The exponent of binary32's unit in the last place at a value, subnormals kept. -/
def ulpExp : Val → Int
  | .num _ m e => if m == 0 then -149 else max (ilog m e) (-126) - 23
  | _ => -149

/-- The bound of R198 on |y − f(a)| as a power of two. -/
def boundExp (fn : Nat) (m : Nat) (e : Int) (v : Val) : Int :=
  match fn with
  | 0 => ulpExp v
  | 1 => ulpExp v
  | 4 => if ilog m e == -1 || ilog m e == 0 || (ilog m e == 1 && m == 2 ^ Nat.log2 m) then -22 else ulpExp v + 1
  | 5 => -22
  | 6 => -22
  | _ => ulpExp v + 1

/-- Whether a binary32 code lies within 2^g of a value, the error of its approximation (below 2^(g − 80)) allowed. -/
def within (g : Int) (v : Val) (y : Nat) : Bool :=
  match v, decodeCode fp32 y with
  | .num s m e, .num t n f =>
    let b := min (min e f) (g - 80)
    decide ((scaled s m e b - scaled t n f b).natAbs ≤ 2 ^ (g - b).toNat + 2 ^ (g - 80 - b).toNat)
  | _, _ => false

/-- Whether the exact result lies beyond the binary32 range, where R198 states no bound. -/
def beyond : Val → Bool
  | .num _ m e => m != 0 && decide (128 ≤ ilog m e)
  | _ => false

/-- The device's y: its own value within the bound; the value nearest f(a) stands in where that lies outside it. -/
def specialY (fn : Nat) (s : Bool) (m : Nat) (e : Int) : Nat :=
  let (m, e) := oddForm m e
  let y := (Config.special fn s m e).toNat
  let v := exactVal fn s m e
  if beyond v || within (boundExp fn m e v) v y then y else (encodeVal fp32 0 false v).1

/-- Whether f(a) is a binary32 number that y equals: 1/a and 1/√a by multiplying back; 2^a and log2 a where they are
rational; never a sine, a cosine or a hyperbolic tangent of a number other than 0. -/
def isExact (fn : Nat) (s : Bool) (m : Nat) (e : Int) (y : Val) : Bool :=
  let a : Val := .num s m e
  let one : Val := .num false 1 0
  match fn with
  | 0 => cmpVal (mulVal y a).1 one == some .eq
  | 1 => !signOf y && cmpVal (mulVal (mulVal y y).1 a).1 one == some .eq
  | 3 =>
    (decide (0 ≤ e) || m % 2 ^ (-e).toNat == 0) && decide (ilog m e < 12) &&
      cmpVal (.num false 1 (scaled s m e (min e 0) / (2 ^ (-(min e 0)).toNat : Nat))) y == some .eq
  | 4 => m == 2 ^ Nat.log2 m && cmpVal (.num (decide (ilog m e < 0)) (ilog m e).natAbs 0) y == some .eq
  | _ => false

/-- Whether |f(a)| is below 2^-126, not 0: tiny before rounding (R157, R198). -/
def tinyResult (fn : Nat) (s : Bool) (m : Nat) (e : Int) : Bool :=
  let a : Val := .num false m e
  let small : Bool := cmpVal a (.num false 1 (-126)) != some .gt
  match fn with
  | 0 => cmpVal a (.num false 1 126) == some .gt
  | 1 => cmpVal a (.num false 1 252) == some .gt
  | 3 => s && cmpVal a (.num false 126 0) == some .gt
  | 5 => small
  | 7 => small
  | _ => false

/-- The intermediate of a finite operand other than 0, with its flags: NX where y is not f(a), UF with it where f(a) is
tiny, OF with it where y is an infinity. -/
def freeVal (fn : Nat) (s : Bool) (m : Nat) (e : Int) : Val × Flags :=
  let y := decodeCode fp32 (specialY fn s m e)
  let nx := !isExact fn s m e y
  (y, flIf nx flNX ||| flIf (nx && tinyResult fn s m e) flUF ||| flIf (match y with | .inf _ => true | _ => false) flOF)

/-- y and the flags on the intermediate (R198). Functions by FN: 0 FRCP, 1 FRSQ, 3 FEXP2, 4 FLOG2, 5 FSIN,
6 FCOS, 7 FTANH. FLOG2 of +∞, which R198 does not list, is +∞ with no flag: DESIGN CHOICE (log 83). -/
def specialVal (fn : Nat) (a : Val) : Val × Flags :=
  match a with
  | .nan s => (.nan s, 0)
  | .inf s =>
    match fn with
    | 0 => (.num s 0 0, 0)
    | 1 => if s then (.nan false, flIV) else (.num false 0 0, 0)
    | 3 => if s then (.num false 0 0, 0) else (.inf false, 0)
    | 4 => if s then (.nan false, flIV) else (.inf false, 0)
    | 7 => (.num s 1 0, 0)
    | _ => (.nan false, flIV)
  | .num s m e =>
    if m == 0 then
      match fn with
      | 0 => (.inf s, flDZ)
      | 1 => (.inf s, flDZ)
      | 3 => (.num false 1 0, 0)
      | 4 => (.inf true, flDZ)
      | 6 => (.num false 1 0, 0)
      | _ => (.num s 0 0, 0)
    else match fn with
    | 1 => if s then (.nan false, flIV) else freeVal fn s m e
    | 3 => if !s && decide (ilog m e ≥ 7) then (.inf false, flOF ||| flNX) else freeVal fn s m e
    | 4 =>
      if s then (.nan false, flIV)
      else if cmpVal a (.num false 1 0) == some .eq then (.num false 0 0, 0)
      else freeVal fn s m e
    | _ => freeVal fn s m e

/-! Products in groups (R161, R200, R211) -/

/-- One product of two codes: the log-sum product where both formats are LOG6 (R161). A zero times a NaN
is NaN: DESIGN CHOICE (log 83), R161 says zero and NaN both. -/
def prodCodes (ia : Image) (ca : Nat) (ib : Image) (cb : Nat) : Val × Flags :=
  if ia.kind == 2 && ib.kind == 2 then
    match logDecode ca, logDecode cb with
    | .num s m _, .num t n _ =>
      if m == 0 || n == 0 then (.num (s != t) 0 0, 0)
      else (logVal (s != t) (logC ca + logC cb), 0)
    | _, _ => (.nan false, 0)
  else mulVal (decodeCode ia ca) (decodeCode ib cb)

/-- Steps of R200 (g) and R211: NaN, infinities, or the sum of the products truncated 27 bits below the largest,
rounded once to FP32. The flags are those of R200. -/
def groupSum (ps : List Val) : Val × Flags :=
  if ps.any isNan then (.nan false, flIV)
  else
    let pos := ps.any fun p => p == .inf false
    let neg := ps.any fun p => p == .inf true
    if pos && neg then (.nan false, flIV)
    else if pos then (.inf false, 0)
    else if neg then (.inf true, 0)
    else
      let nz := ps.filterMap fun p => match p with | .num s m e => if m == 0 then none else some (s, m, e) | _ => none
      match nz with
      | [] => (.num (ps.all signOf) 0 0, 0)
      | (_, m₀, e₀) :: rest =>
        let g := rest.foldl (fun a p => max a (ilog p.2.1 p.2.2)) (ilog m₀ e₀) - 27
        let t := nz.foldl (fun a p =>
          let q := Int.ofNat (roundTo 1 false p.2.1 p.2.2 g).1
          if p.1 then a - q else a + q) (0 : Int)
        let nx := nz.any fun p => (roundTo 1 false p.2.1 p.2.2 g).2
        if t == 0 then (.num false 0 0, flIf nx flNX)
        else
          let (c, f) := encodeVal fp32 0 false (.num (decide (t < 0)) t.natAbs g)
          (decodeCode fp32 c, f ||| flIf nx flNX)

/-- FDOT of one lane (R200). -/
def fdotCode (im : Image) (a b c : Nat) : Nat × Flags :=
  let ps := (List.range (32 / im.ew)).map fun j => (prodCodes im (field a (im.ew * j) im.ew) im (field b (im.ew * j) im.ew)).1
  let (g, fg) := groupSum ps
  let (r, fr) := addVal 0 (decodeCode fp32 c) g
  let (x, fx) := encodeVal fp32 0 false r
  (x, fg ||| fr ||| fx)

/-- FCVTI of one lane (R195), as the 32-bit lane word. -/
def cvtInt (rm w : Nat) (z : Bool) (a : Val) : Nat × Flags :=
  let (v, f) := clampEncode (intLo (!z) w) (intHi (!z) w) rm a
  (wrap 32 v, f)

/-- The integer ICVTF reads from the low w bits (R196). -/
def intVal (w : Nat) (z : Bool) (a : Nat) : Val :=
  let x := field a 0 w
  if !z && x.testBit (w - 1) then .num true (2 ^ w - x) 0 else .num false x 0

/-! Block records (R163 to R166), as natural numbers with byte 0 lowest -/

/-- Element k's value in an MX or FP4X record (R163, R165), and ES. -/
def blockDecode (im : Image) (rec : Nat) (k : Nat) : Val × Flags :=
  if im.blk == 2 then
    let x := field rec 128 8
    let n := field rec 136 8
    let code := field rec (4 * k) 4
    if x == 255 then (.nan false, 0)
    else if code == 8 then
      let j := ((List.range k).filter fun i => field rec (4 * i) 4 == 8).length
      if n ≤ 6 && j < n then (decodeCode bf16 (field rec (144 + 16 * j) 16), 0) else (.nan false, flES)
    else match decodeCode e2m1 code with
      | .num s m e => (.num s m (e + (Int.ofNat x - 127)), 0)
      | v => (v, 0)
  else
    let x := field rec (32 * im.ew) 8
    let code := field rec (im.ew * k) im.ew
    if x == 255 then (.nan false, 0)
    else match decodeCode im code with
      | .num s m e => (.num s m (e + (Int.ofNat x - mxBias im)), 0)
      | v => (v, 0)

def scaleBy (v : Val) (n : Int) : Val := match v with | .num s m e => .num s m (e + n) | v => v

/-- The greater of two magnitudes. -/
def magMax (a b : Val) : Val :=
  let p (v : Val) : Val := match v with | .num _ m e => .num false m e | .inf _ => .inf false | .nan s => .nan s
  if cmpVal (p a) (p b) == some .lt then p b else p a

def isNum : Val → Bool
  | .num .. => true
  | _ => false

/-- floor(log2) of a finite magnitude, or none for zero. -/
def magLog : Val → Option Int
  | .num _ m e => if m == 0 then none else some (ilog m e)
  | _ => none

/-- Concatenate codes of w bits, element 0 lowest. -/
def packCodes (w : Nat) : List Nat → Nat
  | [] => 0
  | c :: cs => c + 2 ^ w * packCodes w cs

def clampI (lo hi x : Int) : Int := max lo (min hi x)

/-- R163's encode. -/
def mxEncode (im : Image) (rm : Nat) (vs : List Val) : Nat × Flags :=
  if vs.any isNan || (!im.inf && vs.any fun v => !isNum v) then (255 * 2 ^ (32 * im.ew), flIV)
  else
    let a := (vs.filter isNum).foldl magMax (.num false 0 0)
    let x := match magLog a with | none => 0 | some l => clampI 0 254 (l - emaxe im + 127)
    let enc (v : Val) : Nat × Flags :=
      if im.fid == 0x15 then
        let (y, f) := clampEncode (-127) 127 rm (scaleBy v (133 - x)); (wrap 8 y, f)
      else encodeVal im rm true (scaleBy v (127 - x))
    let cs := vs.map enc
    (packCodes im.ew (cs.map (·.1)) + x.toNat * 2 ^ (32 * im.ew), cs.foldl (fun f c => f ||| c.2) 0)

/-- |a| > |b| in R166's ordering of magnitudes, for numbers and infinities. -/
def magGt (a b : Val) : Bool :=
  let p (v : Val) : Val := match v with | .num _ m e => .num false m e | .inf _ => .inf false | .nan s => .nan s
  cmpVal (p a) (p b) == some .gt

/-- Insert by descending magnitude, ties by lower index first. -/
def magInsert (x : Nat × Val) : List (Nat × Val) → List (Nat × Val)
  | [] => [x]
  | y :: ys => if magGt x.2 y.2 then x :: y :: ys else y :: magInsert x ys

/-- R166's encode. A magnitude between 6 and 7 × 2^sc outside O sets what E2M1's encode sets, NX and no OF: DESIGN CHOICE (log 81),
R166's prose and its pseudocode differ there. -/
def fp4xEncode (vs : List Val) : Nat × Flags :=
  if vs.any isNan then (255 * 2 ^ 128, flIV)
  else
    let order := vs.zipIdx.foldl (fun l p => magInsert (p.2, p.1) l) []
    let a7 := ((order.drop 6).head?.map (·.2)).getD (.num false 0 0)
    if !isNum a7 then (255 * 2 ^ 128, flIV)
    else
      let a := if (magLog a7).isSome then a7 else (vs.filter isNum).foldl magMax (.num false 0 0)
      let sc := match magLog a with | none => -127 | some l => clampI (-127) 127 (l - 2)
      let big := order.filter fun p => magGt p.2 (.num false 6 sc)
      let out := (big.take 6).map (·.1)
      let enc (p : Val × Nat) : Nat × Flags :=
        if out.contains p.2 then (8, 0)
        else let (c, f) := encodeVal e2m1 0 true (scaleBy p.1 (-sc)); (if c == 8 then 0 else c, f)
      let cs := vs.zipIdx.map enc
      let os := (vs.zipIdx.filter fun p => out.contains p.2).map fun p => encodeVal bf16 0 false p.1
      (packCodes 4 (cs.map (·.1)) + (sc + 127).toNat * 2 ^ 128 + out.length * 2 ^ 136
        + packCodes 16 (os.map (·.1)) * 2 ^ 144,
       (cs ++ os).foldl (fun f c => f ||| c.2) 0)

end Sys2Proof.Machine
end

