-- ==== Sys2Proof/Syntax.lean ====
section
/-! DEFINITION. The instruction set of R46 to R48 and the part's other steps (the rows of
opcode_table.json): one constructor per row. A word's constructor holds the fields its entry uses, decoded;
an event's constructor names what it happens to. -/

namespace Sys2Proof

/-- The predicate field PRED of R29: the index, negated when neg. -/
structure Pred where
  neg : Bool
  idx : PNum
  deriving DecidableEq, Repr

/-- A vector source: the operand codes of R32. `b n` is the broadcast of uniform register n. -/
inductive Operand where
  | v (n : BitVec 8)
  | t (n : BitVec 3)
  | b (n : BitVec 7)
  deriving DecidableEq, Repr

/-- A vector destination: a v or t code of R32. -/
inductive VDst where
  | v (n : BitVec 8)
  | t (n : BitVec 3)
  deriving DecidableEq, Repr

/-- The second operand of opcode 0x00 (R31): SB, or IMM15 under I. -/
inductive UOp where
  | reg (r : SReg)
  | imm (i : BitVec 15)
  deriving DecidableEq, Repr

/-- An element width of 32, 16 or 8 bits (R132, R193). -/
inductive Width where
  | w32 | w16 | w8
  deriving DecidableEq, Repr

/-- The width codes of the atomics (R291). -/
inductive AWidth where
  | a16 | a32 | a64 | a128
  deriving DecidableEq, Repr

/-- The system registers of R76. -/
inductive SysReg where
  | cyclel | cycleh | flags | warn | mode | gangid | teamid | ctxid | quadid | slotmask | ddepth
  | stalls | retired | reused | ldreused | cause | epcl | epch | fmask | tdetail
  deriving DecidableEq, Repr

/-- The operations of QOP (R96). -/
inductive QOp where
  | and (d a b : PNum)
  | or (d a b : PNum)
  | xor (d a b : PNum)
  | andn (d a b : PNum)
  | not (d a : PNum)
  | mov (d a : PNum)
  | set (d : PNum)
  | clr (d : PNum)
  | tos (d : SReg) (a : PNum)
  | froms (d : PNum) (a : SReg)
  | any (d : PNum) (a : PNum)
  | all (d : PNum) (a : PNum)
  deriving DecidableEq, Repr

/-- The operations of PLOP (R139). -/
inductive POp where
  | and (d a b : PNum)
  | or (d a b : PNum)
  | xor (d a b : PNum)
  | andn (d a b : PNum)
  | not (d a : PNum)
  | mov (d a : PNum)
  | set (d : PNum)
  | clr (d : PNum)
  | fromv (d : PNum) (a : Operand)
  | tov (d : VDst) (a : PNum)
  deriving DecidableEq, Repr

/-- The source lane of VBCAST (R137): the lane a uniform register names, or the lowest active lane. -/
inductive BcastSrc where
  | sreg (n : BitVec 7)
  | first
  deriving DecidableEq, Repr

/-- The forms of VPACK (R138). -/
inductive PackForm where
  | half
  | byteLo (c : Operand)
  | byteHi (c : Operand)
  deriving DecidableEq, Repr

/-- The votes of VVOTE (R145). -/
inductive Vote where
  | any | all | eq
  deriving DecidableEq, Repr

/-- The ARRIVE flag of a matrix command with its scope and barrier register (R217, R219). -/
structure Arrive where
  scope : BitVec 3
  bar : SReg
  deriving DecidableEq, Repr

/-- What an engine command does when it has completed (R310, R318, R319). -/
inductive XDone where
  | none
  | arrive (bar : SReg)
  | notify (pair : SReg)
  deriving DecidableEq, Repr

/-- The ACQ, REL and SCOPE fields of a format X word (R30). -/
structure XOrd where
  acq : Bool
  rel : Bool
  scope : BitVec 3
  deriving DecidableEq, Repr

/-- The ORD and SC fields of an atomic (R30, R291). -/
structure AOrd where
  acq : Bool
  rel : Bool
  sc : BitVec 3
  deriving DecidableEq, Repr

/-- What a VENDOR_DEFINED_REQUEST names (R400): a vendor, a request code, a partition. -/
structure VendorReq where
  vendor : Nat
  code : Nat
  part : Nat
  deriving DecidableEq, Repr

/-- What the management core supplies when it creates a partition (R26, R27): quadrants, device mode (its number of
logical devices), the dies of each, chunk quota at each CG (pairs of CG and chunks, none elsewhere), way mask and allocate policies of each traffic class (R262), quota of pinned lines
(R263), span ports, lease length (R253), PDL (R387), image-cache share (R169), row activation limit (R264), the owner
keys of its trust list (R172), and its peer table: index, IPv6 address and identity of each peer (R328). -/
structure PartSpec where
  index : Nat
  quads : List Nat
  mode : Nat
  ldevs : List (List Nat)
  quota : List (Nat × Nat)
  wayMasks : List (BitVec 16)
  alloc : List Nat
  pinQuota : Nat
  span : Nat
  lease : Nat
  pdl : Nat
  imgShare : Nat
  actLimit : Nat
  keys : List Nat
  peers : List (Nat × Nat × Nat)
  deriving DecidableEq, Repr

/-- What the management core supplies when it creates a context (R28, R240, R350, R372, R417): tables are the
page-table entries it writes into system space, load the bytes the host has placed at virtual addresses. -/
structure CtxSpec where
  part : Nat
  ctx : Nat
  vf : Option Nat
  seed : BitVec 45
  krec : Dword
  hvec : Dword
  shvec : Dword
  nrp : Nat
  resBase : Nat
  saveBase : Nat
  compline : Nat
  complineLen : Nat
  refill : Nat
  root : Nat
  sid : Nat
  tables : List (Nat × Nat)
  load : List (Nat × List Byte)
  deriving DecidableEq, Repr

/-- What the management core supplies when it creates a shared space (R240). -/
structure SpaceSpec where
  sid : Nat
  root : Nat
  seed : BitVec 45
  dies : List Nat
  owner : Nat
  tables : List (Nat × Nat)
  deriving DecidableEq, Repr

/-- One placement of a Matins pass (R363, R365): teams first .. first + count - 1 of a grid on a quadrant. -/
structure BindPlan where
  handle : Nat
  quad : Nat
  first : Nat
  count : Nat
  order : Nat
  deriving DecidableEq, Repr

/-- A span packet as the receiving span engine sees it (R330, R331, R346). -/
inductive Packet where
  /-- one whole message: sender's peer index, context, capability stream, number, payload -/
  | message (peer ctx stream : Nat) (num : Word) (dest : Nat) (queue : BitVec 4) (payload : List Byte)
  /-- the report of a skipped message, to the sending context and capability -/
  | skipped (ctx cap : Nat) (num : Word)
  /-- a collective contribution: group, serial, member, words, and the values every member must give equal -/
  | contribution (group serial member : Nat) (key : List Nat) (data : List Word)
  /-- COLLB: the root's data on its way to a member, and the member's receipt for it -/
  | broadcast (group serial member : Nat) (data : List Word)
  | receipt (group serial member : Nat)
  /-- a collective's result on its way to a member -/
  | result (group serial member : Nat) (mask : List Nat) (state : Nat) (rfl : Nat) (data : List (Nat × List Word)) (rejected : List Nat)
  /-- an access to a context's memory over the span transport (R252): peer index, context, address, bytes, and what is
  asked: nothing more for a read; a kind, then its operands -/
  | access (peer ctx va n : Nat) (req : List Nat)
  /-- key agreement answered: session, the peer index asked, the identity it showed -/
  | agreed (part skey peer identity : Nat)
  /-- the transport's acknowledgement of the n-th packet that waits here -/
  | acked (n : Nat)
  /-- a packet whose tag does not verify -/
  | badTag
  deriving DecidableEq, Repr

/-! What is done in one step of an access or a command that does not fall in one (R215, R277, R314). -/

/-- A lane of an access: one byte of its element ahead of the others, or all that is left of it (R277). -/
structure LanePart where
  lane : Nat
  byte : Option Nat
  deriving DecidableEq, Repr
/-- An engine command by its number: one byte of an element, of its source or its destination (true), by element and byte,
or all that is left of it (R314). -/
structure CmdPart where
  cmd : Nat
  part : Option (Bool × Nat × Nat)
  deriving DecidableEq, Repr
/-- The matrix command at a place of a quadrant's queue: one byte of its records, or all that is left of it (R215). -/
structure MatrixPart where
  quad : Nat
  cmd : Nat
  byte : Option Nat
  deriving DecidableEq, Repr

inductive Instr where
  -- opcode 0x00 (R89)
  | sadd (p : Pred) (d a : SReg) (b : UOp)
  | ssub (p : Pred) (d a : SReg) (b : UOp)
  | smul (p : Pred) (d a : SReg) (b : UOp)
  | smulh (p : Pred) (z : Bool) (d a : SReg) (b : UOp)
  | sdiv (p : Pred) (z : Bool) (d a : SReg) (b : UOp)
  | smod (p : Pred) (z : Bool) (d a : SReg) (b : UOp)
  | sand (p : Pred) (d a : SReg) (b : UOp)
  | sor (p : Pred) (d a : SReg) (b : UOp)
  | sxor (p : Pred) (d a : SReg) (b : UOp)
  | sandn (p : Pred) (d a : SReg) (b : UOp)
  | sshl (p : Pred) (d a : SReg) (b : UOp)
  | sshr (p : Pred) (d a : SReg) (b : UOp)
  | ssra (p : Pred) (d a : SReg) (b : UOp)
  | srot (p : Pred) (d a : SReg) (b : UOp)
  | smin (p : Pred) (z : Bool) (d a : SReg) (b : UOp)
  | smax (p : Pred) (z : Bool) (d a : SReg) (b : UOp)
  | scmp (p : Pred) (cc : BitVec 3) (d : PNum) (a : SReg) (b : UOp)
  | ssel (p : Pred) (c : PNum) (d a : SReg) (b : UOp)
  | smov (p : Pred) (d : SReg) (b : UOp)
  | saddc (p : Pred) (borrow : Bool) (d a : SReg) (b : UOp)
  | slea (p : Pred) (sh : BitVec 3) (d a : SReg) (b : UOp)
  | sclz (p : Pred) (d a : SReg)
  | spopc (p : Pred) (d a : SReg)
  | sbfe (p : Pred) (z : Bool) (d a : SReg) (b : UOp)
  | sbfi (p : Pred) (d a : SReg) (b : UOp)
  -- opcodes 0x01 to 0x03 (R95 to R97)
  | sli (p : Pred) (d : SReg) (imm : Word)
  | slih (p : Pred) (d : SReg) (imm : Word)
  | qop (p : Pred) (op : QOp)
  | srd (p : Pred) (d : SReg) (n : SysReg)
  | swr (p : Pred) (n : SysReg) (a : SReg)
  -- opcode 0x10 (R98)
  | bra (tgt : BitVec 24)
  | brq (p : Pred) (tgt : BitVec 24)
  | brv (p : Pred) (tgt rcv : BitVec 24)
  | call (p : Pred) (tgt : BitVec 24) (l : SReg)
  | ret (p : Pred) (l : SReg)
  | loop (p : Pred) (tgt : BitVec 24) (c : SReg)
  -- opcode 0x11 (R101), FLASH (R38), register blocks and indirect access (R121, R126)
  | exit (p : Pred)
  | endGang (p : Pred)
  | yield (p : Pred)
  | nop (p : Pred)
  | flash (nv : BitVec 3) (a0 a1 a2 a3 : BitVec 8) (sb4 : BitVec 7) (ns rcp : BitVec 5)
  | growB (p : Pred) (m : BitVec 3)
  | growT (p : Pred) (d : PNum) (m : BitVec 3)
  | shrink (p : Pred) (m : BitVec 3)
  | vrdi (p : Pred) (nr : Bool) (d : VDst) (a : BitVec 7) (imm : BitVec 24)
  | vwri (p : Pred) (nr : Bool) (d : VDst) (a : BitVec 7) (imm : BitVec 24)
  -- opcode 0x20 (R131)
  | vadd (p : Pred) (nr : Bool) (d : VDst) (a b : Operand)
  | vsub (p : Pred) (nr : Bool) (d : VDst) (a b : Operand)
  | vmul (p : Pred) (nr : Bool) (d : VDst) (a b : Operand)
  | vmulh (p : Pred) (nr z : Bool) (d : VDst) (a b : Operand)
  | vmad (p : Pred) (nr : Bool) (d : VDst) (a b c : Operand)
  | vadds (p : Pred) (nr z : Bool) (w : Width) (d : VDst) (a b : Operand)
  | vsubs (p : Pred) (nr z : Bool) (w : Width) (d : VDst) (a b : Operand)
  | vabs (p : Pred) (nr sat : Bool) (d : VDst) (a : Operand)
  | vneg (p : Pred) (nr sat : Bool) (d : VDst) (a : Operand)
  | vmin (p : Pred) (nr z : Bool) (d : VDst) (a b : Operand)
  | vmax (p : Pred) (nr z : Bool) (d : VDst) (a b : Operand)
  | vdot4 (p : Pred) (nr az bz sat : Bool) (d : VDst) (a b c : Operand)
  | vsad (p : Pred) (nr h : Bool) (d : VDst) (a b c : Operand)
  -- opcode 0x21 (R134)
  | vand (p : Pred) (nr : Bool) (d : VDst) (a b : Operand)
  | vor (p : Pred) (nr : Bool) (d : VDst) (a b : Operand)
  | vxor (p : Pred) (nr : Bool) (d : VDst) (a b : Operand)
  | vandn (p : Pred) (nr : Bool) (d : VDst) (a b : Operand)
  | vnot (p : Pred) (nr : Bool) (d : VDst) (a : Operand)
  | vshl (p : Pred) (nr : Bool) (d : VDst) (a b : Operand)
  | vshr (p : Pred) (nr : Bool) (d : VDst) (a b : Operand)
  | vsra (p : Pred) (nr : Bool) (d : VDst) (a b : Operand)
  | vrot (p : Pred) (nr : Bool) (d : VDst) (a b : Operand)
  | vclz (p : Pred) (nr : Bool) (d : VDst) (a : Operand)
  | vpopc (p : Pred) (nr : Bool) (d : VDst) (a : Operand)
  | vbfe (p : Pred) (nr z : Bool) (d : VDst) (a b : Operand)
  | vbfi (p : Pred) (nr : Bool) (d : VDst) (a b c : Operand)
  | vbrev (p : Pred) (nr : Bool) (d : VDst) (a : Operand)
  -- opcode 0x22 (R136 to R138)
  | vcmp (p : Pred) (nr : Bool) (cc : BitVec 3) (d : PNum) (a b : Operand)
  | vsel (p : Pred) (nr : Bool) (c : PNum) (d : VDst) (a b : Operand)
  | vmov (p : Pred) (nr : Bool) (d : VDst) (b : Operand)
  | vbcast (p : Pred) (nr : Bool) (d : VDst) (a : Operand) (src : BcastSrc)
  | vlane (p : Pred) (nr : Bool) (m : BitVec 2) (d : VDst)
  | vext (p : Pred) (nr sx half : Bool) (d : VDst) (a b : Operand)
  | vpack (p : Pred) (nr z : Bool) (form : PackForm) (d : VDst) (a b : Operand)
  -- opcode 0x23 (R139, R140)
  | plop (p : Pred) (nr : Bool) (op : POp)
  | pcnt (p : Pred) (nr : Bool) (d : Operand) (a : PNum)
  | pfirst (p : Pred) (nr last : Bool) (d : Operand) (a : PNum)
  -- opcode 0x24 (R141 to R145)
  | vperm (p : Pred) (nr : Bool) (d : VDst) (a b : Operand)
  | vpush (p : Pred) (nr : Bool) (d : VDst) (a b c : Operand)
  | vswz (p : Pred) (nr : Bool) (pat : BitVec 3) (d : VDst) (a : Operand)
  | vmatch (p : Pred) (nr : Bool) (d : VDst) (a : Operand)
  | vred (p : Pred) (nr : Bool) (op : BitVec 3) (d : Operand) (a : Operand)
  | vscan (p : Pred) (nr ex : Bool) (op : BitVec 3) (d : VDst) (a : Operand)
  | vvote (p : Pred) (nr : Bool) (m : Vote) (d a : PNum)
  | vballot (p : Pred) (nr : Bool) (d : Operand) (a : PNum)
  -- opcodes 0x28 to 0x2A (R48)
  | vaddImm (p : Pred) (nr : Bool) (d : VDst) (a : Operand) (imm : BitVec 24)
  | vsubImm (p : Pred) (nr : Bool) (d : VDst) (a : Operand) (imm : BitVec 24)
  | vmulImm (p : Pred) (nr : Bool) (d : VDst) (a : Operand) (imm : BitVec 24)
  | vaddsImm (p : Pred) (nr z : Bool) (w : Width) (d : VDst) (a : Operand) (imm : BitVec 24)
  | vsubsImm (p : Pred) (nr z : Bool) (w : Width) (d : VDst) (a : Operand) (imm : BitVec 24)
  | vminImm (p : Pred) (nr z : Bool) (d : VDst) (a : Operand) (imm : BitVec 24)
  | vmaxImm (p : Pred) (nr z : Bool) (d : VDst) (a : Operand) (imm : BitVec 24)
  | vandImm (p : Pred) (nr : Bool) (d : VDst) (a : Operand) (imm : BitVec 24)
  | vorImm (p : Pred) (nr : Bool) (d : VDst) (a : Operand) (imm : BitVec 24)
  | vxorImm (p : Pred) (nr : Bool) (d : VDst) (a : Operand) (imm : BitVec 24)
  | vandnImm (p : Pred) (nr : Bool) (d : VDst) (a : Operand) (imm : BitVec 24)
  | vshlImm (p : Pred) (nr : Bool) (d : VDst) (a : Operand) (imm : BitVec 24)
  | vshrImm (p : Pred) (nr : Bool) (d : VDst) (a : Operand) (imm : BitVec 24)
  | vsraImm (p : Pred) (nr : Bool) (d : VDst) (a : Operand) (imm : BitVec 24)
  | vrotImm (p : Pred) (nr : Bool) (d : VDst) (a : Operand) (imm : BitVec 24)
  | vcmpImm (p : Pred) (nr : Bool) (cc : BitVec 3) (d : PNum) (a : Operand) (imm : BitVec 24)
  | vmovImm (p : Pred) (nr : Bool) (d : VDst) (imm : BitVec 24)
  -- opcode 0x38 (R187)
  | fadd (p : Pred) (nr : Bool) (slot : BitVec 4) (rm : BitVec 2) (sat : Bool) (d : VDst) (a b : Operand)
  | fsub (p : Pred) (nr : Bool) (slot : BitVec 4) (rm : BitVec 2) (sat : Bool) (d : VDst) (a b : Operand)
  | fmul (p : Pred) (nr : Bool) (slot : BitVec 4) (rm : BitVec 2) (sat : Bool) (d : VDst) (a b : Operand)
  | ffma (p : Pred) (nr : Bool) (slot : BitVec 4) (rm : BitVec 2) (sat : Bool) (d : VDst) (a b c : Operand)
  | fmin (p : Pred) (nr : Bool) (slot : BitVec 4) (d : VDst) (a b : Operand)
  | fmax (p : Pred) (nr : Bool) (slot : BitVec 4) (d : VDst) (a b : Operand)
  | fcmp (p : Pred) (nr : Bool) (slot : BitVec 4) (cc : BitVec 3) (d : PNum) (a b : Operand)
  | fclass (p : Pred) (nr : Bool) (slot : BitVec 4) (d : VDst) (a : Operand)
  | frnd (p : Pred) (nr : Bool) (slot : BitVec 4) (rm : BitVec 2) (sat : Bool) (d : VDst) (a : Operand)
  | fscale (p : Pred) (nr : Bool) (slot : BitVec 4) (rm : BitVec 2) (sat : Bool) (d : VDst) (a b : Operand)
  -- opcode 0x39 (R193)
  | fcvt (p : Pred) (nr : Bool) (slot src : BitVec 4) (rm : BitVec 2) (sat : Bool) (d : VDst) (a : Operand)
  | fcvti (p : Pred) (nr : Bool) (slot : BitVec 4) (rm : BitVec 2) (w : Width) (z : Bool) (d : VDst) (a : Operand)
  | icvtf (p : Pred) (nr : Bool) (slot : BitVec 4) (rm : BitVec 2) (w : Width) (z sat : Bool) (d : VDst) (a : Operand)
  -- opcode 0x3A (R197)
  | frcp (p : Pred) (nr : Bool) (slot : BitVec 4) (rm : BitVec 2) (sat : Bool) (d : VDst) (a : Operand)
  | frsq (p : Pred) (nr : Bool) (slot : BitVec 4) (rm : BitVec 2) (sat : Bool) (d : VDst) (a : Operand)
  | fsqrt (p : Pred) (nr : Bool) (slot : BitVec 4) (rm : BitVec 2) (sat : Bool) (d : VDst) (a : Operand)
  | fexp2 (p : Pred) (nr : Bool) (slot : BitVec 4) (rm : BitVec 2) (sat : Bool) (d : VDst) (a : Operand)
  | flog2 (p : Pred) (nr : Bool) (slot : BitVec 4) (rm : BitVec 2) (sat : Bool) (d : VDst) (a : Operand)
  | fsin (p : Pred) (nr : Bool) (slot : BitVec 4) (rm : BitVec 2) (sat : Bool) (d : VDst) (a : Operand)
  | fcos (p : Pred) (nr : Bool) (slot : BitVec 4) (rm : BitVec 2) (sat : Bool) (d : VDst) (a : Operand)
  | ftanh (p : Pred) (nr : Bool) (slot : BitVec 4) (rm : BitVec 2) (sat : Bool) (d : VDst) (a : Operand)
  -- opcode 0x3B (R199, R201, R202)
  | fdot (p : Pred) (nr : Bool) (slot : BitVec 4) (d : VDst) (a b c : Operand)
  | fmxq (p : Pred) (nr : Bool) (slot src : BitVec 4) (rm : BitVec 2) (d : VDst) (a : Operand)
  | fmxe (p : Pred) (nr : Bool) (slot dstSlot : BitVec 4) (rm : BitVec 2) (sat : Bool) (d : VDst) (a : Operand)
  -- opcode 0x48 (R176)
  | sload (p : Pred) (slot : BitVec 4) (desc dsts : SReg)
  | sfence (p : Pred)
  | sdesc (p : Pred) (slot : BitVec 4) (idx dsts : SReg)
  -- opcodes 0x4C and 0x4D (R219, R229)
  | mloadw (p : Pred) (slot : BitVec 4) (desc shape : SReg) (arr : Option Arrive)
  | mloadws (p : Pred) (slot : BitVec 4) (ns : BitVec 2) (desc shape : SReg) (arr : Option Arrive)
  | mflip (p : Pred)
  | mstream (p : Pred) (slot : BitVec 4) (z i32 : Bool) (desc shape : SReg) (arr : Option Arrive)
  | mswap (p : Pred) (arr : Option Arrive)
  | mdrain (p : Pred) (slot : BitVec 4) (rm : BitVec 2) (sat i32 : Bool) (desc mask : SReg) (arr : Option Arrive)
  | mclear (p : Pred) (vis : Bool) (mask : SReg)
  | mfuse (p : Pred) (edge dsts : SReg)
  | msplit (p : Pred)
  | mwait (p : Pred)
  | accspill (p : Pred) (q : BitVec 2) (dsts : SReg)
  | accfill (p : Pred) (q : BitVec 2) (dsts : SReg)
  | mreadv (p : Pred) (nr : Bool) (d : VDst) (a : BitVec 7)
  -- opcode 0x58 (R265): cm is SP 1; acq and rel hold the scope
  | ld (p : Pred) (nr : Bool) (d : VDst) (addr : Operand) (base pol : SReg) (ew : BitVec 5) (acq : Option (BitVec 3)) (cm : Bool)
  | st (p : Pred) (nr : Bool) (y : Operand) (addr : Operand) (base pol : SReg) (ew : BitVec 5) (rel : Option (BitVec 3)) (cm : Bool)
  | ldc (p : Pred) (nr : Bool) (d : VDst) (base pol : SReg) (acq : Option (BitVec 3)) (cm : Bool)
  | stc (p : Pred) (nr : Bool) (y : Operand) (base pol : SReg) (rel : Option (BitVec 3)) (cm : Bool)
  | ldl (p : Pred) (nr : Bool) (d : VDst) (addr : Operand) (base : SReg) (ew : BitVec 5)
  | stl (p : Pred) (nr : Bool) (y : Operand) (addr : Operand) (base : SReg) (ew : BitVec 5)
  | sld (p : Pred) (nr : Bool) (d a base pol : SReg) (ew : BitVec 5) (acq : Option (BitVec 3)) (cm : Bool)
  | sst (p : Pred) (nr : Bool) (y a base pol : SReg) (ew : BitVec 5) (rel : Option (BitVec 3)) (cm : Bool)
  | pref (p : Pred) (nr : Bool) (addr : Operand) (base pol : SReg) (ew : BitVec 5)
  | evict (p : Pred) (nr : Bool) (addr : Operand) (base : SReg) (ew : BitVec 5)
  -- opcode 0x64 (R301)
  | fence (p : Pred) (acq rel : Bool) (scope : BitVec 3)
  | wstc (p : Pred)
  | tbar (p : Pred) (scope : BitVec 3)
  | rdv (p : Pred) (scope : BitVec 3)
  -- opcodes 0x65 to 0x67 (R291)
  | atom (p : Pred) (nr : Bool) (op : BitVec 4) (w : AWidth) (d : BitVec 8) (addr : Operand) (base pol : SReg) (ord : AOrd) (cm : Bool)
  | atomn (p : Pred) (nr : Bool) (op : BitVec 4) (w : AWidth) (y : Operand) (addr : Operand) (base pol : SReg) (rel : Option (BitVec 3)) (cm : Bool)
  | acas (p : Pred) (nr : Bool) (w : AWidth) (d : BitVec 8) (addr : Operand) (base pol : SReg) (ord : AOrd) (cm : Bool)
  -- opcode 0x68 (R298)
  | boinit (p : Pred) (desc cnt : SReg)
  | boarr (p : Pred) (desc n u dsts : SReg) (scope : BitVec 3)
  | bowait (p : Pred) (desc ph : SReg) (scope : BitVec 3)
  | botest (p : Pred) (desc ph dsts : SReg) (scope : BitVec 3)
  -- opcode 0x6C (R310)
  | xcopy (p : Pred) (desc pol : SReg) (ord : XOrd) (fin : XDone)
  | xclose (p : Pred) (dsts : SReg)
  | xwait (p : Pred) (n : SReg) (scope : BitVec 3)
  | xtest (p : Pred) (n dsts : SReg) (scope : BitVec 3)
  | xfill (p : Pred) (dst len pat : SReg) (ord : XOrd) (arr : Option SReg)
  | xclone (p : Pred) (dst src len : SReg) (ord : XOrd) (arr : Option SReg)
  | xpurge (p : Pred) (start cnt opt : SReg) (scope : BitVec 3)
  | xlease (p : Pred) (dsts : SReg)
  -- opcodes 0x72 and 0x73 (R334)
  | chsend (p : Pred) (src ctl len dsts : SReg) (rel : Option (BitVec 3))
  | chrecv (p : Pred) (dst ctl len dsts : SReg) (acq : Option (BitVec 3))
  | chpoll (p : Pred) (ctl dsts : SReg)
  | chcap (p : Pred) (idx widx dsts : SReg)
  | chgrantWrite (p : Pred) (desc op img dsts : SReg)
  | chgrantRevoke (p : Pred) (desc op img dsts : SReg)
  | chgrantBind (p : Pred) (desc op img dsts : SReg)
  | chkey (p : Pred) (idx dsts : SReg)
  | collr (p : Pred) (desc idx dsts : SReg) (ord : XOrd) (arr : Bool)
  | collg (p : Pred) (desc idx dsts : SReg) (ord : XOrd) (arr : Bool)
  | collb (p : Pred) (desc idx dsts : SReg) (ord : XOrd) (arr : Bool)
  | collq (p : Pred) (h dsts : SReg) (acq : Option (BitVec 3))
  -- opcode 0x78 (R369)
  | launch (p : Pred) (desc ctl dsts : SReg)
  | ljoin (p : Pred) (h dsts : SReg)
  | fork (p : Pred) (desc dsts : SReg)
  | mbrecv (p : Pred) (dst mask dsts : SReg)
  | mbsend (p : Pred) (src ring len dsts : SReg)
  -- opcode 0x79 (R380)
  | trap (p : Pred) (code : BitVec 8)
  | eret (p : Pred)
  | replay (p : Pred) (dsts : SReg)
  | ctxsave (p : Pred) (desc dsts : SReg)
  | ctxload (p : Pred) (desc dsts : SReg)
  -- header and trailer (R35, R36)
  | run (len : BitVec 5) (wait : BitVec 6) (fb : Bool)
  | trail (na : BitVec 3) (a0 a1 a2 a3 : BitVec 12)
  -- the part's other steps (95_what_each_step_holds): ag is an agent key, id an access or command number
  | loadValueReturn (ag id : Nat)
  | parkedLoadTrap (ag : Nat)
  | storeAck (ag id : Nat)
  | cgAccess (ag id : Nat) (part : LanePart)
  | throttleWindowEnd (cg part bank row : Nat)
  | hubAccess (ag id : Nat) (part : LanePart)
  | leaseExpiry (cg sid page : Nat)
  | copyComplete (ag : Nat) (part : CmdPart)
  | copyFault (ag : Nat) (part : CmdPart)
  | bowaitWake (ag : Nat)
  | matrixCmdComplete (part : MatrixPart)
  | sloadComplete (quad ctx slot : Nat)
  | slotReload (quad ctx slot : Nat)
  | matinsPass (plan : List BindPlan)
  | pdlExpiry (ag : Nat)
  | teamRecordWrite (team : Nat)
  | teamAdmit (quad : Nat)
  | teamRetire (team : Nat)
  | gridRetire (h : Nat)
  | contextCreate (c : CtxSpec)
  | spaceCreate (c : SpaceSpec)
  | spaceDestroy (sid : Nat)
  | partitionConfigure (c : PartSpec)
  | trustKeyRemove (part key : Nat)
  | tenantReset (ctx : Nat)
  | kick (vf : Nat) (value : Word)
  | kickPoll (ctx mb : Nat)
  | hostRingCfgWrite (vf ring : Nat) (value : Word)
  | standingBindRequest (vf : Nat) (value : Word)
  | registerWrite (vf : Option Nat) (off : Nat) (data : List Byte)
  | bootctlReset
  | packageReset
  | startedMark
  | startTimeout (stage : Nat) (reason : BitVec 8)
  | getVersion
  | getCapabilities
  | negotiateAlgorithms
  | getDigests
  | getCertificate
  | challenge (nonce : BitVec 256)
  | getMeasurements (index : Nat)
  | vendorDefinedRequest (req : VendorReq) (seq : Nat)
  | firmwareSwap (image : List Byte) (version : Nat) (sig : List Byte)
  | swapTimeout
  | slotScrub (quad slot : Nat) (mismatch : Bool)
  | hbmRecalibration (channel : Nat)
  | linkRecalibration (a b group : Nat)
  | quadrantRetirement (quad : Nat)
  | cgRetirement (cg : Nat)
  | powerLimit (quad : Nat)
  | thermalTrip
  | portReassign (port : Nat)
  | packetReceive (k : Packet)
  | messageSkip (part queue peer stream : Nat)
  | keyRenewal (part skey : Nat)
  | chkeyTimeout (part skey : Nat)
  | collDeadline (ctx h : Nat)
  | collNoResultTimeout (ctx h : Nat)
  | functionLevelReset (vf : Nat)
  | contextDestroy (ctx : Nat)
  | hostStopRequest (ctx : Nat)
  | sharedSpaceAttach (ctx window sid : Nat)
  | partitionCreate (c : PartSpec)
  | partitionReset (part : Nat)
  | retryRound (a b : Nat)
  deriving DecidableEq, Repr

end Sys2Proof
end

