-- ==== Sys2Proof/Machine/State.lean ====
section
/-! DEFINITION. The state of the package as plain data: every register, memory and piece of unit state the manual
names, and the reasons a step can stop. Agents are numbered 64 × quadrant + 12 × scheduler + position for a gang,
64 × quadrant + 48 for the MSEQ and + 49 for the DSEQ; a gang that has ended with accesses in flight moves to a
number at or above 2^32. A context is numbered 16 × partition + context (R76 CTXID). -/

namespace Sys2Proof.Machine

/-- The state of a program-counter slot (R79). -/
inductive SlotSt where
  | dead | run | wait
  deriving DecidableEq, Repr

/-- A program-counter slot (R79). -/
structure PcSlot where
  pc : Dword
  mask : Mask
  rcv : Option Dword
  st : SlotSt
  deriving DecidableEq, Repr

/-- A divergence-stack entry (R84). -/
inductive Div where
  | join (pc : Dword) (mask : Mask) (rcv : Option Dword)
  | side (s : PcSlot)
  deriving DecidableEq, Repr

/-- Where the issuing slot goes after the run's trailer (R40). -/
inductive Flow where
  /-- to the header after the trailer -/
  | fall
  /-- to an address -/
  | goto (a : Dword)
  /-- the control-transfer word has set the slots itself -/
  | stay
  deriving DecidableEq, Repr

/-- A run that has been fetched and decoded and is issuing (R39): body words then trailer, and the next one.
`fallback`: that word executes under a fallback of R52. -/
structure RunBuf where
  header : Dword
  words : List Dword
  idx : Nat
  flow : Flow
  noreuse : Bool
  stalled : Bool
  fallback : Bool
  deriving DecidableEq, Repr

/-- Why an agent is blocked (R85). `handler`: it has entered a handler whose first run has not begun (R370); `chrecv` holds the
capability entry the word was checked against (R329). -/
inductive Block where
  | none
  | grow (b : Nat)
  | mbrecv | chrecv (entry : Nat) | tbar (gen : Nat) | bowait | xwait | rdv | ljoin | launch (h : Nat) | slot | yield | handler | stopped | replay | save
  deriving DecidableEq, Repr

/-- What an access does to its bytes (R268 to R270, R291). -/
inductive AccKind where
  | load
  | store
  /-- the read of an engine word whose fault is late (R256); it delivers zero -/
  | probe
  /-- an atomic: operation, width in bits, whether the old value is returned -/
  | atom (op : Nat) (w : Nat) (returns : Bool)
  /-- compare and swap of a width in bits -/
  | cas (w : Nat)
  deriving DecidableEq, Repr

/-- One lane's part of an access: the element's first bit, and its data, compare value and old or loaded value; `got`
holds the bytes performed ahead of the others, of an element that is no atomic access (R277): what each read. -/
structure LaneAcc where
  lane : Nat
  bit : Int
  data : Nat
  cmp : Nat
  value : Nat
  got : List (Nat × Nat)
  deriving DecidableEq, Repr

/-- What a load's word gives the reuse table when its value returns (R115, R273): its key, and the value-store entries its
key names with their generations. -/
structure Memo where
  key : List Nat
  deps : List (Nat × Nat)
  deriving DecidableEq, Repr

/-- An access word in flight, a parked load, or a store record (R244, R376, R378). `dst` is the destination code
(R32), or 512 + n for uniform register n. `todo` holds the lanes not yet performed, `pend` those not yet returned or
acknowledged. `run` numbers the run that issued it, `sup` says whether a handler did, `told` whether its fault has
been reported, `l1` whether it may fill the L1, `memo` what it records when it returns. -/
structure Access where
  id : Nat
  kind : AccKind
  word : Nat
  space : Nat
  ew : Nat
  base : Dword
  pol : Option Word
  lanes : List LaneAcc
  todo : Mask
  pend : Mask
  faulted : Mask
  codes : List (Nat × Nat)
  dst : Option Nat
  run : Nat
  sup : Bool
  told : Bool
  acq : Option Nat
  l1 : Bool
  memo : Option Memo
  deriving DecidableEq, Repr

/-- The engine commands of opcode 0x6C that stay in flight (R305). -/
inductive CmdKind where
  | copy (desc : List Byte) | fill (dst len : Nat) (pat : Word) | clone (dst src len : Nat)
  | purge (start count : Nat) (free : Bool)
  | lease (request : Nat) (dst : Nat)
  /-- the payload of a CHSEND (R337): its side, its capability's index, entry and message number, its status register -/
  | send (space addr len cap entry num dst : Nat)
  deriving DecidableEq, Repr

/-- An engine command (R305, R315, R379): `fault` its code and first faulting address, `told` whether reported, `bad` the
addresses of its writes that faulted (R377); `got` and `put` the bytes of its elements read and written so far (R314), each by
element and byte. -/
structure Cmd where
  id : Nat
  kind : CmdKind
  acq : Bool
  rel : Bool
  scope : Nat
  fin : XDone
  aux : Dword
  pol : Option Word
  batch : Option Nat
  fault : Option (Nat × Nat)
  told : Bool
  bad : List Nat
  got : List (Nat × Nat × Byte)
  put : List (Nat × Nat)
  deriving DecidableEq, Repr

/-- The rewind point a FLASH records (R103, R391). -/
structure RewindPt where
  header : Dword
  rcv : Option Dword
  mask : Mask
  recipe : Dword
  anchors : List Nat
  names : List Nat
  vecs : List LaneVec
  sb : Nat
  scalars : List Word
  blocks : BitVec 3
  deriving DecidableEq, Repr

/-- The trap frame (R372), what it reports (R374), and the accesses a REPLAY in progress has reissued (R383). -/
structure Frame where
  cause : Word
  tdetail : Word
  epc : Dword
  fmask : Word
  tslot : PcSlot
  susp : PcSlot
  depth : Nat
  which : Bool
  epcWritten : Bool
  replayed : Bool
  redo : List Nat
  report : Option Nat
  code : Nat
  deriving DecidableEq, Repr

/-- A gang, an MSEQ or a DSEQ: its registers and everything in flight for it. `pending` holds the uniform results under way
that are no accesses, with the run that issued each; `which` the slot that issues and `last` the one selected last (R86);
`since` the body words completed since STALLS was read or written, `retMark` the access number at the last SWR of RETIRED: both
are the model's own. -/
structure Agent where
  uid : Nat
  team : Nat
  grid : Nat
  tindex : Nat
  gang : Nat
  ctx : Nat
  age : Nat
  sreg : List (Nat × Word)
  qreg : BitVec 8
  vreg : List (Nat × LaneVec)
  names : List (Nat × Nat)
  temps : List (Nat × LaneVec)
  preg : List (Nat × Mask)
  regs : Nat
  blocks : BitVec 3
  flags : Flags
  warn : Bool
  noreuse : Bool
  stalls : Word
  retired : Word
  since : Nat
  retMark : Nat
  reused : Word
  ldreused : Word
  cycleh : Word
  slot0 : PcSlot
  slot1 : PcSlot
  which : Bool
  last : Bool
  stack : List Div
  run : Option RunBuf
  runs : Nat
  tokens : List (Nat × Nat)
  pending : List (Nat × Nat)
  wait0 : Nat
  wait1 : Nat
  sv : Bool
  frame : Frame
  accs : List Access
  ids : Nat
  cmds : List Cmd
  batch : Nat
  open_ : List Nat
  closed : List (Nat × List Nat)
  rewindable : Bool
  restoring : Bool
  rwpt : Option RewindPt
  cG : Nat
  block : Block
  stopped : Bool
  sliceEnd : Bool
  mustStop : Bool
  ended : Bool
  deriving DecidableEq, Repr

/-- A resident team (R364, R390). `saving`: the gang whose CTXSAVE saves it, or 2^32 for a slice end. -/
structure Team where
  grid : Nat
  index : Nat
  quad : Nat
  gangs : Nat
  regs : Nat
  lsgran : Nat
  engines : Bool
  bars : Nat
  cbase : Nat
  csize : Nat
  lbase : List Nat
  krec : Nat
  keys : List Nat
  live : Nat
  tbarGen : Nat
  tbarArr : Nat
  cM : Nat
  cD : Nat
  mRun : Bool
  dRun : Bool
  edges : Nat
  matrix : Bool
  saving : Option Nat
  deriving DecidableEq, Repr

/-- What a resumed gang or sequencer (R391's GANG code of R394) still needs of its saved state and R391 gives no field: its
uid, its parked loads (R376, R383), what its handler's frame reports and whether the handler has written EPC or executed REPLAY (R382,
R383), its records that a handler issued (R417) and those reported (R102), by their numbers after the restore, where its faulted
commands met their faults (R317, R377: see Cmd), the chunks that refuse its writes with their codes (R377), and the faults of its
collectives found meanwhile (R346). -/
structure Kept where
  gang : Nat
  uid : Nat
  loads : List Access
  report : Option Nat
  code : Nat
  epcWritten : Bool
  replayed : Bool
  sups : List Nat
  told : List Nat
  faults : List (Nat × Nat × List Nat)
  refused : List (Nat × Nat)
  late : List Access
  deriving DecidableEq, Repr

/-- Where a team record stands: at an address of its context's space (R384), queued from there by a CTXLOAD with the bytes it
then had (R385), or where Matins has put it (R387); `anew` has none: its bind record went before the team was admitted (R395, R403). -/
inductive SaveAt where
  | anew
  | space (addr : Nat)
  | queued (addr : Nat) (old : List Byte)
  | device (n : Nat)
  deriving DecidableEq, Repr

/-- Where a grid stands (R358 to R365); `waiting`: its LAUNCH waits for a place. -/
inductive GridSt where
  | waiting | queued | running | retired (err : Bool)
  deriving DecidableEq, Repr

/-- The grid error record (R394). -/
structure ErrRec where
  count : Nat
  kind : Nat
  gang : Nat
  quad : Nat
  team : Nat
  cause : Nat
  tdetail : Nat
  fmask : Nat
  epc : Nat
  faddr : Nat
  capt : Nat
  deriving DecidableEq, Repr

/-- What the dispatcher reads of a kernel record (R63, R65). -/
structure KRec where
  entry : Nat
  gangs : Nat
  regs : Nat
  engines : Bool
  lsgran : Nat
  bars : Nat
  cmem : Nat
  rcps : List Nat
  deriving DecidableEq, Repr

/-- A grid (R357, R359, R360). `shape` is its kernel record as LAUNCH read it, `bound` counts the teams bind records
have covered, `saved` the records not loaded, `kept` what their gangs hold beside them (by team), `reload` those queued for admission, `held` the teams pre-empted under
R361 with the child each waits for, `stuck` the passes in a row that found it kept out beside its parked parent. -/
structure Grid where
  ctx : Nat
  krec : Nat
  shape : KRec
  args : Dword
  nteams : Nat
  depth : Nat
  parent : Option Nat
  parentTeam : Option Nat
  queue : Nat
  pri : Nat
  cor : Bool
  j : Bool
  reserve : Bool
  order : Nat
  waits : List (Nat × Nat)
  done : Nat
  err : Nat
  errRec : Option ErrRec
  bound : Nat
  retiredTeams : Nat
  saved : List (Nat × SaveAt)
  kept : List (Nat × Kept)
  reload : List (Nat × SaveAt)
  held : List (Nat × Nat)
  stuck : Nat
  st : GridSt
  deriving DecidableEq, Repr

/-- A weight plane (R205): cells by 256 × n + k. -/
structure Plane where
  loaded : Bool
  k : Nat
  n : Nat
  kind : Nat
  cls : Nat
  ns : Nat
  psaved : Bool
  preg : Bool
  cells : List (Nat × Val)
  masks : List (Nat × Nat)
  deriving DecidableEq, Repr

/-- A matrix command in the queue (R214). -/
inductive MKind where
  | load (slot : Nat) (im : Image) (ns : Nat) (addr stride k n : Nat)
  | flip
  | stream (slot : Nat) (im : Image) (z i32 : Bool) (addr stride m b : Nat)
  | swap
  | drain (slot : Nat) (im : Option Image) (rm : Nat) (sat i32 : Bool) (addr stride : Nat) (tiles : Word)
  | clear (vis : Bool) (tiles : Word)
  | nothing
  deriving DecidableEq, Repr

/-- A queued command: who issued it, its team, the access number it was issued at, its arrival's scope and object; the
MREADVs outstanding at its issue (their agents' uids and numbers), which an MSWAP waits for (R218); and the bytes of its
records already read or written, by their offset from its address (R215). -/
structure MCmd where
  agent : Nat
  team : Nat
  mark : Nat
  kind : MKind
  arrive : Option (Nat × Dword)
  readers : List (Nat × Nat)
  got : List (Nat × Byte)
  deriving DecidableEq, Repr

/-- An SLOAD in progress (R177): the slot, who issued it (its uid, and its access number then), the image reference,
the status register. -/
structure LoadJob where
  ctx : Nat
  slot : Nat
  agent : Nat
  mark : Nat
  ref : Dword
  dst : Nat
  deriving DecidableEq, Repr

/-- A value-store entry (R110 to R113). freed: the order in which it last became free; found: placement may match it. -/
structure VsEntry where
  value : LaneVec
  tag : Nat
  count : Nat
  freed : Nat
  found : Bool
  gen : Nat
  deriving DecidableEq, Repr

/-- A reuse-table entry (R115): the key as numbers, the entries it names with their allocation generations, the name of
the result and the flags the original execution set, the slots, and for a load the L1 lines it read. -/
structure RtEntry where
  ctx : Nat
  key : List Nat
  deps : List (Nat × Nat)
  slots : List Nat
  lines : List (Nat × Nat)
  result : Nat
  flags : Flags
  deriving DecidableEq, Repr

/-- An L1 line (R245): its space and line address, its 128 bytes. -/
structure L1Line where
  sid : Nat
  line : Nat
  data : List Byte
  deriving DecidableEq, Repr

/-- A bind record (R363). -/
structure Bind where
  handle : Nat
  first : Nat
  count : Nat
  order : Nat
  ctx : Nat
  standing : Bool
  deriving DecidableEq, Repr

/-- An agent that has stored to a run another holds (R45): its quadrant, uid, team and grid, and the widest scope at which it has
released the store since, if any; the host and peers as quadrant 2^32. -/
structure Writer where
  quad : Nat
  uid : Nat
  team : Nat
  grid : Nat
  rel : Option Nat
  deriving DecidableEq, Repr

/-- A run an agent holds since it fetched it (R45): the agent's uid, the header's address, that address's space and VA', its
words; and who has stored to it since. -/
structure HeldRun where
  uid : Nat
  pc : Nat
  sid : Nat
  va : Nat
  words : List Dword
  wrote : List Writer
  deriving DecidableEq, Repr

/-- A quadrant (R18). Banks by 32768 × bank + 128 × row + column; index 0 and 1 name the two banks and planes.
`fetched` holds the runs its agents have fetched (R45). -/
structure Quad where
  part : Option Nat
  retired : Bool
  recovery : Bool
  mhz : Nat
  cycle : Nat
  ptr : List Nat
  last : List Nat
  records : List Bind
  bind : List (Nat × Image)
  phys : List (Nat × Image)
  jobs : List LoadJob
  reloading : List Nat
  vs : List (Nat × VsEntry)
  vclock : Nat
  rt : List RtEntry
  reserve : Nat
  l1 : List L1Line
  banks : List (Nat × Word)
  work : Bool
  dirtyW : Word
  dirtyV : Word
  tagW : Bool
  tagV : Bool
  retW : Word
  retV : Word
  plane0 : Plane
  plane1 : Plane
  active : Bool
  accown : Option Nat
  queue : List MCmd
  fused : Nat
  scrubs : Nat
  fetched : List HeldRun
  deriving DecidableEq, Repr

/-- A chunk of a space at its home CG (R248). `moved`: it came from a retired CG, and the quota was reduced for it (R403). -/
structure Chunk where
  gran : Nat
  frame : Nat
  moved : Bool
  deriving DecidableEq, Repr

/-- A lease a CG or the hub holds on a leaf (R253): the space, the page's first address and size, the leaf's
address, the entry, its number. -/
structure Lease where
  sid : Nat
  page : Nat
  size : Nat
  pte : Nat
  entry : Nat
  num : Nat
  dirty : Bool
  deriving DecidableEq, Repr

/-- An MSC line (R246, R261): its tag, class, pin, valid and dirty sectors, owner and last use. -/
structure MscLine where
  sid : Nat
  line : Nat
  way : Nat
  cls : Nat
  pin : Option Nat
  part : Nat
  valid : BitVec 8
  dirty : BitVec 8
  used : Nat
  deriving DecidableEq, Repr

/-- A purge mark (R323). -/
structure Purge where
  agent : Nat × Nat × Nat
  id : Nat
  sid : Nat
  start : Nat
  count : Nat
  free : Bool
  deriving DecidableEq, Repr

/-- A channel group (R17, R246, R248, R253, R258, R264). `errors` holds a unit's wrong bits in DRAM, each by its
pseudo-channel, beat and pin (0 to 31 DQ, 32 to 35 CB). `side` holds the requests that wait in side queues, oldest first:
the partition and row, and whose access or command it is. -/
structure Cg where
  retired : Bool
  recovery : Bool
  home : Nat
  chunks : List (Nat × Chunk)
  nextFrame : Nat
  freed : List Nat
  charged : List (Nat × Nat)
  leases : List Lease
  msc : List MscLine
  clock : Nat
  demoted : Nat
  pins : List (Nat × Nat)
  errors : List (Nat × List (Nat × Nat × Nat))
  corrected : Nat
  poison : List Nat
  acts : List (Nat × Nat)
  throttled : List (Nat × Nat × Nat)
  side : List (Nat × Nat × Nat × Nat)
  deriving DecidableEq, Repr

/-- A space (R240, R417). -/
structure Space where
  root : Nat
  seed : BitVec 45
  dies : List Nat
  owner : Nat
  shared : Bool
  resBase : Nat
  nrp : Nat
  ctx : Nat
  deriving DecidableEq, Repr

/-- A message in a receive queue or mailbox (R331, R338, R351). -/
structure Msg where
  num : Nat
  peer : Nat
  ctx : Nat
  stream : Nat
  gap : Bool
  bytes : List Byte
  deriving DecidableEq, Repr

/-- A mailbox engine (R352). -/
structure Mailbox where
  exp : Nat
  cons : Nat
  polls : Option Nat
  got : Bool
  present : List (List Byte)
  deriving DecidableEq, Repr

/-- A collective in flight or among the last 256 completed (R343 to R349): `serial` its handle, `index` its number in
the group; `agent` the uid of the gang that issued it, `gang` its index in its team; `st` its STATE or 0 in flight. -/
structure Coll where
  serial : Nat
  cap : Nat
  session : Nat
  group : Nat
  member : Nat
  members : Nat
  index : Nat
  agent : Nat
  gang : Nat
  grid : Nat
  tindex : Nat
  quad : Nat
  fn : Nat
  op : Nat
  cmp : Bool
  hslot : Nat
  count : Nat
  root : Nat
  quorum : Nat
  deadline : Nat
  src : Nat
  dst : Nat
  res : Nat
  resid : Nat
  arrive : Option (Nat × Dword)
  rel : Bool
  got : List (Nat × List Word)
  rejected : List Nat
  closed : Bool
  st : Nat
  cnt : Nat
  arrived : Bool
  deriving DecidableEq, Repr

/-- A context (R28, R327, R350 to R356, R367). `sid` is its private space; `attached` maps a window to a shared
space; `caps` holds 32-byte entries as numbers;
`gaps` the streams of which a message was skipped (R338); `used` the quadrants its teams have held in this period, `active`
whether a team of it was admitted in it, `spare` its tokens unused in the last, `loan` the borrowed ones it has left (R367). -/
structure Ctx where
  sid : Nat
  attached : List (Nat × Nat)
  vf : Option Nat
  hvec : Dword
  shvec : Dword
  resident : Nat
  caps : List (Nat × Nat)
  boxes : List (Nat × Mailbox)
  rx : List (Nat × List Msg)
  early : List (Nat × List Msg)
  expect : List (Nat × Nat)
  gaps : List Nat
  colls : List Coll
  serial : Nat
  groupNext : List (Nat × Nat)
  saveBase : Nat
  compline : Nat
  complineLen : Nat
  complineUsed : Nat
  refill : Nat
  tokens : Int
  loan : Nat
  debt : Nat
  standing : List Nat
  sbDev : Nat
  launchOrder : Nat
  used : List Nat
  active : Bool
  spare : Nat
  frozen : Bool
  halted : Bool
  deriving DecidableEq, Repr

/-- A session of a partition (R333, R342): keys agreed, an agreement in progress with one of some peers (any, of none
named), and who waits on it. -/
structure Session where
  agreed : Bool
  asking : Bool
  sought : List Nat
  waiters : List (Nat × Nat)
  deriving DecidableEq, Repr

/-- A partition (R26, R169, R172, R173, R262). `quota`: the chunks it may hold at each CG. -/
structure Part where
  quads : List Nat
  mode : Nat
  ldevs : List (List Nat)
  quota : List (Nat × Nat)
  wayMasks : List (BitVec 16)
  alloc : List Nat
  pinQuota : Nat
  span : Nat
  lease : Nat
  pdl : Nat
  imgShare : Nat
  actLimit : Nat
  trust : List (Nat × Nat)
  verified : List (Nat × Nat)
  pmv : BitVec 512
  log : List (List Byte)
  peers : List (Nat × Nat × Nat)
  sessions : List (Nat × Session)
  hslots : List (Nat × Image)
  deriving DecidableEq, Repr

/-- A host ring (R354, R405): its registers, and the values BASE, PRODADDR and CFG held before they were changed while the ring was
enabled. -/
structure Ring where
  base : Nat
  prodAddr : Nat
  cfg : Nat
  consr : Nat
  prod : Nat
  oldBase : List Nat
  oldProdAddr : List Nat
  oldCfg : List Nat
  deriving DecidableEq, Repr

/-- A virtual function's registers and mailbox slots (R351, R354, R405). `sbwaits`: a write of SBREQ came in a firmware handoff and is
still to be served (R402). -/
structure Vf where
  ctx : Option Nat
  slots : Memory
  kdrop : Word
  status : Word
  dpraddr : Dword
  sbreq : Word
  sbwaits : Bool
  sbstat : Word
  rings : List (Nat × Ring)
  deriving DecidableEq, Repr

/-- A packet that waits to leave, or for the peer's acknowledgement (R288, R330, R333): the session whose keys it needs,
64 × partition + SKEY, which a message to a host ring does not; and the access or command it belongs to: its agent's uid and its
number. -/
structure Sent where
  session : Option Nat
  owner : Option (Nat × Nat)
  packet : Packet
  deriving DecidableEq, Repr

/-- The hub die (R15, R16, R169, R253). Ports: true when in span use. `badTags` counts the packets dropped for their tag
(R330). -/
structure Hub where
  cxl : Bool
  ports : List (Nat × Bool)
  cache : List Image
  nextGen : Nat
  leases : List Lease
  nextLease : Nat
  msix : List (Nat × Nat)
  outbox : List Sent
  badTags : Nat
  deriving DecidableEq, Repr

/-- The part's mode (R399, R401, R405). -/
inductive Mode where
  | normal | test | midnight
  deriving DecidableEq, Repr

/-- Stages of a start (R398); none has begun before the package reset's. -/
inductive Boot where
  | off | selftest | service | midnight | poweredDown
  deriving DecidableEq, Repr

/-- The boot store, the firmware and the management core (R398 to R402). `identity` and `aliasId` are the private keys of the two pairs,
`idDigest` the SHA3-512 of the identity key's public half, by which peers know the part (R328). `createStatus` answers the last CONTEXT_CREATE: 0, or
the status its checks failed with (R350). -/
structure Mgmt where
  boot : Boot
  mode : Mode
  failcnt : Nat
  reason : Nat
  started : Bool
  hostmode : Bool
  firmware : List Byte
  version : Nat
  sig : List Byte
  fwDigest : BitVec 512
  dmv : BitVec 512
  aliasId : BitVec 512
  identity : BitVec 512
  idDigest : BitVec 512
  fwwin : Memory
  swap : Option (List Byte × Nat × List Byte)
  handoff : Bool
  passes : Nat
  dies : List Nat
  tripped : Bool
  spdm : List (List Byte)
  negotiated : Bool
  createStatus : Nat
  deriving DecidableEq, Repr

/-- Which of the part's agents moves next: a scheduler, a sequencer, or one of the part's other steps. -/
inductive Move where
  | sched (quad sch : Nat)
  /-- a scheduler, while the next runs of these slots (gang, slot 1) are not yet fetched and decoded (R85) -/
  | late (quad sch : Nat) (slots : List (Nat × Bool))
  /-- an agent's fetch of the run at an address, ahead of its issue (R45) -/
  | fetch (agent pc : Nat)
  | seq (quad : Nat) (dseq : Bool)
  | event (i : Instr)
  deriving DecidableEq, Repr

/-- The whole package. Memories: device memory by 2^57 × space + VA' (R247), host memory by physical address,
system space by 2^52 × partition + address, cluster memory by 2^32 × cluster + byte, lane store by
2^32 × quadrant + byte, Matins's own team records (savm) by 2^32 × number + byte. The access tables of R404 by
1024 × kind of target + master. -/
structure State where
  cur : Nat
  fresh : Nat
  agenda : List Move
  turn : Nat
  mgmt : Mgmt
  hub : Hub
  parts : List (Nat × Part)
  ctxs : List (Nat × Ctx)
  spaces : List (Nat × Space)
  grids : List (Nat × Grid)
  nextGrid : Nat
  teams : List (Nat × Team)
  nextTeam : Nat
  agents : List (Nat × Agent)
  nextAgent : Nat
  nextSave : Nat
  quads : List (Nat × Quad)
  cgs : List (Nat × Cg)
  vfs : List (Nat × Vf)
  access : List (Nat × Nat)
  purges : List Purge
  savm : Memory
  dmem : Memory
  hmem : Memory
  sysm : Memory
  cmem : Memory
  lmem : Memory
  deriving DecidableEq, Repr

/-- Why the machine stops. -/
inductive Fault where
  /-- Raised by every word when no gang or sequencer holds the number in State.cur: no one issues it. Safe. -/
  | noIssuer
  /-- Raised by an event whose condition does not hold: nothing of the kind can happen then. Safe. -/
  | notEnabled
  deriving DecidableEq, Repr

/-- Why an instruction has no meaning. -/
inductive Refusal where
  /-- Raised by Dispatch for an instruction with no meaning written. Safe. -/
  | notModelled (mnemonic : String)
  deriving DecidableEq, Repr

abbrev Res := Host.Outcome State Fault Refusal

/-! Reset values -/

def deadSlot : PcSlot := { pc := 0, mask := 0, rcv := none, st := .dead }

def Frame.empty : Frame :=
  { cause := 0, tdetail := 0, epc := 0, fmask := 0, tslot := deadSlot, susp := deadSlot, depth := 0, which := false,
    epcWritten := false, replayed := false, redo := [], report := none, code := 0 }

/-- An agent at gang start or at FORK (R72, R79): everything zero. -/
def Agent.start : Agent :=
  { uid := 0, team := 0, grid := 0, tindex := 0, gang := 0, ctx := 0, age := 0, sreg := [], qreg := 0x80#8, vreg := [], names := [],
    temps := [], preg := [], regs := 0, blocks := 0, flags := 0, warn := false, noreuse := false, stalls := 0,
    retired := 0, since := 0, retMark := 0, reused := 0, ldreused := 0, cycleh := 0, slot0 := deadSlot, slot1 := deadSlot, which := false, last := false,
    stack := [], run := none, runs := 0, tokens := [], pending := [], wait0 := 0, wait1 := 0, sv := false,
    frame := Frame.empty, accs := [], ids := 0, cmds := [], batch := 0, open_ := [],
    closed := [], rewindable := false, restoring := false, rwpt := none, cG := 0, block := .none, stopped := false, sliceEnd := false,
    mustStop := false, ended := false }

def Plane.empty : Plane :=
  { loaded := false, k := 0, n := 0, kind := 0, cls := 0, ns := 0, psaved := false, preg := false, cells := [],
    masks := [] }

/-- A quadrant after its reset (R75, R86, R114, R205, R213, R233). -/
def Quad.reset : Quad :=
  { part := none, retired := false, recovery := false, mhz := 1800, cycle := 0, ptr := [0, 0, 0, 0],
    last := [0, 0, 0, 0], records := [], bind := [], phys := [], jobs := [], reloading := [], vs := [], vclock := 0,
    rt := [], reserve := 64, l1 := [], banks := [], work := false, dirtyW := 0, dirtyV := 0, tagW := true,
    tagV := false, retW := 0, retV := 0, plane0 := Plane.empty, plane1 := Plane.empty, active := false,
    accown := none, queue := [], fused := 0, scrubs := 0, fetched := [] }

/-- A channel group after reset: no frame allocated, nothing cached. `home` is a value of the model: the CG that
has taken over its index, 0 for itself and n + 1 for CG n (R403). -/
def Cg.reset : Cg :=
  { retired := false, recovery := false, home := 0, chunks := [], nextFrame := 0, freed := [], charged := [],
    leases := [], msc := [], clock := 0, demoted := 0, pins := [], errors := [], corrected := 0,
    poison := [], acts := [], throttled := [], side := [] }

/-- A virtual function after its function-level reset (R405). -/
def Vf.reset : Vf :=
  { ctx := none, slots := [], kdrop := 0, status := 0, dpraddr := 0, sbreq := 0, sbwaits := false, sbstat := 0, rings := [] }

def Hub.reset : Hub :=
  { cxl := false, ports := [], cache := [], nextGen := 1, leases := [], nextLease := 0, msix := [],
    outbox := [], badTags := 0 }

def Mgmt.reset : Mgmt :=
  { boot := .off, mode := .test, failcnt := 0, reason := 0, started := false, hostmode := false, firmware := [],
    version := 0, sig := [], fwDigest := 0, dmv := 0, aliasId := 0, identity := 0, idDigest := 0, fwwin := [], swap := none,
    handoff := false, passes := 0, dies := [], tripped := false, spdm := [], negotiated := false, createStatus := 0 }

/-- The package at its reset, before Dawn has run a stage (R398). -/
def State.reset : State :=
  { cur := 0, fresh := 0, agenda := [], turn := 0, mgmt := Mgmt.reset, hub := Hub.reset, parts := [], ctxs := [], spaces := [],
    grids := [], nextGrid := 1, teams := [], nextTeam := 1, agents := [], nextAgent := 0, nextSave := 0, quads := [], cgs := [],
    vfs := [], access := [], purges := [], savm := [], dmem := [], hmem := [], sysm := [], cmem := [], lmem := [] }

end Sys2Proof.Machine
end

