-- ==== Sys2Proof/Machine/Base.lean ====
section
/-! DEFINITION. The named parts of the state: the tables, the register files, predicates and slots of an agent,
the waits of a word, and how a word ends. -/

namespace Sys2Proof.Machine

/-! The tables of the package. -/

def State.agent? (s : State) (k : Nat) : Option Agent := tabGet s.agents k
def State.setAgent (s : State) (k : Nat) (a : Agent) : State := { s with agents := mapPut s.agents k a }
def State.delAgent (s : State) (k : Nat) : State := { s with agents := mapDel s.agents k }
def State.quad (s : State) (q : Nat) : Quad := mapGet Quad.reset s.quads q
def State.setQuad (s : State) (q : Nat) (x : Quad) : State := { s with quads := mapSet Quad.reset s.quads q x }
def State.cg (s : State) (c : Nat) : Cg := mapGet Cg.reset s.cgs c
def State.setCg (s : State) (c : Nat) (x : Cg) : State := { s with cgs := mapSet Cg.reset s.cgs c x }
def State.team? (s : State) (t : Nat) : Option Team := tabGet s.teams t
def State.setTeam (s : State) (t : Nat) (x : Team) : State := { s with teams := mapPut s.teams t x }
def State.grid? (s : State) (g : Nat) : Option Grid := tabGet s.grids g
def State.setGrid (s : State) (g : Nat) (x : Grid) : State := { s with grids := mapPut s.grids g x }
def State.ctx? (s : State) (c : Nat) : Option Ctx := tabGet s.ctxs c
def State.setCtx (s : State) (c : Nat) (x : Ctx) : State := { s with ctxs := mapPut s.ctxs c x }
def State.part? (s : State) (p : Nat) : Option Part := tabGet s.parts p
def State.setPart (s : State) (p : Nat) (x : Part) : State := { s with parts := mapPut s.parts p x }
def State.space? (s : State) (i : Nat) : Option Space := tabGet s.spaces i
def State.setSpace (s : State) (i : Nat) (x : Space) : State := { s with spaces := mapPut s.spaces i x }
def State.vf (s : State) (v : Nat) : Vf := mapGet Vf.reset s.vfs v
def State.setVf (s : State) (v : Nat) (x : Vf) : State := { s with vfs := mapSet Vf.reset s.vfs v x }
def State.modAgent (s : State) (k : Nat) (f : Agent → Agent) : State :=
  match s.agent? k with
  | some a => s.setAgent k (f a)
  | none => s
def State.modTeam (s : State) (t : Nat) (f : Team → Team) : State :=
  match s.team? t with
  | some x => s.setTeam t (f x)
  | none => s

/-- A choice the manual leaves open (R7), and the state that has made it. -/
def State.choose (s : State) : Bool × State := (Config.choice s.fresh, { s with fresh := s.fresh + 1 })

/-- A resident team's gangs and sequencers. -/
def State.teamAgents (s : State) (t : Team) : List (Nat × Agent) :=
  s.agents.filter fun p => decide (p.1 < 2 ^ 32) && p.2.grid == t.grid && p.2.tindex == t.index

/-! Sessions, and packets that leave (R330, R333, R342). -/

def noSession : Session := { agreed := false, asking := false, sought := [], waiters := [] }
def Part.session (p : Part) (k : Nat) : Session := mapGet noSession p.sessions k
def Part.setSession (p : Part) (k : Nat) (x : Session) : Part := { p with sessions := mapSet noSession p.sessions k x }
def sessionOf (ctx skey : Nat) : Nat := 64 * (ctx / 16) + skey
def State.session (s : State) (n : Nat) : Session := match s.part? (n / 64) with | some p => p.session (n % 64) | none => noSession
/-- Agree a session's keys with one of some peers, unless they are agreed or being agreed. -/
def State.seek (s : State) (n : Nat) (peers : List Nat) : State :=
  match s.part? (n / 64) with
  | none => s
  | some p =>
    let x := p.session (n % 64)
    if x.agreed || x.asking then s else s.setPart (n / 64) (p.setSession (n % 64) { x with asking := true, sought := peers })
/-- A packet for the transport: the first on a session without keys agrees them before it leaves (R333), and so does one
after an agreement that failed (R342). -/
def State.sendOn (s : State) (session : Option Nat) (peers : List Nat) (p : Packet) : State :=
  let s := match session with | some n => s.seek n peers | none => s
  { s with hub := { s.hub with outbox := s.hub.outbox ++ [{ session, owner := none, packet := p }] } }
/-- A packet of an agent's access or command has not been acknowledged (R288). -/
def State.sentBy (s : State) (uid id : Nat) : Bool := s.hub.outbox.any fun x => x.owner == some (uid, id)
/-- A packet may leave: the keys it needs are agreed. -/
def State.mayLeave (s : State) (x : Sent) : Bool := match x.session with | some n => (s.session n).agreed | none => true

/-- Each byte is the old or the new one; which is free (R352, R385). A place with no old byte holds the new. -/
def mixBytes (n : Nat) (old new : List Byte) : List Byte :=
  new.zipIdx.map fun p => if Config.choice (n + p.2) then p.1 else (old.drop p.2).headD p.1

/-! Agent numbers (R18, R19, R364). -/

/-- The numbers from which an ended gang's in-flight accesses go on (R102). -/
def orphanBase : Nat := 2 ^ 32
def orphanKey (q uid : Nat) : Nat := (q + 1) * 2 ^ 32 + uid
def quadOf (k : Nat) : Nat := if k < 2 ^ 32 then k / 64 else k / 2 ^ 32 - 1
def isSeq (k : Nat) : Bool := decide (k < orphanBase) && decide (48 ≤ k % 64)
def isMseq (k : Nat) : Bool := decide (k < orphanBase) && k % 64 == 48
def isDseq (k : Nat) : Bool := decide (k < orphanBase) && k % 64 == 49
def schedOf (k : Nat) : Nat := k % 64 / 12
def mseqOf (q : Nat) : Nat := 64 * q + 48
def dseqOf (q : Nat) : Nat := 64 * q + 49
def clusterOf (q : Nat) : Nat := q / 4
def dieOf (q : Nat) : Nat := q / 64

/-- Whether the part runs under the fallbacks of R52: Midnight mode, test mode, or a quadrant under recovery (R399). -/
def State.lenient (s : State) (k : Nat) : Bool :=
  s.mgmt.mode != .normal || (s.quad (quadOf k)).recovery

/-! The uniform file (R72) and the predicates (R129). -/

def Agent.s (a : Agent) (n : Nat) : Word := if n = 0 then 0#32 else mapGet 0#32 a.sreg n
def Agent.setS (a : Agent) (n : Nat) (v : Word) : Agent :=
  if n = 0 then a else { a with sreg := mapSet 0#32 a.sreg n v }
/-- The pair s(n):s(n+1), low word first. -/
def Agent.pair (a : Agent) (n : Nat) : Dword := a.s (n + 1) ++ a.s n
def Agent.setPair (a : Agent) (n : Nat) (v : Dword) : Agent :=
  (a.setS n (v.setWidth 32)).setS (n + 1) (v.extractLsb' 32 32)
def Agent.q (a : Agent) (n : PNum) : Bool := n == 7#3 || a.qreg.getLsbD n.toNat
def Agent.setQ (a : Agent) (n : PNum) (b : Bool) : Agent :=
  if n == 7#3 then a
  else
    let m : BitVec 8 := 1#8 <<< n.toNat
    { a with qreg := if b then a.qreg ||| m else a.qreg &&& ~~~m }
def Agent.p (a : Agent) (n : PNum) : Mask := if n == 7#3 then BitVec.allOnes 32 else mapGet 0#32 a.preg n.toNat
def Agent.setP (a : Agent) (n : PNum) (m : Mask) : Agent :=
  if n == 7#3 then a else { a with preg := mapSet 0#32 a.preg n.toNat m }
/-- Whether the predicate of a uniform word holds (R29). -/
def Agent.holds (a : Agent) (p : Pred) : Bool := a.q p.idx != p.neg
def Agent.predMask (a : Agent) (p : Pred) : Mask := if p.neg then ~~~ a.p p.idx else a.p p.idx

/-! Vector registers (R106 to R109). -/

def Agent.v (a : Agent) (n : Nat) : LaneVec := mapGet laneZero a.vreg n
def Agent.setV (a : Agent) (n : Nat) (x : LaneVec) : Agent := { a with vreg := mapSet laneZero a.vreg n x }
def Agent.t (a : Agent) (n : Nat) : LaneVec := mapGet laneZero a.temps n
def Agent.setT (a : Agent) (n : Nat) (x : LaneVec) : Agent := { a with temps := mapSet laneZero a.temps n x }
/-- Whether vector register n lies in the gang's current blocks (R106, R107). -/
def Agent.hasV (a : Agent) (n : Nat) : Bool :=
  if n < 64 then decide (n < a.regs)
  else if n < 256 then a.blocks.getLsbD (n / 64 - 1) else false
/-- The active lanes' values over the old value (R108). -/
def mergeLanes (act : Mask) (new old : LaneVec) : LaneVec :=
  laneFn fun i => if act.getLsbD i then lane new i else lane old i

/-! Slots (R79): `which` is true when slot 1 issues. -/

def Agent.slot (a : Agent) : PcSlot := if a.which then a.slot1 else a.slot0
def Agent.other (a : Agent) : PcSlot := if a.which then a.slot0 else a.slot1
def Agent.setSlot (a : Agent) (x : PcSlot) : Agent := if a.which then { a with slot1 := x } else { a with slot0 := x }
def Agent.setOther (a : Agent) (x : PcSlot) : Agent := if a.which then { a with slot0 := x } else { a with slot1 := x }
def Agent.runsNow (a : Agent) : Bool := a.slot0.st == .run || a.slot1.st == .run
def Agent.live (x : PcSlot) : Bool := x.st != .dead
/-- The active lanes of a vector word (R29). -/
def Agent.active (a : Agent) (p : Pred) : Mask := a.slot.mask &&& a.predMask p

/-! Addresses of the run in progress. -/

def RunBuf.wordAddr (r : RunBuf) : Dword := r.header + 8#64 * BitVec.ofNat 64 (r.idx + 1)
/-- The header after the run (R34, R99): words holds the body and the trailer. -/
def RunBuf.next (r : RunBuf) : Dword := r.header + 8#64 * BitVec.ofNat 64 (r.words.length + 1)
def Agent.wordAddr (a : Agent) : Dword := match a.run with | some r => r.wordAddr | none => a.slot.pc
def Agent.header (a : Agent) : Dword := match a.run with | some r => r.header | none => a.slot.pc
def Agent.nextHeader (a : Agent) : Dword := match a.run with | some r => r.next | none => a.slot.pc
def Agent.setFlow (a : Agent) (f : Flow) : Agent := { a with run := a.run.map fun r => { r with flow := f } }
/-- The target of a branch (R40). -/
def Agent.target (a : Agent) (off : BitVec 24) : Dword := a.header + 8#64 * off.signExtend 64

/-! Results under way (R37). A code is R32's for a vector register, 512 + n for uniform register n. -/

def vCode (n : Nat) : Nat := n
def tCode (n : Nat) : Nat := 256 + n
def sCode (n : Nat) : Nat := 512 + n
def operandCodeOf : Operand → Nat
  | .v n => vCode n.toNat
  | .t n => tCode n.toNat
  | .b n => sCode n.toNat
def vdstCodeOf : VDst → Nat
  | .v n => vCode n.toNat
  | .t n => tCode n.toNat

/-- The registers an access delivers to: one, or as many as its width holds. -/
def Access.dsts (x : Access) : List Nat :=
  match x.dst with
  | none => []
  | some d =>
    let n := match x.kind with | .atom _ w true => (w + 31) / 32 | .cas w => (w + 31) / 32 | _ => 1
    (List.range n).map (d + ·)

/-- A load or atomic whose lanes have not all returned or faulted. -/
def Access.waiting (x : Access) : Bool := x.dst.isSome && x.pend != 0
/-- A parked load (R376): every lane has returned or faulted, and some have faulted. -/
def Access.parked (x : Access) : Bool := x.dst.isSome && x.pend == 0 && x.faulted != 0
def Agent.busy (a : Agent) (code : Nat) : Bool :=
  code != 512 && (a.pending.any (·.1 == code) || a.accs.any fun x => x.waiting && x.dsts.contains code)
/-- Whether a word of the run in progress awaits a result in a register (R37). -/
def Agent.awaits (a : Agent) (code : Nat) : Bool :=
  code != 512 && (a.pending.contains (code, a.runs) || a.accs.any fun x => x.run == a.runs && x.waiting && x.dsts.contains code)
def Agent.parkedOn (a : Agent) (code : Nat) : Option Access :=
  a.accs.find? fun x => x.parked && (!a.sv || x.sup) && x.dsts.contains code
/-- Stores and ATOMNs not yet acknowledged (R287). -/
def Access.isWrite (x : Access) : Bool := x.dst.isNone
def Agent.usc (a : Agent) : Nat := (a.accs.filter fun x => x.isWrite && x.pend != 0).length
/-- Held faulted records (R377): acknowledged stores with faulted lanes, and faulted commands (R379). -/
def Access.heldRec (x : Access) : Bool := x.isWrite && x.pend == 0 && x.faulted != 0
def Agent.heldStores (a : Agent) : List Access := a.accs.filter Access.heldRec
def Agent.heldCmds (a : Agent) : List Cmd := a.cmds.filter fun c => c.fault.isSome
def Agent.heldCount (a : Agent) : Nat := a.heldStores.length + a.heldCmds.length

/-! The accumulator banks (R213). -/

/-- The index of the working bank, or of the visible one. -/
def Quad.bankNo (q : Quad) (vis : Bool) : Nat := if q.work == vis then 0 else 1
def bankKey (b r c : Nat) : Nat := 32768 * b + 128 * r + c
def Quad.bank (q : Quad) (vis : Bool) (r c : Nat) : Word := mapGet 0#32 q.banks (bankKey (q.bankNo vis) r c)
/-- MREADV in flight (R218, R229): an access of space 2, its lanes' places in the visible bank by 128 × row + column. -/
def Access.ofBank (x : Access) : Bool := x.space == 2
/-- The lanes of an MREADV take their values, all from one state of the bank. -/
def Access.readBank (x : Access) (q : Quad) : Access :=
  if x.ofBank then { x with lanes := x.lanes.map fun l => { l with value := (q.bank true (l.bit.toNat / 128) (l.bit.toNat % 128)).toNat } } else x

/-! How a word ends. -/

/-- A body word's verdict: it has completed, it waits with no other effect (R6), or it traps with a cause, detail,
faulting lanes and fault address; `report` names the held access or command reported. A word that a parked load holds back
traps as one that reads the load's destination (R376): DESIGN CHOICE (log 70). -/
inductive Verdict where
  | done (s : State)
  | wait (counted : Bool) (s : State)
  | trap (cause detail : Nat) (fmask : Option Mask) (faddr : Nat) (report : Option Nat)
  | behind (x : Access)

/-- The run moves on to its next word. -/
def RunBuf.advance (r : RunBuf) : RunBuf := { r with idx := r.idx + 1, stalled := false, fallback := false }
/-- Whether the word in progress executes under a fallback of R52. -/
def Agent.fallback (a : Agent) : Bool := match a.run with | some r => r.fallback | none => false

/-- The word has completed (R76): RETIRED counts it and the run moves on; a fallback sets WARN (R52). -/
def Agent.retire (a : Agent) : Agent :=
  { a with retired := a.retired + 1, since := a.since + 1, warn := a.warn || a.fallback,
           block := if a.block = .yield then .yield else .none, run := a.run.map RunBuf.advance }

/-- Whether a wait of R85 blocks the gang. -/
def Block.blocks : Block → Bool
  | .none | .handler | .stopped => false
  | _ => true
/-- STALLS shows the stalls of the words completed since it was read or written (R37): a free count. -/
def Agent.showStalls (a : Agent) (n : Nat) : Agent :=
  { a with stalls := a.stalls + word (Config.elapsed n % max 1 a.since), since := 0 }
/-- The word waits; an in-run stall is counted once (R37). The slots of a blocked gang have no ready run, so their waits
restart (R85). -/
def Agent.stallWord (a : Agent) (counted : Bool) : Agent :=
  let a := if a.block.blocks then { a with wait0 := 0, wait1 := 0 } else a
  match a.run with
  | some r => if counted && !r.stalled then { a with stalls := a.stalls + 1, run := some { r with stalled := true } } else a
  | none => a

/-- The illegal no-operation of R50: nothing changes but the place in the run. -/
def Agent.skip (a : Agent) : Agent := { a with block := .none, run := a.run.map RunBuf.advance }

/-- A registers check for a trap cause (R371): the detail of ILLEGAL is the reason of R51. -/
def illegal (reason : Nat) : Verdict := .trap 0x01 reason none 0 none
def regblock (n : Nat) : Verdict := .trap 0x02 (n % 256) none 0 none
/-- A precise MEM of a word that is no lane access (R372, R374). -/
def memUniform (code : Nat) : Verdict := .trap 0x09 code none 0 none
def memPrecise (code : Nat) (lanes : Mask) (addr : Nat) : Verdict := .trap 0x09 code (some lanes) addr none

end Sys2Proof.Machine
end

