-- ==== Sys2Proof/Machine/Mem.lean ====
section
/-! DEFINITION. The path of a global access (R239 to R264, R417): windows, routing hash, page walk, leases, chunk
maps, units and poison, the MSC and the L1. -/

namespace Sys2Proof.Machine

/-! Virtual addresses (R240) and the routing hash (R247). -/

def vaLimit : Nat := 2 ^ 57
def sharedBase : Nat := 0x01C0000000000000
/-- The first address of a shared window (R240). -/
def windowBase (k : Nat) : Nat := sharedBase + k * 2 ^ 52
/-- The shared window an address lies in. -/
def windowOf (va : Nat) : Option Nat := if va < sharedBase then none else some (field va 52 2)
/-- VA': the window removed. -/
def vaPrime (va : Nat) : Nat := if va < sharedBase then va else va % 2 ^ 52

/-- The space of an address in a context, or none: PAGE (R240). -/
def State.spaceOf (s : State) (ctx va : Nat) : Option Nat :=
  if vaLimit ≤ va then none
  else match s.ctx? ctx with
    | none => none
    | some c => match windowOf va with
      | none => some c.sid
      | some k => tabGet c.attached k

/-- y of R247. -/
def foldHash (x : Nat) : Nat :=
  (List.range 7).foldl (fun a i => a ^^^ field x (7 * i) (if i == 6 then 3 else 7)) 0

/-- The CG index j names under R22. -/
def routeCg (sp : Space) (va : Nat) : Nat :=
  let x := (va / 4096 % 2 ^ 45) ^^^ sp.seed.toNat
  let j := foldHash x % (32 * sp.dies.length)
  32 * ((sp.dies.drop (j / 32)).headD 0) + j % 32

/-- The home of a chunk: the CG of R247, or the one that took over its index (R403). -/
def State.homeCg (s : State) (sp : Space) (va : Nat) : Nat :=
  let c := routeCg sp va
  let h := (s.cg c).home
  if h = 0 then c else h - 1

/-! Page tables (R250 to R252), in the owning partition's system space. -/

def sysKey (part addr : Nat) : Nat := part * 2 ^ 52 + addr
def State.pte (s : State) (part addr : Nat) : Nat := s.sysm.readNat (sysKey part addr) 8
def State.setPte (s : State) (part addr e : Nat) : State :=
  { s with sysm := s.sysm.writeNat (sysKey part addr) 8 e }

def pteV (e : Nat) : Bool := bitAt e 0
def pteLeaf (e : Nat) : Bool := bitAt e 1
def pteR (e : Nat) : Bool := bitAt e 2
def pteW (e : Nat) : Bool := bitAt e 3
def pteX (e : Nat) : Bool := bitAt e 4
def pteAT (e : Nat) : Bool := bitAt e 5
def pteD (e : Nat) : Bool := bitAt e 6
def pteA (e : Nat) : Bool := bitAt e 7
def pteGran (e : Nat) : Nat := field e 8 2
def pteLoc (e : Nat) : Nat := field e 10 2
def pteClass (e : Nat) : Nat := field e 12 2
def pteNC (e : Nat) : Bool := bitAt e 14
def ptePtr (e : Nat) : Nat := field e 16 40

/-- Level, lowest index bit, index width (R250). -/
def ptLevels : List (Nat × Nat × Nat) := [(0, 48, 9), (1, 39, 9), (2, 30, 9), (3, 21, 9), (4, 16, 5)]

/-- A leaf is well formed (R251, R252). -/
def leafOk (e size : Nat) : Bool :=
  match pteLoc e with
  | 0 => ptePtr e == 0
  | 1 => decide (ptePtr e * 2 ^ 16 % size = 0)
  | 2 => true
  | _ => false

/-- The walk: a leaf's address, entry and page size, or none for PAGE. -/
def walkTable (read : Nat → Nat) (va : Nat) : List (Nat × Nat × Nat) → Nat → Option (Nat × Nat × Nat)
  | [], _ => none
  | (lv, lo, w) :: ls, table =>
    let a := table + 8 * field va lo w
    let e := read a
    if !pteV e || bitAt e 15 then none
    else if pteLeaf e then
      if lv < 2 || !leafOk e (2 ^ lo) then none else some (a, e, 2 ^ lo)
    else walkTable read va ls (ptePtr e * 4096)

def State.walk (s : State) (sp : Space) (va : Nat) : Option (Nat × Nat × Nat) :=
  walkTable (s.pte sp.owner) va ptLevels sp.root

/-! Leases (R253) and the A and D bits (R254). -/

def Lease.covers (l : Lease) (sid va : Nat) : Bool := l.sid == sid && decide (l.page ≤ va) && decide (va < l.page + l.size)

/-- The leaf under which a place translates va: a lease it holds, or a walk and a new lease with A set. -/
def leaseAt (s : State) (sp : Space) (sid va : Nat) (held : List Lease) (next : Nat) : Option (Lease × Bool × State) :=
  match held.find? fun l => l.covers sid va with
  | some l => some (l, false, s)
  | none => match s.walk sp va with
    | none => none
    | some (a, e, size) =>
      let e' := e ||| 0x80
      some ({ sid, page := va / size * size, size, pte := a, entry := e', num := next, dirty := false }, true,
        if pteA e then s else s.setPte sp.owner a e')

/-- D is set before the first write under each lease of a writable leaf (R254). -/
def markDirty (s : State) (sp : Space) (l : Lease) : Lease × State :=
  if l.dirty || !pteW l.entry then (l, s)
  else ({ l with dirty := true }, s.setPte sp.owner l.pte (s.pte sp.owner l.pte ||| 0x40))
def markFirst (s : State) (sp : Space) (sid va : Nat) (ls : List Lease) : List Lease × State :=
  match ls.find? fun l => l.covers sid va with
  | none => (ls, s)
  | some l => let (l', s') := markDirty s sp l; (ls.map fun x => if x.num = l.num then l' else x, s')

def putLease (l : Lease) (ls : List Lease) : List Lease := l :: ls.filter fun x => x.num != l.num

/-! Chunks and frames (R248). -/

def chunkKey (sid va : Nat) : Nat := sid * 2 ^ 45 + va / 4096
def devKey (sid va : Nat) : Nat := sid * 2 ^ 57 + va
/-- Frames of a CG: 8 GiB of 4 KiB chunks (R23, 1,024 GiB over 128 CGs). -/
def framesPerCg : Nat := 2 ^ 21

/-- Whether a chunk lies in its space's page reservation (R417). -/
def Space.reserved (sp : Space) (va : Nat) : Bool :=
  decide (sp.resBase ≤ va) && decide (va < sp.resBase + sp.nrp * 2 ^ 16)

/-- A frame of the free list: one freed, or one never used; the one sought in the source's subarray where there is one (R322). -/
def Cg.takeFrame (cg : Cg) (src : Option Nat) : Option (Nat × Cg) :=
  let near (f : Nat) : Bool := match src with | some x => Config.subarray f == Config.subarray x | none => false
  let used (f : Nat) : Nat × Cg := (f, { cg with freed := cg.freed.erase f })
  let fresh (i : Nat) : Nat × Cg := (cg.nextFrame + i, { cg with
    freed := cg.freed ++ (List.range i).map (cg.nextFrame + ·), nextFrame := cg.nextFrame + i + 1 })
  match cg.freed.find? near with
  | some f => some (used f)
  | none => match (if src.isSome then (List.range (framesPerCg - cg.nextFrame)).find? fun i => near (cg.nextFrame + i) else none) with
    | some i => some (fresh i)
    | none => match cg.freed with
      | f :: _ => some (used f)
      | [] => if cg.nextFrame < framesPerCg then some (fresh 0) else none

/-- Take a frame of CG c for a chunk (R26, R248 step 4), or none: POOL. For a clone, a free frame of the source frame's
subarray where there is one (R322). -/
def allocChunk (c : Nat) (cg : Cg) (p : Option Part) (sp : Space) (sid va gran : Nat) (src : Option Nat) : Option Cg :=
  let used := mapGet 0 cg.charged sp.owner
  let full := !sp.reserved va && (match p with
    | some p => decide (mapGet 0 p.quota c ≤ used)
    | none => true)
  if full then none
  else
    let charge := if sp.reserved va then cg.charged else mapSet 0 cg.charged sp.owner (used + 1)
    (cg.takeFrame src).map fun r => { r.2 with
      charged := charge, chunks := mapPut cg.chunks (chunkKey sid va) { gran, frame := r.1, moved := false } }

/-! Units, correction and poison (R257, R258). -/

def unitBytes (gran : Nat) : Nat := 32 * 2 ^ gran
def symbolsCorrected (gran : Nat) : Nat := match gran with | 0 => 2 | 1 => 4 | _ => 8

/-- The pseudo-channel, beat and first data pin of byte k of unit u (R257); its channel is the pseudo-channel div 2. -/
def unitPlace (gran u k : Nat) : Nat × Nat × Nat :=
  let p := 2 ^ gran
  (p * (u % (8 / p)) + k / 4 % p, k / (4 * p), 8 * (k % 4))
def channelOf (pch : Nat) : Nat := pch / 2
/-- The beat and first check pin of nibble h of check byte c of a burst (R257): pins 32 to 35 are CB0 to CB3. -/
def checkPlace (c h : Nat) : Nat × Nat := (2 * c + h, 32)

/-- Multiplication in GF(2^8) under x^8 + x^4 + x^3 + x^2 + 1 (R258). -/
def gfMul (a b : Nat) : Nat :=
  ((List.range 8).foldl (fun r i =>
    (if bitAt b i then r.1 ^^^ r.2 else r.1, if r.2 < 128 then 2 * r.2 else (2 * r.2) ^^^ 0x11D)) (0, a)).1
def gfPow (i : Nat) : Nat := (List.range i).foldl (fun x _ => gfMul x 2) 1
/-- The generator of m check bytes, below its leading 1, highest degree first. -/
def rsGenerator (m : Nat) : List Nat :=
  ((List.range m).foldl (fun g i =>
    let r := gfPow i
    List.zipWith (· ^^^ ·) (g ++ [0]) (0 :: g.map (gfMul r))) [1]).drop 1
/-- The m check bytes of a codeword's data bytes: systematic, data byte 0 the highest coefficient. -/
def rsCheck (m : Nat) (data : List Nat) : List Nat :=
  let g := rsGenerator m
  data.foldl (fun reg d =>
    let f := d ^^^ reg.headD 0
    List.zipWith (· ^^^ ·) (reg.drop 1 ++ [0]) (g.map (gfMul f))) (List.replicate m 0)
/-- Check bytes of each codeword, and how many codewords a unit has. -/
def checkCount (gran : Nat) : Nat := match gran with | 0 => 4 | 1 => 8 | _ => 16
def codewordCount (gran : Nat) : Nat := if gran = 3 then 2 else 1
/-- The bytes of a unit that codeword h covers: all, or those on the pseudo-channels of half-group h (R258). -/
def codewordBytes (gran u h : Nat) : List Nat :=
  (List.range (unitBytes gran)).filter fun k => gran != 3 || (unitPlace gran u k).1 / 4 == h
/-- What a pin of a pseudo-channel carries in a beat of unit u, for the unit's bytes (R257, R258). -/
def pinBit (gran u : Nat) (data : List Nat) (pch beat pin : Nat) : Bool :=
  let p := 2 ^ gran
  if pin < 32 then bitAt ((data.drop (4 * p * beat + 4 * (pch % p) + pin / 8)).headD 0) (pin % 8)
  else
    let h := if gran = 3 then pch / 4 else 0
    let cs := rsCheck (checkCount gran) ((codewordBytes gran u h).map fun k => (data.drop k).headD 0)
    bitAt ((cs.drop (4 * (pch % min p 4) + beat / 2)).headD 0) (4 * (beat % 2) + (pin - 32))
/-- The codeword and the symbol of it that a pin's bit in a beat belongs to: data bytes by their number, check bytes
from 1024 up. -/
def symbolAt (gran : Nat) (b : Nat × Nat × Nat) : Nat × Nat :=
  let p := 2 ^ gran
  (if gran = 3 then b.1 / 4 else 0,
    if b.2.2 < 32 then 4 * p * b.2.1 + 4 * (b.1 % p) + b.2.2 / 8 else 1024 + 4 * b.1 + b.2.1 / 2)
/-- The wrong symbols of codeword h under some wrong bits. -/
def wrongSymbols (gran h : Nat) (bits : List (Nat × Nat × Nat)) : Nat :=
  (((bits.map (symbolAt gran)).filter fun x => x.1 == h).map (·.2)).eraseDups.length

/-- The units that n bytes from a key overlap. -/
def unitsOver (gran key n : Nat) : List Nat :=
  let b := unitBytes gran
  (List.range ((key + (n - 1)) / b + 1 - key / b)).map fun i => (key / b + i) * b

/-- Reading a unit from DRAM: its errors are corrected and counted, or it becomes poisoned (R258). -/
def touchUnit (gran : Nat) (cg : Cg) (u : Nat) : Cg :=
  match tabGet cg.errors u with
  | none => cg
  | some bits =>
    let cg := { cg with errors := mapDel cg.errors u }
    if (List.range (codewordCount gran)).all fun h => decide (wrongSymbols gran h bits ≤ symbolsCorrected gran) then
      { cg with corrected := cg.corrected + 1 }
    else { cg with poison := if cg.poison.contains u then cg.poison else u :: cg.poison }

/-- The sectors of its MSC line that a unit covers, and whether the MSC holds all of them (R246). -/
def unitSectors (gran u : Nat) : BitVec 8 := (BitVec.ofNat 8 (2 ^ 2 ^ gran - 1)) <<< (u / 32 % 8)
def Cg.holdsUnit (cg : Cg) (gran u : Nat) : Bool :=
  cg.msc.any fun l => l.sid == u / 2 ^ 57 && l.line == u % 2 ^ 57 / 256 && l.valid &&& unitSectors gran u == unitSectors gran u
/-- The units that n bytes from a key make the channel read: those the MSC does not hold and, for a write, that are not
wholly replaced (R246, R258). -/
def Cg.unitsRead (cg : Cg) (gran key n : Nat) (write : Bool) : List Nat :=
  (unitsOver gran key n).filter fun u =>
    !cg.holdsUnit gran u && !(write && decide (key ≤ u) && decide (u + unitBytes gran ≤ key + n))

def unitsPoisoned (cg : Cg) (gran key n : Nat) : Bool := (unitsOver gran key n).any cg.poison.contains

/-- A write that covers a whole unit clears its poison and replaces its symbols (R258). -/
def clearUnits (cg : Cg) (gran key n : Nat) : Cg :=
  let whole (u : Nat) : Bool := decide (key ≤ u) && decide (u + unitBytes gran ≤ key + n)
  { cg with poison := cg.poison.filter (fun u => !whole u), errors := cg.errors.filter fun e => !whole e.1 }

/-! The MSC (R246, R261 to R263). It holds no data of its own here: device memory is read and written at its CG. -/

def lineHash (va : Nat) : Nat :=
  field va 8 12 ^^^ field va 20 12 ^^^ field va 32 12 ^^^ field va 44 12 ^^^ field va 56 1

/-- The class a policy word gives a line, or the leaf's (R260, R261): 0 NORMAL, 1 KEEP, 2 STREAM, 3 no allocation. -/
def lineClass (pol : Option Word) (e va : Nat) : Nat :=
  match pol with
  | none => pteClass e
  | some w =>
    if pteClass e == 3 then 3
    else
      let t1 := field w.toNat 0 12
      let t2 := if field w.toNat 12 12 = 0 then 4096 else field w.toNat 12 12
      let h := lineHash va
      if h < t1 then 1 else if h < t2 then 0 else 2

def polClass (pol : Option Word) : Nat := match pol with | some w => field w.toNat 24 2 | none => 0
def polNoL1 (pol : Option Word) : Bool := match pol with | some w => bitAt w.toNat 26 | none => false
def polPin (pol : Option Word) : Bool := match pol with | some w => bitAt w.toNat 27 | none => false

/-- The rank of a line as victim: lower goes first (R262). -/
def victimRank (l : MscLine) : Nat := match l.cls with | 2 => 0 | 0 => 1 | _ => 2

/-- Choose the victim among the lines of a set within the way mask. -/
def pickVictim : List MscLine → Option MscLine
  | [] => none
  | l :: ls =>
    match pickVictim ls with
    | none => some l
    | some b =>
      if victimRank l < victimRank b || (victimRank l == victimRank b && decide (l.used ≤ b.used)) then some l else some b

/-- The way mask of a traffic class (R262). -/
def Part.ways (p : Part) (tc : Nat) : BitVec 16 := (p.wayMasks.drop tc).headD 0

/-- Pin a line, or demote the request to KEEP and count it (R263). -/
def pinLine (cg : Cg) (p : Part) (part tc : Nat) (l : MscLine) (set : List MscLine) : MscLine × Cg :=
  let left := (List.range 16).filter fun w => (p.ways tc).getLsbD w && w != l.way && !set.any fun x => x.pin.isSome && x.way == w
  let held := mapGet 0 cg.pins part
  if left = [] || p.pinQuota ≤ held then ({ l with cls := 1 }, { cg with demoted := cg.demoted + 1 })
  else ({ l with cls := 1, pin := some part }, { cg with pins := mapSet 0 cg.pins part (held + 1) })

/-- A line leaves the MSC: a unit of it that is dirty is written back whole, with new check bytes (R246, R258), and the
pin of the partition that asked for it ends (R263). -/
def Cg.leave (cg : Cg) (l : MscLine) : Cg :=
  let gran := match tabGet cg.chunks (chunkKey l.sid (256 * l.line)) with | some ch => ch.gran | none => 0
  let back (u : Nat) : Bool :=
    u / 2 ^ 57 == l.sid && u % 2 ^ 57 / 256 == l.line && l.valid &&& unitSectors gran u == unitSectors gran u && l.dirty &&& unitSectors gran u != 0
  { cg with
    msc := cg.msc.filter (fun x => !(x.sid == l.sid && x.line == l.line)), errors := cg.errors.filter (fun e => !back e.1)
    pins := match l.pin with | some p => mapSet 0 cg.pins p (mapGet 0 cg.pins p - 1) | none => cg.pins }

/-- An access meets a line of the MSC: a hit, an allocation in a way of the mask, or no line. `op`: 0 read, 1 write,
2 atomic; `fill` and `sector`: the sectors filled and those accessed. -/
def mscLine (cg : Cg) (p : Part) (part sid line op cls tc : Nat) (fill sector : BitVec 8) (pin purging : Bool) : Cg :=
  let set := cg.msc.filter fun l => Config.mscSet l.sid l.line % 512 == Config.mscSet sid line % 512
  let cg := { cg with clock := cg.clock + 1 }
  let put (l : MscLine) (cg : Cg) : Cg :=
    { cg with msc := l :: cg.msc.filter fun x => !(x.sid == l.sid && x.line == l.line) }
  match cg.msc.find? fun l => l.sid == sid && l.line == line with
  | some l =>
    let l := { l with used := cg.clock, valid := l.valid ||| fill, dirty := if op == 0 then l.dirty else l.dirty ||| sector }
    if pin && l.pin.isNone then let (l, cg) := pinLine cg p part tc l set; put l cg else put l cg
  | none =>
    let policy := (p.alloc.drop (3 * tc + op)).headD 0
    if purging || cls == 3 || policy == 1 || (policy == 2 && cls != 1) then cg
    else
      let free := (List.range 16).find? fun w => (p.ways tc).getLsbD w && !set.any fun l => l.way == w
      let victim := pickVictim (set.filter fun l => (p.ways tc).getLsbD l.way && l.pin.isNone)
      let mk (w : Nat) : MscLine :=
        { sid, line, way := w, cls, pin := none, part, valid := fill, dirty := if op == 0 then 0 else sector, used := cg.clock }
      match free, victim with
      | some w, _ => if pin then let (l, cg) := pinLine cg p part tc (mk w) set; put l cg else put (mk w) cg
      | none, some v =>
        let cg := cg.leave v
        if pin then let (l, cg) := pinLine cg p part tc (mk v.way) set; put l cg else put (mk v.way) cg
      | none, none => cg

/-- An access of n bytes of a chunk meets the MSC (R246): each line of 256 bytes it overlaps, filled in units. -/
def mscUse (cg : Cg) (p : Part) (part gran sid va n op : Nat) (pol : Option Word) (e : Nat) (purging : Bool) : Cg :=
  (List.range ((va % 256 + n + 255) / 256)).foldl (init := cg) fun cg i =>
    let line := va / 256 + i
    let lo := max va (256 * line)
    let hi := min (va + n) (256 * line + 256)
    let sectors := (List.range 8).foldl (fun (m : BitVec 8) j =>
      if lo < 256 * line + 32 * j + 32 && 256 * line + 32 * j < hi then m ||| (1#8 <<< j) else m) 0
    let fill := (unitsOver gran (devKey sid lo) (hi - lo)).foldl (fun (m : BitVec 8) u => m ||| unitSectors gran u) 0
    mscLine cg p part sid line op (lineClass pol e (256 * line)) (polClass pol) fill sectors (polPin pol) purging

/-! One piece of an access: bytes within one 4 KiB chunk. -/

/-- What an access needs of its leaf (R255). -/
inductive Need where
  | read | write | atomic | fetch
  deriving DecidableEq, Repr

def Need.ok (n : Need) (e : Nat) : Bool :=
  match n with
  | .read => pteR e
  | .write => pteW e
  | .atomic => pteAT e
  | .fetch => pteX e

/-- Where a piece is performed. -/
inductive Loc where
  | device (cg sid va entry : Nat)
  | host (pa entry : Nat)
  | peer (endpt va entry : Nat)
  deriving DecidableEq, Repr

def leafWindow : Nat := 0x01BFFE0000000000
def inLeafWindow (va : Nat) : Bool := decide (leafWindow ≤ va) && decide (va < leafWindow + 2 ^ 40)

/-- The kinds of target that hold an access table (R404). -/
inductive Target where
  | msc | cluster | mailbox | images | regs
  deriving DecidableEq, Repr
def Target.key (t : Target) (master : Nat) : Nat :=
  master + 1024 * (match t with | .msc => 0 | .cluster => 1 | .mailbox => 2 | .images => 3 | .regs => 4)
/-- A master's entry, the same in the table of every target: DESIGN CHOICE (log 49), the spec does not say what Matins writes where. -/
def State.setAccess (s : State) (master e : Nat) : State :=
  { s with access := [Target.msc, .cluster, .mailbox, .images, .regs].foldl (fun m t => mapSet 0 m (t.key master) e) s.access }
def accessEntry (part : Nat) : Nat := 3 + 4 * part
/-- The access tables as Dawn writes them: masters 256 and 257 reach any partition, the physical function its window. -/
def State.dawnAccess (s : State) : State := (({ s with access := [] }.setAccess 256 0x83).setAccess 257 0x83).setAccess 270 0x03
/-- R404: the master's entry at a target admits the partition. -/
def State.admits (s : State) (t : Target) (master part : Nat) (write : Bool) : Bool :=
  let e := mapGet 0 s.access (t.key master)
  (if write then bitAt e 1 else bitAt e 0) && (bitAt e 7 || field e 2 5 == part)

/-- The endpoint of a capability-table entry that names a peer context (R252, R328), and above its 24 bits the session. -/
def State.peerEndpt (s : State) (ctx i : Nat) : Option Nat :=
  match s.ctx? ctx with
  | some c => let e := mapGet 0 c.caps i; if field e 0 4 = 1 then some (field e 32 24 + 2 ^ 24 * sessionOf ctx (field e 16 8)) else none
  | none => none

/-- Translate one byte address of a context at its home CG and the hub, granting leases (R248 to R254), or a fault
code of R255. GRANULE and POOL come with the chunk lookup below. DESIGN CHOICE (log 69): a peer leaf whose capability
entry names no peer context faults PAGE. -/
def State.translate (s : State) (quad ctx va : Nat) (need : Need) : Except Nat (Loc × State) :=
  match s.spaceOf ctx va with
  | none => .error 2
  | some sid =>
    if inLeafWindow va then .error 3
    else match s.space? sid with
    | none => .error 2
    | some sp =>
      let va' := vaPrime va
      let c := s.homeCg sp va'
      let cg := s.cg c
      match leaseAt s sp sid va' cg.leases s.hub.nextLease with
      | none => .error 2
      | some (l, fresh, s1) =>
        let wr := need == .write || need == .atomic
        if pteLoc l.entry == 0 then
          let s1 := if fresh then { s1.setCg c { cg with leases := putLease l cg.leases } with
            hub := { s1.hub with nextLease := s1.hub.nextLease + 1 } } else s1
          if !need.ok l.entry || !s1.admits .msc quad (ctx / 16) wr then .error 3
          else .ok (.device c sid va' l.entry, s1)
        else
          match leaseAt s sp sid va' s.hub.leases s.hub.nextLease with
          | none => .error 2
          | some (l, fresh, s1) =>
            let s1 := if fresh then { s1 with hub := { s1.hub with leases := putLease l s1.hub.leases, nextLease := s1.hub.nextLease + 1 } } else s1
            if !need.ok l.entry then .error 3
            else if pteLoc l.entry == 1 then .ok (.host (ptePtr l.entry * 2 ^ 16 + (va' - l.page)) l.entry, s1)
            else match s.peerEndpt ctx (ptePtr l.entry / 2 ^ 32) with
              | none => .error 2
              | some e => .ok (.peer e (ptePtr l.entry % 2 ^ 32 * 2 ^ 16 + (va' - l.page)) l.entry, s1)

/-- Whether a purge mark covers an address (R323). -/
def State.purging (s : State) (sid va : Nat) : Bool :=
  s.purges.any fun p => p.sid == sid && decide (p.start ≤ va) && decide (va < p.start + 4096 * p.count)

/-- An access goes to a peer context over the span transport (R252); what the peer holds is free. -/
def State.peerAccess (s : State) (endpt va n : Nat) (req : List Nat) : List Byte × State :=
  ((List.range n).map fun i => Config.peerByte (s.fresh + i),
   { s with fresh := s.fresh + n }.sendOn (some (endpt / 2 ^ 24)) [field endpt 0 16] (.access (field endpt 0 16) (field endpt 16 4) va n req))

/-- A row activation of a partition (R264), where an access reached DRAM: past the limit the row is throttled. The row may
be open already, and a new counting window may have begun at any time. -/
def State.activate (s : State) (c : Nat) (frame part : Nat) (missed : Bool) : State :=
  if !missed then s
  else match s.part? part with
    | none => s
    | some p =>
      let row := Config.dramRow c frame
      let key := part * 2 ^ 64 + row
      let (opened, s) := s.choose
      let (again, s) := s.choose
      let cg := s.cg c
      let n := if again then 1 else mapGet 0 cg.acts key + if opened then 0 else 1
      let t := (part, row / 2 ^ 20, row % 2 ^ 20)
      s.setCg c { cg with
        acts := mapSet 0 cg.acts key n,
        throttled := if p.actLimit < n && !cg.throttled.contains t then t :: cg.throttled else cg.throttled }

/-- A CG's part in an access of n bytes of a chunk that has a frame (R246, R258, R264): the units read from DRAM, the MSC,
the activation. -/
def State.meetChunk (s : State) (c gran frame sid va n op : Nat) (ctx e : Nat) (pol : Option Word) (write : Bool) : State :=
  let cg := s.cg c
  let read := cg.unitsRead gran (devKey sid va) n write
  let kept (cg : Cg) : Bool := cg.msc.any fun l => l.sid == sid && l.line == va / 256
  let cg := read.foldl (touchUnit gran) (if write then clearUnits cg gran (devKey sid va) n else cg)
  let cg' := match s.part? (ctx / 16) with
    | some p => mscUse cg p (ctx / 16) gran sid va n op pol e (s.purging sid va)
    | none => cg
  (s.setCg c cg').activate c frame (ctx / 16) (read != [] || (write && !kept cg'))

/-- Read n bytes within one chunk, or a fault code; 100 stands for POISON (R258). -/
def State.readPiece (s : State) (loc : Loc) (n op : Nat) (ctx : Nat) (pol : Option Word) : Except Nat (List Byte × State) :=
  match loc with
  | .device c sid va e =>
    match tabGet (s.cg c).chunks (chunkKey sid va) with
    | none => .ok (List.replicate n 0, s)
    | some ch =>
      if ch.gran != pteGran e then .error 4
      else
        let s := s.meetChunk c ch.gran ch.frame sid va n op ctx e pol false
        if unitsPoisoned (s.cg c) ch.gran (devKey sid va) n then .error 100
        else .ok (s.dmem.readBytes (devKey sid va) n, s)
  | .host pa _ => .ok (s.hmem.readBytes pa n, s)
  | .peer en va _ => .ok (s.peerAccess en va n [])

/-- A read that meets a poisoned unit leaves the mark of what it found (R258). -/
def State.markPoison (s : State) (loc : Loc) (n ctx : Nat) : State :=
  match loc with
  | .device c sid va e => match tabGet (s.cg c).chunks (chunkKey sid va) with
    | some ch => s.meetChunk c ch.gran ch.frame sid va n 0 ctx e none false
    | none => s
  | _ => s

/-- The frame of a device piece, allocated where it has none (R248 steps 4 and 5), or a fault code; `src` is the frame in
whose subarray a clone's destination is to lie (R322). -/
def State.frameFor (s : State) (loc : Loc) (src : Option Nat) : Except Nat State :=
  match loc with
  | .device c sid va e => match tabGet (s.cg c).chunks (chunkKey sid va) with
    | some ch => if ch.gran != pteGran e then .error 4 else .ok s
    | none => match s.space? sid with
      | none => .error 2
      | some sp => match allocChunk c (s.cg c) (s.part? sp.owner) sp sid va (pteGran e) src with
        | some cg => .ok (s.setCg c cg)
        | none => .error 5
  | _ => .ok s

/-- The lease of a leaf marks its first write (R254). -/
def State.markWrite (s : State) (loc : Loc) (ctx va : Nat) : State :=
  match s.spaceOf ctx va with
  | none => s
  | some sid => match s.space? sid, loc with
    | some sp, .device c .. =>
      let (ls, s') := markFirst s sp sid (vaPrime va) (s.cg c).leases
      s'.setCg c { s'.cg c with leases := ls }
    | some sp, _ =>
      let (ls, s') := markFirst s sp sid (vaPrime va) s.hub.leases
      { s' with hub := { s'.hub with leases := ls } }
    | none, _ => s

/-- Write bytes within one chunk, allocating its frame (R248), or a fault code. -/
def State.writePiece (s : State) (loc : Loc) (bs : List Byte) (op : Nat) (ctx : Nat) (pol : Option Word) : Except Nat State :=
  match loc with
  | .device c sid va e => match s.frameFor loc none with
    | .error x => .error x
    | .ok s =>
      let frame := match tabGet (s.cg c).chunks (chunkKey sid va) with | some ch => ch.frame | none => 0
      let s := s.meetChunk c (pteGran e) frame sid va bs.length op ctx e pol true
      .ok { s with dmem := s.dmem.writeBytes (devKey sid va) bs }
  | .host pa _ => .ok { s with hmem := s.hmem.writeBytes pa bs }
  | .peer en va _ => .ok (s.peerAccess en va bs.length (1 :: bs.map (·.toNat))).2

/-! Whole global ranges, chunk by chunk, as the device's own engines use them. -/

/-- Split n bytes from va at 4 KiB boundaries; fuel counts the pieces. -/
def splitChunks : Nat → Nat → Nat → List (Nat × Nat)
  | 0, _, _ => []
  | f + 1, va, n =>
    if n = 0 then []
    else
      let k := min n (4096 - va % 4096)
      (va, k) :: splitChunks f (va + k) (n - k)
def piecesOf (va n : Nat) : List (Nat × Nat) := splitChunks (n / 4096 + 2) va n

/-- Read pieces in order under the rules of a load, or the first fault: code and address. -/
def readPieces (quad ctx : Nat) (need : Need) (pol : Option Word) :
    List (Nat × Nat) → State → Except (Nat × Nat) (List Byte × State)
  | [], s => .ok ([], s)
  | p :: ps, s =>
    match s.translate quad ctx p.1 need with
    | .error c => .error (c, p.1)
    | .ok (loc, s) =>
      match s.readPiece loc p.2 0 ctx pol with
      | .error c => .error (c, p.1)
      | .ok (b, s) =>
        match readPieces quad ctx need pol ps s with
        | .error e => .error e
        | .ok (bs, s) => .ok (b ++ bs, s)

/-- Write pieces in order, or the first fault: code, address and the state it leaves. -/
def writePieces (quad ctx : Nat) (pol : Option Word) : List (Nat × Nat) → List Byte → State → Except (Nat × Nat) State
  | [], _, s => .ok s
  | p :: ps, bs, s =>
    match s.translate quad ctx p.1 .write with
    | .error c => .error (c, p.1)
    | .ok (loc, s) =>
      match s.writePiece loc (bs.take p.2) 1 ctx pol with
      | .error c => .error (c, p.1)
      | .ok s => writePieces quad ctx pol ps (bs.drop p.2) (s.markWrite loc ctx p.1)

def State.readGlobal (s : State) (quad ctx va n : Nat) (need : Need) (pol : Option Word) :
    Except (Nat × Nat) (List Byte × State) := readPieces quad ctx need pol (piecesOf va n) s

def State.writeGlobal (s : State) (quad ctx va : Nat) (bs : List Byte) (pol : Option Word) :
    Except (Nat × Nat) State := writePieces quad ctx pol (piecesOf va bs.length) bs s

/-! The L1 (R245, R282). -/

def Quad.l1Line (q : Quad) (sid line : Nat) : Option L1Line := q.l1.find? fun l => l.sid == sid && l.line == line

/-- A reuse-table load entry dies when a line it read does (R274). -/
def rtKillLine (rt : List RtEntry) (sid line : Nat) : List RtEntry := rt.filter fun e => !e.lines.contains (sid, line)

def Quad.dropLine (q : Quad) (sid line : Nat) : Quad :=
  { q with l1 := q.l1.filter fun l => !(l.sid == sid && l.line == line), rt := rtKillLine q.rt sid line }

def Quad.dropLines (q : Quad) (ls : List (Nat × Nat)) : Quad := ls.foldl (fun q l => q.dropLine l.1 l.2) q

/-- Drop every line that overlaps n bytes from va (R282). -/
def Quad.dropRange (q : Quad) (sid va n : Nat) : Quad :=
  { q with l1 := q.l1.filter fun l => !(l.sid == sid && decide (va < 128 * l.line + 128) && decide (128 * l.line < va + n)),
           rt := q.rt.filter fun e => !e.lines.any fun l => l.1 == sid && decide (va < 128 * l.2 + 128) && decide (128 * l.2 < va + n) }

/-- The reuse entries of loads that read a line that n bytes overlap die (R274). -/
def Quad.killLoads (q : Quad) (sid va n : Nat) : Quad :=
  { q with rt := q.rt.filter fun e => !e.lines.any fun l => l.1 == sid && decide (va < 128 * l.2 + 128) && decide (128 * l.2 < va + n) }

/-- A store of the quadrant updates what is present of the lines it overlaps (R245): of each byte, the bits of a mask. The
load entries of those lines die (R274). -/
def Quad.storeLines (q : Quad) (sid va : Nat) (bs : List (Byte × Byte)) : Quad :=
  let upd (l : L1Line) : L1Line :=
    if l.sid == sid && decide (va < 128 * l.line + 128) && decide (128 * l.line < va + bs.length) then
      { l with data := l.data.zipIdx.map fun p =>
          let a := 128 * l.line + p.2
          if va ≤ a ∧ a < va + bs.length then
            let b := (bs.drop (a - va)).headD (0, 0)
            (p.1 &&& ~~~b.1) ||| (b.2 &&& b.1)
          else p.1 }
    else l
  { q with l1 := q.l1.map upd }.killLoads sid va bs.length

/-- Fill a line from its home; past 2,048 lines (256 KiB) the line filled first is evicted. -/
def Quad.fillLine (q : Quad) (sid line : Nat) (data : List Byte) : Quad :=
  let q := q.dropLine sid line
  let q := { q with l1 := q.l1 ++ [({ sid := sid, line := line, data := data } : L1Line)] }
  match q.l1 with
  | l :: _ => if 2048 < q.l1.length then q.dropLine l.sid l.line else q
  | [] => q

/-- The spaces of a context. -/
def Ctx.spaces (c : Ctx) : List Nat := c.sid :: c.attached.map (·.2)

/-! Runs held since they were fetched (R45). -/

/-- The dies of the logical device of a quadrant, in a context's partition (R27). -/
def State.ldevDies (s : State) (ctx q : Nat) : List Nat :=
  match s.part? (ctx / 16) with
  | none => []
  | some p => (p.ldevs.find? fun ds => ds.contains (dieOf q)).getD []
/-- The quadrants within a scope of an agent (R276); those of scope 4 are its logical device's. -/
def inScope (scope q x : Nat) (dies : List Nat) : Bool :=
  match scope with
  | 0 | 1 => q == x
  | 2 => clusterOf q == clusterOf x
  | 3 => dieOf q == dieOf x
  | 4 => dies.contains (dieOf x)
  | _ => true
/-- Whether a scope of an agent includes a writer (R276). -/
def State.reaches (s : State) (scope k : Nat) (a : Agent) (w : Writer) : Bool :=
  decide (5 ≤ scope) || (w.quad != 2 ^ 32 && match scope with
    | 0 => w.uid == a.uid
    | 1 => w.team == a.team
    | n => inScope n (quadOf k) w.quad (s.ldevDies a.ctx (quadOf k)))

def HeldRun.overlaps (f : HeldRun) (sid va n : Nat) : Bool :=
  f.sid == sid && decide (va < f.va + 8 * f.words.length) && decide (f.va < va + n)
def Writer.same (w x : Writer) : Bool := x.uid == w.uid && x.quad == w.quad
def HeldRun.note (w : Writer) (sid va n : Nat) (f : HeldRun) : HeldRun :=
  if f.overlaps sid va n then { f with wrote := w :: f.wrote.filter fun x => !w.same x } else f
def Quad.mapRuns (f : HeldRun → HeldRun) (q : Quad) : Quad := { q with fetched := q.fetched.map f }
/-- A store to bytes of a space, noted with the runs held that it changes. -/
def State.noteStore (s : State) (w : Writer) (sid va n : Nat) : State :=
  { s with quads := s.quads.map fun (p : Nat × Quad) => (p.1, p.2.mapRuns (HeldRun.note w sid va n)) }
/-- A store of an agent, not yet released. -/
def Agent.writer (k : Nat) (a : Agent) : Writer := { quad := quadOf k, uid := a.uid, team := a.team, grid := a.grid, rel := none }
/-- A store of the host or a peer: it is released for scope 5 when it is made. -/
def outsider : Writer := { quad := 2 ^ 32, uid := 0, team := 0, grid := 0, rel := some 5 }
def HeldRun.release (who : Writer → Bool) (scope : Nat) (f : HeldRun) : HeldRun :=
  { f with wrote := f.wrote.map fun w => if who w then { w with rel := some (max scope (w.rel.getD 0)) } else w }
/-- Some writers release at a scope. -/
def State.releaseFor (s : State) (who : Writer → Bool) (scope : Nat) : State :=
  { s with quads := s.quads.map fun (p : Nat × Quad) => (p.1, p.2.mapRuns (HeldRun.release who scope)) }
def State.released (s : State) (a : Agent) (scope : Nat) : State := s.releaseFor (fun w => w.uid == a.uid && w.quad != 2 ^ 32) scope
/-- An agent that acquires fetches afresh the runs whose stores have been released, at scopes that include both (R45). -/
def State.refetch (s : State) (k scope : Nat) : State :=
  match s.agent? k with
  | none => s
  | some a =>
    let q := s.quad (quadOf k)
    let seen (w : Writer) : Bool := s.reaches scope k a w && match w.rel with | some r => s.reaches r k a w | none => false
    s.setQuad (quadOf k) { q with fetched := q.fetched.filter fun f => !(f.uid == a.uid && f.wrote.all seen) }

/-- A fence of an agent at scope 2 or wider: load entries of its context's lines die on its quadrant (R274). -/
def State.endLoadReuse (s : State) (k ctx scope : Nat) : State :=
  if scope < 2 then s
  else match s.ctx? ctx with
    | none => s
    | some c =>
      let q := s.quad (quadOf k)
      s.setQuad (quadOf k) { q with rt := q.rt.filter (fun e => !e.lines.any fun l => c.spaces.contains l.1) }

/-- An acquire on a quadrant (R281): at scope 2 or wider it invalidates the context's lines. -/
def State.acquireOn (s : State) (quad ctx scope : Nat) : State :=
  if scope < 2 then s
  else match s.ctx? ctx with
    | none => s
    | some c =>
      let q := s.quad quad
      s.setQuad quad { q with
        l1 := q.l1.filter (fun l => !c.spaces.contains l.sid),
        rt := q.rt.filter (fun e => !e.lines.any fun l => c.spaces.contains l.1) }
/-- An acquire of an agent. -/
def State.acquire (s : State) (k ctx scope : Nat) : State := (s.refetch k scope).acquireOn (quadOf k) ctx scope

end Sys2Proof.Machine
end

