-- ==== Sys2Proof/Machine/Record.lean ====
section
/-! DEFINITION. Context records (R378, R379, R389 to R391): a saved team as fields (offset, bytes, value), and what a
record restores. -/

namespace Sys2Proof.Machine

abbrev Fields := List (Nat × Nat × Nat)

def shift (off : Nat) (f : Fields) : Fields := f.map fun x => (off + x.1, x.2)

def rcvCode (r : Option Dword) : Nat := match r with | some a => a.toNat | none => 2 ^ 64 - 1
def rcvOf (n : Nat) : Option Dword := if n = 2 ^ 64 - 1 then none else some (BitVec.ofNat 64 n)
def stCode : SlotSt → Nat
  | .dead => 0
  | .run => 1
  | .wait => 2
def stOf (n : Nat) : SlotSt := match n with | 1 => .run | 2 => .wait | _ => .dead

/-- A slot's 24 bytes (R391). -/
def slotFields (x : PcSlot) : Fields :=
  [(0, 8, x.pc.toNat), (8, 8, rcvCode x.rcv), (16, 4, x.mask.toNat), (20, 1, stCode x.st)]
def slotOf (rd : Nat → Nat → Nat) (o : Nat) : PcSlot :=
  { pc := BitVec.ofNat 64 (rd o 8), rcv := rcvOf (rd (o + 8) 8), mask := word (rd (o + 16) 4), st := stOf (rd (o + 20) 1) }

/-- A divergence-stack entry (R84). -/
def divFields : Div → Fields
  | .join pc mask rcv => [(0, 8, pc.toNat), (8, 8, rcvCode rcv), (16, 4, mask.toNat), (20, 1, 0)]
  | .side x => [(0, 8, x.pc.toNat), (8, 8, rcvCode x.rcv), (16, 4, x.mask.toNat), (20, 1, stCode x.st)]
def divOf (rd : Nat → Nat → Nat) (o : Nat) : Div :=
  let x := slotOf rd o
  if rd (o + 20) 1 = 0 then .join x.pc x.mask x.rcv else .side x

/-- The bits each lane of an access moves. -/
def Access.width (x : Access) : Nat := match x.kind with | .atom _ w _ => w | .cas w => w | _ => x.ew + 1

/-- A store record (R378); a BOINIT's is that of the 8-byte exchange on lane 0: DEDUCED (log 42). -/
def storeFields (x : Access) : Fields :=
  [(0, 8, x.base.toNat), (8, 1, if x.word = 9 then 3 else x.word), (9, 1, x.ew), (10, 1, x.space),
   (11, 1, match x.kind with | .atom op _ _ => op | _ => 0), (12, 4, (x.pol.getD 0).toNat), (16, 4, x.pend.toNat),
   (20, 4, x.faulted.toNat), (24, 1, (x.codes.map (·.2)).foldl (fun a b => if a = 0 then b else min a b) 0)] ++
  x.lanes.flatMap fun l =>
    [(0x80 + 4 * l.lane, 4, lowBits' ((l.bit - 8 * Int.ofNat x.base.toNat) / Int.ofNat x.width)), (0x100 + 8 * l.lane, 8, l.data)]
where
  lowBits' (e : Int) : Nat := (e % (2 ^ 32 : Nat)).toNat

def signed (w n : Nat) : Int := if n < 2 ^ (w - 1) then Int.ofNat n else Int.ofNat n - Int.ofNat (2 ^ w)

/-- A store record restored, its pending lanes to be performed; widths of ATOMN are those of R291. -/
def storeOf (rd : Nat → Nat → Nat) (o id : Nat) : Access :=
  let ew := rd (o + 9) 1
  let kind : AccKind := if rd (o + 8) 1 = 3 then
      .atom (rd (o + 11) 1) (match ew with | 0x0F => 16 | 0x1E => 64 | _ => 32) false else .store
  let w := match kind with | .atom _ w _ => w | _ => ew + 1
  let base := rd o 8
  let faulted := word (rd (o + 20) 4)
  let pend := word (rd (o + 16) 4) &&& ~~~faulted
  let pol := rd (o + 12) 4
  { id, kind, word := rd (o + 8) 1, space := rd (o + 10) 1, ew, base := BitVec.ofNat 64 base,
    pol := if pol = 0 then none else some (word pol),
    lanes := (lanesOf (pend ||| faulted)).map fun i =>
      { lane := i, bit := 8 * Int.ofNat base + Int.ofNat w * signed 32 (rd (o + 0x80 + 4 * i) 4),
        data := rd (o + 0x100 + 8 * i) 8, cmp := 0, value := 0, got := [] },
    todo := pend, pend, faulted, codes := (lanesOf faulted).map fun i => (i, rd (o + 24) 1), dst := none, run := 0, sup := false, told := false, acq := none, l1 := false, memo := none }

/-- A command record (R379): the operand bytes of each command. A command of the open batch bears the number that batch
is to have (R316): DEDUCED (log 42). -/
def cmdFields (batch : Nat) (c : Cmd) : Fields :=
  (match c.kind with
   | .copy desc => desc.zipIdx.map fun p => (p.2, 1, p.1.toNat)
   | .fill dst len pat => [(0, 8, dst), (8, 8, len), (16, 8, pat.toNat)]
   | .clone dst src len => [(0, 8, dst), (8, 8, src), (16, 8, len)]
   | .purge start count free => [(0, 8, start), (8, 8, count), (16, 8, free.toNat)]
   | .lease r d => [(0, 8, r), (8, 8, d)]
   | .send .. => []) ++
  [(0x80, 1, match c.kind with | .copy _ => 0 | .fill .. => 4 | .clone .. => 5 | .purge .. => 6 | .lease .. => 7 | .send .. => 8),
   (0x81, 1, c.acq.toNat + 2 * c.rel.toNat + (match c.fin with | .none => 0 | .arrive _ => 4 | .notify _ => 8)),
   (0x82, 1, c.scope), (0x83, 1, match c.fault with | some f => f.1 | none => 0),
   (0x84, 4, (c.pol.getD 0).toNat), (0x88, 2, c.batch.getD ((batch + 1) % 2 ^ 16)), (0x90, 8, c.aux.toNat)]
def cmdOf (rd : Nat → Nat → Nat) (o id : Nat) : Cmd :=
  let fn := rd (o + 0x80) 1
  let fl := rd (o + 0x81) 1
  let pol := rd (o + 0x84) 4
  { id, kind := match fn with
      | 4 => .fill (rd o 8) (rd (o + 8) 8) (word (rd (o + 16) 4))
      | 5 => .clone (rd o 8) (rd (o + 8) 8) (rd (o + 16) 8)
      | 6 => .purge (rd o 8) (rd (o + 8) 8) (bitAt (rd (o + 16) 1) 0)
      | _ => .copy ((List.range 128).map fun i => byte (rd (o + i) 1)),
    acq := bitAt fl 0, rel := bitAt fl 1, scope := rd (o + 0x82) 1,
    fin := if bitAt fl 2 then .arrive 0 else if bitAt fl 3 then .notify 0 else .none,
    aux := BitVec.ofNat 64 (rd (o + 0x90) 8), pol := if pol = 0 then none else some (word pol),
    batch := some (rd (o + 0x88) 2), fault := some (rd (o + 0x83) 1, 0), told := false, bad := [], got := [], put := [] }

def gangRecBytes : Nat := 0x17000

def sysFields (a : Agent) : Fields :=
  [(0x38, 4, a.flags.toNat), (0x3C, 4, a.warn.toNat), (0x40, 4, a.noreuse.toNat), (0x44, 4, a.stalls.toNat),
   (0x48, 4, a.retired.toNat), (0x4C, 4, a.reused.toNat), (0x50, 4, a.ldreused.toNat)]

def rwptFields (r : RewindPt) : Fields :=
  [(0xA0, 8, r.header.toNat), (0xA8, 8, rcvCode r.rcv), (0xB0, 4, r.mask.toNat),
   (0xB4, 4, r.anchors.length + 16 * r.scalars.length + 65536 * r.sb), (0xB8, 8, r.recipe.toNat), (0xC4, 1, r.blocks.toNat)] ++
  r.anchors.zipIdx.map (fun p => (0xC0 + p.2, 1, p.1)) ++
  r.scalars.zipIdx.map (fun p => (0x100 + 4 * p.2, 4, p.1.toNat)) ++
  r.vecs.zipIdx.flatMap fun p => laneNums.map fun i => (0x200 + 128 * p.2 + 4 * i, 4, (lane p.1 i).toNat)

/-- A save's point for an agent (R37, R287, R378): its stalls are shown, and a write performed is acknowledged, unless a peer
has still to (R288). -/
def State.acked (s : State) (a : Agent) (x : Access) : Access :=
  if x.isWrite && !s.sentBy a.uid x.id then { x with pend := x.todo } else x
def State.settled (s : State) (a : Agent) : Agent :=
  let a := a.showStalls s.fresh
  { a with accs := (a.accs.map (s.acked a)).filter fun x => !(x.isWrite && x.pend == 0 && x.faulted == 0) }
def State.settleTeam (s : State) (t : Team) : State :=
  (s.teamAgents t).foldl (fun s p => { s.setAgent p.1 (s.settled p.2) with fresh := s.fresh + 1 }) s

/-- What a save keeps of an agent beside its record: see Kept. The record numbers its store records from 0 and its command
records from 64; the parked loads follow from 128. -/
def Agent.kept (gang : Nat) (refused : List (Nat × Nat)) (a : Agent) : Kept :=
  let ws := a.accs.filter Access.isWrite
  let ls := a.accs.filter Access.parked
  let num (id : Nat) : Nat := match ws.findIdx? (·.id == id), a.cmds.findIdx? (·.id == id), ls.findIdx? (·.id == id) with
    | some i, _, _ => i
    | _, some i, _ => 64 + i
    | _, _, some i => 128 + i
    | _, _, _ => 255
  { gang, uid := a.uid, loads := ls.zipIdx.map fun p => { p.1 with id := 128 + p.2, run := 0 }, report := a.frame.report.map num, code := a.frame.code,
    epcWritten := a.frame.epcWritten, replayed := a.frame.replayed, sups := (ws.filter (·.sup)).map fun x => num x.id,
    told := (ws.filter (·.told)).map (fun x => num x.id) ++ (a.cmds.filter (·.told)).map (fun c => num c.id),
    faults := a.cmds.filterMap fun c => c.fault.map fun f => (num c.id, f.2, c.bad), refused, late := [] }
/-- And what the resumed agent takes of it. -/
def Agent.keep (a : Agent) (x : Kept) : Agent :=
  { a with
    accs := a.accs.map (fun y => { y with sup := x.sups.contains y.id, told := x.told.contains y.id }) ++ x.loads ++
      x.late.zipIdx.map fun p => { p.1 with id := 256 + p.2 }
    cmds := a.cmds.map fun c =>
      let c := { c with told := x.told.contains c.id }
      match x.faults.find? fun f => f.1 == c.id with
      | some f => { c with fault := c.fault.map fun g => (g.1, f.2.1), bad := f.2.2 }
      | none => c
    frame := { a.frame with report := x.report, code := x.code, epcWritten := x.epcWritten, replayed := x.replayed }
    ids := 256 + x.late.length }

def hdrField (a : Agent) (rewind : Bool) : Nat × Nat × Nat :=
  (0, 4, a.gang + 256 * a.regs + 2 ^ 16 * a.blocks.toNat + 2 ^ 19 * a.sv.toNat + 2 ^ 20 * a.rewindable.toNat + 2 ^ 21 * rewind.toNat)

/-- The records of an agent's writes and commands, and their counts with BATCH (R378, R379, R391). -/
def engFields (a : Agent) : Fields :=
  [(0x54, 2, a.batch), (0x56, 1, (a.accs.filter Access.isWrite).length), (0x57, 1, a.cmds.length)] ++
  (a.accs.filter Access.isWrite).zipIdx.flatMap (fun p => shift (0x9000 + 0x200 * p.2) (storeFields p.1)) ++
  a.cmds.zipIdx.flatMap (fun p => shift (0x11000 + 0x100 * p.2) (cmdFields a.batch p.1))
/-- The uniform registers and predicates. -/
def uniFields (a : Agent) : Fields :=
  a.sreg.map (fun p => (0x400 + 4 * p.1, 4, p.2.toNat)) ++ [(0xC20, 1, a.qreg.toNat)]

/-- A sequencer record (R389): slot 0 is its PC, and the fields with no meaning for it are zero. -/
def seqFields (a : Agent) : Fields :=
  (0, 4, 2 ^ 19 * a.sv.toNat) :: sysFields a ++ [(8, 8, a.slot0.pc.toNat)] ++ engFields a ++ uniFields a

/-- A gang record (R391), in rewind form or in full. -/
def gangFields (a : Agent) (rewind : Bool) : Fields :=
  hdrField a rewind :: sysFields a ++ (match a.rwpt with | some r => rwptFields r | none => []) ++
  if rewind then []
  else
    [(4, 4, a.stack.length + 65536 * a.frame.depth)] ++ shift 8 (slotFields a.slot0) ++ shift 0x20 (slotFields a.slot1) ++
    engFields a ++ uniFields a ++
    [(0x58, 4, a.cG), (0x60, 4, a.frame.cause.toNat), (0x64, 4, a.frame.tdetail.toNat), (0x68, 8, a.frame.epc.toNat), (0x70, 4, a.frame.fmask.toNat)] ++
    shift 0x78 (slotFields a.frame.tslot) ++
    a.preg.map (fun p => (0xC00 + 4 * p.1, 4, p.2.toNat)) ++ [(0xC1C, 4, 2 ^ 32 - 1)] ++
    (if a.sv then shift 0xC40 (slotFields a.frame.susp) else []) ++
    a.vreg.flatMap (fun p => laneNums.map fun i => (0x1000 + 128 * p.1 + 4 * i, 4, (lane p.2 i).toNat)) ++
    a.stack.reverse.zipIdx.flatMap fun p => shift (0x15000 + 32 * p.2) (divFields p.1)

/-- Record bytes of a team (R389). -/
def Team.recordBytes (t : Team) : Nat := 0x1000 + gangRecBytes * (t.gangs + 2) + t.csize + t.gangs * 32 * 256 * t.lsgran

/-- Whether a gang is saved in rewind form (R387): a parked load's trap comes before it. -/
def Agent.savesRewind (a : Agent) : Bool :=
  a.rewindable && a.rwpt.isSome && a.usc == 0 && a.heldCount == 0 && !a.accs.any Access.parked

/-- The team header (R390). -/
def headerFields (s : State) (t : Team) (g : Option Grid) : Fields :=
  let q := s.quad t.quad
  let ctx := match g with | some g => g.ctx | none => 0
  [(0, 4, 0x5445414D), (4, 2, 1), (6, 1, t.gangs),
   (7, 1, t.engines.toNat + 2 * (decide (t.edges ≠ 0)).toNat + 4 * t.matrix.toNat + 8 * t.mRun.toNat + 16 * t.dRun.toNat),
   (8, 8, t.recordBytes), (0x10, 8, t.krec), (0x18, 4, t.grid), (0x1C, 4, t.index),
   (0x20, 1, match g with | some g => g.depth | none => 0), (0x21, 1, t.edges), (0x22, 2, t.quad), (0x24, 4, t.csize),
   (0x28, 2, t.lsgran), (0x30, 4, t.cM), (0x34, 4, t.cD)] ++
  (List.range 15).flatMap fun i =>
    match tabGet q.bind (16 * ctx + i + 1) with
    | none => []
    | some im => [(0x100 + 80 * i, 4, im.gen), (0x104 + 80 * i, 2, im.fid), (0x106 + 80 * i, 1, 1), (0x110 + 80 * i, 64, im.digest)]

def cmemKey (q off : Nat) : Nat := clusterOf q * 2 ^ 32 + off
def lmemKey (q off : Nat) : Nat := q * 2 ^ 32 + off

/-- The whole team record; `full` forces the full form of every gang (Compline, R393). -/
def teamFields (s : State) (t : Team) (full : Bool) : Fields :=
  let part (p : Nat × Agent) : Fields :=
    if isMseq p.1 then shift (0x1000 + gangRecBytes * t.gangs) (seqFields p.2)
    else if isDseq p.1 then shift (0x1000 + gangRecBytes * (t.gangs + 1)) (seqFields p.2)
    else shift (0x1000 + gangRecBytes * p.2.gang) (gangFields p.2 (!full && p.2.savesRewind))
  headerFields s t (s.grid? t.grid) ++ (s.teamAgents t).flatMap part ++
  (let b := 0x1000 + gangRecBytes * (t.gangs + 2)
   (List.range t.csize).map (fun i => (b + i, 1, (s.cmem.read (cmemKey t.quad (t.cbase + i))).toNat)) ++
   t.lbase.zipIdx.flatMap fun p => (List.range (32 * 256 * t.lsgran)).map fun i =>
     (b + t.csize + 32 * 256 * t.lsgran * p.2 + i, 1, (s.lmem.read (lmemKey t.quad (p.1 + i))).toNat))

/-- The record as bytes, from its fields. -/
def fieldBytes (n : Nat) (f : Fields) : List Byte :=
  let m := f.foldl (fun (m : Memory) x => m.writeNat x.1 x.2.1 x.2.2) []
  m.readBytes 0 n

/-- What every agent's record restores (R76, R391): its supervisor mode, FLAGS, WARN, MODE and counters. -/
def bareOf (rd : Nat → Nat → Nat) : Agent :=
  { Agent.start with
    sv := bitAt (rd 0 4) 19, flags := BitVec.ofNat 6 (rd 0x38 4), warn := bitAt (rd 0x3C 4) 0, noreuse := bitAt (rd 0x40 4) 0,
    stalls := word (rd 0x44 4), retired := word (rd 0x48 4), reused := word (rd 0x4C 4), ldreused := word (rd 0x50 4) }

/-- What a full record restores of an agent: its registers, its store records, its commands; a saved batch stays faulted. -/
def Agent.restoreFrom (a : Agent) (rd : Nat → Nat → Nat) : Agent :=
  let a := (List.range 512).foldl (fun a n => a.setS n (word (rd (0x400 + 4 * n) 4))) a
  let stores := (List.range (rd 0x56 1)).map fun i => storeOf rd (0x9000 + 0x200 * i) i
  let next := (rd 0x54 2 + 1) % 2 ^ 16
  let saved := (List.range (rd 0x57 1)).map fun i => cmdOf rd (0x11000 + 0x100 * i) (64 + i)
  let cmds := saved.map fun (c : Cmd) => if c.batch = some next then { c with batch := none } else c
  let batches := (cmds.filterMap (·.batch)).eraseDups
  { a with
    qreg := BitVec.ofNat 8 (rd 0xC20 1) ||| 0x80#8, batch := rd 0x54 2,
    accs := stores, restoring := stores.any (fun x => x.todo != 0), ids := 256, cmds
    open_ := (cmds.filter fun c => c.batch.isNone).map (·.id)
    closed := batches.map fun b => (b, (cmds.filter fun c => c.batch == some b).map (·.id)) }

/-- A sequencer as its record restores it (R389, R392). -/
def seqOf (rd : Nat → Nat → Nat) : Agent :=
  { (bareOf rd).restoreFrom rd with slot0 := { pc := BitVec.ofNat 64 (rd 8 8), mask := BitVec.allOnes 32, rcv := none, st := .run } }

/-- A gang as its record restores it (R388, R391, R392). The record does not say which slot was selected last: slot 0, unless
it is dead (DESIGN CHOICE, log 77). -/
def agentOf (rd : Nat → Nat → Nat) : Agent :=
  let hdr := rd 0 4
  let x := rd 0xB4 4
  let nv := field x 0 3
  let ns := field x 4 5
  let sb := field x 16 7
  let vec (o : Nat) : LaneVec := laneFn fun i => word (rd (o + 4 * i) 4)
  let rwpt : RewindPt :=
    { header := BitVec.ofNat 64 (rd 0xA0 8), rcv := rcvOf (rd 0xA8 8), mask := word (rd 0xB0 4),
      recipe := BitVec.ofNat 64 (rd 0xB8 8), anchors := (List.range nv).map fun i => rd (0xC0 + i) 1, names := [],
      vecs := (List.range nv).map fun i => vec (0x200 + 128 * i), sb,
      scalars := (List.range ns).map fun i => word (rd (0x100 + 4 * i) 4), blocks := BitVec.ofNat 3 (rd 0xC4 1) }
  let a := { bareOf rd with
    gang := field hdr 0 4, regs := field hdr 8 8, blocks := BitVec.ofNat 3 (field hdr 16 3), rewindable := bitAt hdr 20 }
  if bitAt hdr 21 then
    let a := { a with blocks := rwpt.blocks, slot0 := { pc := rwpt.recipe, mask := rwpt.mask, rcv := rwpt.rcv, st := .run }, rwpt := some rwpt }
    let a := (rwpt.anchors.zip rwpt.vecs).foldl (fun a p => a.setV p.1 p.2) a
    let a := rwpt.scalars.zipIdx.foldl (fun a p => a.setS (4 * rwpt.sb + p.2) p.1) a
    a.setPair 494 rwpt.header
  else
    let s0 := slotOf rd 8
    let fr : Frame := { Frame.empty with
      cause := word (rd 0x60 4), tdetail := word (rd 0x64 4), epc := BitVec.ofNat 64 (rd 0x68 8), fmask := word (rd 0x70 4),
      tslot := slotOf rd 0x78, susp := if a.sv then slotOf rd 0xC40 else deadSlot, depth := field (rd 4 4) 16 9,
      which := s0.st == .dead }
    let a := a.restoreFrom rd
    let a := (List.range 7).foldl (fun a n => a.setP (BitVec.ofNat 3 n) (word (rd (0xC00 + 4 * n) 4))) a
    let a := (List.range 256).foldl (fun a n => a.setV n (vec (0x1000 + 128 * n))) a
    { a with
      slot0 := s0, slot1 := slotOf rd 0x20, which := s0.st == .dead, last := s0.st == .dead,
      frame := fr, cG := rd 0x58 4, rwpt := if bitAt hdr 20 then some rwpt else none,
      stack := ((List.range (field (rd 4 4) 0 9)).map fun i => divOf rd (0x15000 + 32 * i)).reverse }

end Sys2Proof.Machine
end

