-- ==== Sys2Proof/Machine/Commands.lean ====
section
/-! DEFINITION. Engine commands as their elements (R307 to R309, R313, R320, R321), and how far one has come. -/

namespace Sys2Proof.Machine

/-! Bits in bytes (R2). -/

/-- The bytes an element of w bits at bit position b touches: the first, and how many. -/
def firstByte (b : Int) : Nat := (b / 8).toNat
def byteSpan (b : Int) (w : Nat) : Nat := ((b % 8).toNat + w + 7) / 8
/-- Byte j of an element: its first bit and width, and where it starts in the element. -/
def bytePart (b : Int) (w j : Nat) : Int × Nat × Nat :=
  let lo := max b (8 * (b / 8 + Int.ofNat j))
  let hi := min (b + Int.ofNat w) (8 * (b / 8 + Int.ofNat j) + 8)
  (lo, (hi - lo).toNat, (lo - b).toNat)

/-! The copy descriptor (R307, R308). -/

def descNum (d : List Byte) (off n : Nat) : Nat := natOfBytes ((d.drop off).take n)
def copyCtl (d : List Byte) : Nat := descNum d 0x10 4
def copySpace (d : List Byte) (dst : Bool) : Nat := field (copyCtl d) (if dst then 2 else 0) 2
def copyBase (d : List Byte) (dst : Bool) : Nat := descNum d (if dst then 8 else 0) 8
def copyWidth (d : List Byte) : Nat := field (copyCtl d) 4 5 + 1
def copyDims (d : List Byte) : Nat := field (copyCtl d) 9 4
def copyUnits (d : List Byte) : Nat := field (copyCtl d) 16 15
def copyExt (d : List Byte) (i : Nat) : Nat := descNum d (0x14 + 12 * i) 4
def copyStride (d : List Byte) (dst : Bool) (i : Nat) : Int := signed 32 (descNum d (0x14 + 12 * i + if dst then 8 else 4) 4)

/-- The limits whose breach is reason 0x14 (R309). -/
def copyBad (d : List Byte) : Bool :=
  let c := copyCtl d
  let nd := copyDims d
  copySpace d false == 3 || copySpace d true == 3 || field c 4 5 == 0 || nd == 0 || decide (9 < nd) || field c 13 3 != 0 ||
    bitAt c 31 || (d.drop (0x14 + 12 * nd)).any fun b => b != 0

def copyEmpty (d : List Byte) : Bool := (List.range (copyDims d)).any fun i => copyExt d i == 0

/-- The lowest and one past the highest bit a side touches, from its base's bit (R309). -/
def copyRange (d : List Byte) (dst : Bool) : Int × Int :=
  (List.range (copyDims d)).foldl (fun r i =>
    let span := Int.ofNat (copyWidth d) * (Int.ofNat (copyExt d i) - 1) * copyStride d dst i
    (r.1 + min 0 span, r.2 + max 0 span)) (0, Int.ofNat (copyWidth d))

/-- Every element's source and destination bit offsets, dimension 0 innermost (R313). -/
def copyElems (d : List Byte) : Nat → List (Int × Int)
  | 0 => [(0, 0)]
  | n + 1 =>
    let w := Int.ofNat (copyWidth d)
    (List.range (copyExt d n)).flatMap fun j => (copyElems d n).map fun e =>
      (e.1 + w * Int.ofNat j * copyStride d false n, e.2 + w * Int.ofNat j * copyStride d true n)

/-! Elements. -/

/-- An element of a command: its width, and its first bits from the bases of its source and destination. -/
structure Elem where
  w : Nat
  src : Int
  dst : Int
  deriving DecidableEq, Repr

/-- A command's elements in iteration order: those of a copy, the words of a fill or a clone, the bytes of a message. -/
def CmdKind.elems : CmdKind → List Elem
  | .copy d => (copyElems d (copyDims d)).map fun e => { w := copyWidth d, src := e.1, dst := e.2 }
  | .fill _ n _ | .clone _ _ n => (List.range (n / 4)).map fun i => { w := 32, src := 32 * Int.ofNat i, dst := 32 * Int.ofNat i }
  | .send _ _ n .. => (List.range n).map fun i => { w := 8, src := 8 * Int.ofNat i, dst := 0 }
  | _ => []
/-- The space and base of a side; a fill has no source, a send no destination. -/
def CmdKind.side (kind : CmdKind) (dst : Bool) : Option (Nat × Nat) :=
  match kind with
  | .copy d => some (copySpace d dst, copyBase d dst)
  | .fill a _ _ => if dst then some (0, a) else none
  | .clone a b _ => some (0, if dst then a else b)
  | .send sp a .. => if dst then none else some (sp, a)
  | _ => none

/-! Progress: the bytes read and written, each an access of its own (R277, R314). -/

def Elem.off (e : Elem) (dst : Bool) : Int := if dst then e.dst else e.src
def Elem.bytes (e : Elem) (dst : Bool) : List Nat := List.range (byteSpan (e.off dst) e.w)
def Cmd.did (c : Cmd) (dst : Bool) (i j : Nat) : Bool :=
  if dst then c.put.contains (i, j) else c.got.any fun g => g.1 == i && g.2.1 == j
/-- All, or some, of an element's bytes are read or written; a command with no source has nothing to read. -/
def Cmd.all (c : Cmd) (dst : Bool) (i : Nat) (e : Elem) : Bool :=
  (c.kind.side dst).isNone || (e.bytes dst).all fun j => c.did dst i j
def Cmd.some_ (c : Cmd) (dst : Bool) (i : Nat) (e : Elem) : Bool := (e.bytes dst).any fun j => c.did dst i j
/-- What an element writes: what was read, or the pattern. -/
def Cmd.value (c : Cmd) (i : Nat) (e : Elem) : Nat :=
  match c.kind with
  | .fill _ _ pat => pat.toNat
  | _ => (c.got.filter fun g => g.1 == i).foldl (fun v g => v + g.2.2.toNat * 2 ^ (bytePart e.src e.w g.2.1).2.2) 0
/-- The parts still to perform, in iteration order: written or read, the element, the byte. -/
def Cmd.left (c : Cmd) : List (Bool × Nat × Nat) :=
  c.kind.elems.zipIdx.flatMap fun p =>
    [false, true].flatMap fun dst =>
      if (c.kind.side dst).isNone then [] else ((p.1.bytes dst).filter fun j => !c.did dst p.2 j).map fun j => (dst, p.2, j)
def Cmd.mark (c : Cmd) (dst : Bool) (i j : Nat) (v : Byte) : Cmd :=
  if dst then { c with put := (i, j) :: c.put } else { c with got := (i, j, v) :: c.got }

/-- What a send has read of its payload. -/
def Cmd.payload (c : Cmd) (n : Nat) : List Byte :=
  (List.range n).map fun i => match c.got.find? fun g => g.1 == i with | some g => g.2.2 | none => 0

/-- A command that keeps its gang (R102, R306): it has a cluster or lane side to write, or still to read; a message on its
way to the transport does too. -/
def Cmd.keepsGang (c : Cmd) : Bool :=
  c.fault.isNone && match c.kind with
  | .copy d => copySpace d true != 0 || (copySpace d false != 0 && !(c.kind.elems.zipIdx.all fun p => c.all false p.2 p.1))
  | .send .. => true
  | _ => false

end Sys2Proof.Machine
end

