-- ==== Sys2Proof/Machine/ValueStore.lean ====
section
/-! DEFINITION. The value store and the reuse table (R110 to R120): names, counts, placement by content, and what
a hit changes. Registers hold their values in Agent.vreg; Agent.names holds the name of each (unlisted: 0x000). -/

namespace Sys2Proof.Machine

/-- The set of a value (R111). -/
def vsSet (v : LaneVec) : Nat :=
  let x := laneNums.foldl (fun a i => a ^^^ (lane v i).toNat) 0
  field x 0 9 ^^^ field x 9 9 ^^^ field x 18 9 ^^^ field x 27 5

def vsFree : VsEntry := { value := laneZero, tag := 0, count := 0, freed := 0, found := false, gen := 0 }
/-- An entry (R110): an unlisted one is free since the reset, but for entry 0x001, the lane-index vector. -/
def Quad.entry (q : Quad) (e : Nat) : VsEntry := mapGet (if e = 1 then { vsFree with value := laneIndex } else vsFree) q.vs e
def Quad.setEntry (q : Quad) (e : Nat) (x : VsEntry) : Quad := { q with vs := mapSet vsFree q.vs e x }
/-- The ways of a set (R111). That entries 8·st to 8·st + 7 form set st, and that the permanent entries 0x000 and 0x001 take two
ways of set 0, is DESIGN CHOICE (log 79): the spec numbers no ways. -/
def setWays (st : Nat) : List Nat := ((List.range 8).map (8 * st + ·)).filter (2 ≤ ·)

/-- The entry that became free longest ago (R112); of several free since the reset, the first of the list, the
lowest-numbered: DESIGN CHOICE (log 66). -/
def Quad.oldestFree (q : Quad) (es : List Nat) : Option Nat :=
  es.foldl (init := none) fun best e =>
    if (q.entry e).count = 0 then
      match best with
      | none => some e
      | some b => if (q.entry e).freed < (q.entry b).freed then some e else some b
    else best

/-- Allocate entry e (R112): its reuse-table entries die by the new generation (R118). -/
def Quad.allocate (q : Quad) (e : Nat) (v : LaneVec) (tag : Nat) (found : Bool) : Quad :=
  q.setEntry e { value := v, tag, count := 1, freed := 0, found, gen := (q.entry e).gen + 1 }

/-- Allocate a free entry for a value: a way of its set where one is free, else from the overflow region (R111, R112). -/
def Quad.takeFree (q : Quad) (tag : Nat) (v : LaneVec) : Nat × Quad :=
  match q.oldestFree (setWays (vsSet v)) with
  | some e => (e, q.allocate e v tag true)
  | none =>
    let e := (q.oldestFree ((List.range 4096).filter fun e => 2 ≤ e && e / 8 != vsSet v)).getD 0
    (e, q.allocate e v tag false)

/-- Place a value by content (R111). Where several ways match ("some way w") the lowest is taken: DESIGN CHOICE (log 66). -/
def Quad.place (q : Quad) (tag : Nat) (v : LaneVec) : Nat × Quad :=
  if v = laneZero then (0, q)
  else if v = laneIndex then (1, q)
  else
    let ways := setWays (vsSet v)
    match ways.find? fun e => (q.entry e).found && (q.entry e).tag == tag && decide ((q.entry e).value = v) && decide ((q.entry e).count < 255) with
    | some e => (e, q.setEntry e { q.entry e with count := (q.entry e).count + 1 })
    | none => q.takeFree tag v

/-- One reference to a name goes (R112). -/
def Quad.release (q : Quad) (e : Nat) : Quad :=
  if e < 2 then q
  else
    let x := q.entry e
    if x.count = 1 then { q.setEntry e { x with count := 0, freed := q.vclock + 1 } with vclock := q.vclock + 1 }
    else q.setEntry e { x with count := x.count - 1 }

def Agent.name (a : Agent) (n : Nat) : Nat := mapGet 0 a.names n

/-- Write a full value to a vector register: the value, its name, the old name's reference (R111). -/
def State.writeV (s : State) (k : Nat) (a : Agent) (n : Nat) (v : LaneVec) : State :=
  let (e, q) := (s.quad (quadOf k)).place a.ctx v
  let q := q.release (a.name n)
  (s.setQuad (quadOf k) q).setAgent k { a.setV n v with names := mapSet 0 a.names n e }

/-- One more reference to a name, by a move or a pin: an entry at 255 is copied to a fresh one with count 1 (R111). -/
def Quad.pin (q : Quad) (tag e : Nat) : Nat × Quad :=
  if e < 2 then (e, q)
  else if (q.entry e).count < 255 then (e, q.setEntry e { q.entry e with count := (q.entry e).count + 1 })
  else q.takeFree tag (q.entry e).value

/-- A register takes a name that holds its value (R111): VMOV of a whole register, a reuse hit, VRDI with all lanes. -/
def State.nameV (s : State) (k : Nat) (a : Agent) (n : Nat) (v : LaneVec) (e : Nat) : State :=
  let (f, q) := (s.quad (quadOf k)).pin a.ctx e
  let q := q.release (a.name n)
  (s.setQuad (quadOf k) q).setAgent k { a.setV n v with names := mapSet 0 a.names n f }

/-- Every name of a list of registers is released and the registers hold zero (R108, R122). -/
def Agent.clearRegs (a : Agent) (ns : List Nat) : Agent :=
  { a with vreg := a.vreg.filter (fun p => !ns.contains p.1), names := a.names.filter (fun p => !ns.contains p.1) }
def Quad.releaseRegs (q : Quad) (a : Agent) (ns : List Nat) : Quad :=
  ns.foldl (fun q n => q.release (a.name n)) q
def blockRegs (b : Nat) : List Nat := (List.range 64).map (64 * b + 64 + ·)
def allRegs : List Nat := List.range 256

/-- FLASH pins its anchors' names (R103): the names pinned, and the quadrant. -/
def Quad.pinAll (q : Quad) (tag : Nat) : List Nat → List Nat × Quad
  | [] => ([], q)
  | e :: es =>
    let (f, q) := q.pin tag e
    let (fs, q) := q.pinAll tag es
    (f :: fs, q)
/-- A restored rewind point's anchors are placed afresh, by content (R112, R113). -/
def Quad.placeAll (q : Quad) (tag : Nat) : List LaneVec → List Nat × Quad
  | [] => ([], q)
  | v :: vs =>
    let (e, q) := q.place tag v
    let (es, q) := q.placeAll tag vs
    (e :: es, q)
def Quad.unpin (q : Quad) (a : Agent) : Quad :=
  match a.rwpt with
  | none => q
  | some r => r.names.foldl (fun q e => q.release e) q
/-- Everything a gang names goes (R112), and the runs it has fetched. -/
def Quad.releaseAll (q : Quad) (a : Agent) : Quad :=
  let q := (q.releaseRegs a allRegs).unpin a
  { q with fetched := q.fetched.filter fun f => f.uid != a.uid }

/-! The reuse table (R115 to R118). -/

/-- The name and generation a key holds for a source. -/
def Quad.dep (q : Quad) (e : Nat) : Nat × Nat := (e, (q.entry e).gen)

def RtEntry.alive (q : Quad) (e : RtEntry) : Bool := e.deps.all fun d => (q.entry d.1).gen == d.2

/-- A live entry with this key, whose result and flags are those an execution gives: in every state a run reaches an entry
with the key has them (R119). -/
def Quad.rtFind (q : Quad) (ctx : Nat) (key : List Nat) (v : LaneVec) (fl : Flags) : Option RtEntry :=
  q.rt.find? fun e => e.ctx == ctx && decide (e.key = key) && e.alive q && decide ((q.entry e.result).value = v) && decide (e.flags = fl)

/-- Record an entry; past 1,024 the oldest goes. -/
def Quad.rtRecord (q : Quad) (e : RtEntry) : Quad :=
  { q with rt := (e :: q.rt.filter (fun x => !(x.ctx == e.ctx && decide (x.key = e.key)))).take 1024 }

/-- What makes a word eligible: its key beyond the mask and old destination (R115, R146), and the slots it names. -/
structure Reuse where
  word : Nat
  extra : List Nat
  slots : List Nat
  deriving DecidableEq, Repr

def Agent.srcKey (a : Agent) : Operand → List Nat
  | .v n => [0, a.name n.toNat]
  | .t n => [1, n.toNat]
  | .b n => [2, (a.s n.toNat).toNat]

/-- Whether a word is looked up and recorded at all (R116, R117). -/
def Agent.reuses (a : Agent) (nr : Bool) (srcs : List Operand) (dst : VDst) : Bool :=
  !nr && !(match a.run with | some r => r.noreuse || r.fallback | none => a.noreuse) &&
  (srcs.all fun o => match o with | .t _ => false | _ => true) && (match dst with | .v _ => true | .t _ => false)

/-- The key of R115. -/
def reuseKey (a : Agent) (r : Reuse) (srcs : List Operand) (mask : Mask) (dst : Nat) : List Nat :=
  r.word :: mask.toNat :: (if mask = BitVec.allOnes 32 then 0 else a.name dst + 1) :: (r.slots ++ srcs.flatMap a.srcKey ++ r.extra)

/-- The entries a word's key names: its sources, and the old destination under a partial mask (R115, R118). -/
def reuseDeps (q : Quad) (a : Agent) (srcs : List Operand) (mask : Mask) (dst : Nat) : List (Nat × Nat) :=
  ((srcs.filterMap fun o => match o with | .v n => some (a.name n.toNat) | _ => none) ++
    if mask = BitVec.allOnes 32 then [] else [a.name dst]).map q.dep

/-- Look the word up before it executes: the name it hits, and the state that made the choice. The table's replacement may
have taken the entry at any time (R115), so the hit is free. -/
def State.reuseHit (s : State) (k : Nat) (a : Agent) (key : List Nat) (v : LaneVec) (fl : Flags) : Option Nat × State :=
  match (s.quad (quadOf k)).rtFind a.ctx key v fl with
  | none => (none, s)
  | some e => (if s.choose.1 then some e.result else none, s.choose.2)

/-- Record the word after it executed (R116): its key, the entries it names, the result in register dst and the flags. -/
def State.reuseRecord (s : State) (k : Nat) (m : Memo) (slots : List Nat) (dst : Nat) (fl : Flags) (lines : List (Nat × Nat)) : State :=
  match s.agent? k with
  | none => s
  | some a =>
    let q := s.quad (quadOf k)
    s.setQuad (quadOf k) (q.rtRecord { ctx := a.ctx, key := m.key, deps := q.dep (a.name dst) :: m.deps, slots, lines, result := a.name dst, flags := fl })

end Sys2Proof.Machine
end

