-- ==== Sys2Proof/Machine/Ops.lean ====
section
/-! DEFINITION. The named operations of the machine: taking an exception and returning from one, stopping a team,
ending a gang, granting register blocks, and the frames of a vector word and of a uniform word. -/

namespace Sys2Proof.Machine

/-! Growth of register blocks (R114, R124). -/

def Agent.blockCount (a : Agent) : Nat := (List.range 3).foldl (fun n i => if a.blocks.getLsbD i then n + 1 else n) 0
def Agent.reservation (a : Agent) : Nat := a.regs + 64 * a.blockCount + 4
/-- The gangs on a quadrant: everything resident that is no sequencer. -/
def State.gangsOn (s : State) (q : Nat) : List (Nat × Agent) :=
  s.agents.filter fun p => p.1 < orphanBase && quadOf p.1 == q && !isSeq p.1
/-- Free admission capacity: 3,902 entries and the growth reserve, less what is reserved (R114). -/
def State.freeEntries (s : State) (q : Nat) : Nat :=
  3966 - (s.gangsOn q).foldl (fun n p => n + p.2.reservation) 0 - (s.quad q).reserve

def Agent.growing (a : Agent) : Option Nat := match a.block with | .grow b => some b | _ => none
/-- The oldest gang blocked in GROW.B: in order of admission, gangs admitted together by gang index (R124). -/
def State.oldestGrow (s : State) (q : Nat) : Option (Nat × Agent × Nat) :=
  (s.gangsOn q).foldl (init := none) fun best p =>
    match p.2.growing with
    | none => best
    | some b => match best with
      | none => some (p.1, p.2, b)
      | some x => if p.2.age < x.2.1.age || (p.2.age == x.2.1.age && decide (p.2.gang < x.2.1.gang)) then some (p.1, p.2, b) else some x

/-- A granted block's registers hold the zero vector (R108, R122). -/
def Agent.grant (a : Agent) (b : Nat) : Agent :=
  { a.clearRegs (blockRegs b) with blocks := a.blocks ||| (1#3 <<< b), block := .none }

/-- Grants of R124, oldest first, from the full reserve or from free capacity; fuel counts gangs. -/
def growGrants : Nat → Nat → State → State
  | 0, _, s => s
  | f + 1, q, s =>
    match s.oldestGrow q with
    | none => s
    | some (k, a, b) =>
      let x := s.quad q
      if x.reserve = 64 then growGrants f q ((s.setQuad q { x with reserve := 0 }).setAgent k (a.grant b))
      else if 64 ≤ s.freeEntries q then growGrants f q (s.setAgent k (a.grant b))
      else s

/-- n entries have been freed: they refill the reserve first, then grants follow (R124). -/
def State.freedCapacity (s : State) (q n : Nat) : State :=
  let x := s.quad q
  growGrants 49 q (s.setQuad q { x with reserve := x.reserve + min (64 - x.reserve) n })

/-! The grid's errors (R394). -/

def ErrRec.first (kind gang quad team cause tdetail fmask epc faddr capt : Nat) : ErrRec :=
  { count := 1, kind, gang, quad, team, cause, tdetail, fmask, epc, faddr, capt }

/-- Record an error: only the first is described (R394). -/
def State.gridError (s : State) (g : Nat) (e : ErrRec) : State :=
  match s.grid? g with
  | none => s
  | some x => s.setGrid g { x with errRec := match x.errRec with
      | none => some e
      | some o => some { o with count := min (o.count + 1) (2 ^ 32 - 1) } }

/-- The lanes with the lowest code of a faulted access, and that code (R255, R374). -/
def Access.report (x : Access) : Nat × Mask :=
  let code := x.codes.foldl (fun a b => if a = 0 then b.2 else min a b.2) 0
  (code, maskFn fun i => x.codes.any fun c => c.1 == i && c.2 == code)
/-- The address of the lowest of those lanes. -/
def Access.faultAddr (x : Access) : Nat :=
  let m := x.report.2
  match x.lanes.find? fun l => m.getLsbD l.lane with
  | some l => (l.bit / 8).toNat
  | none => 0

/-- TDETAIL of MEM (R370): code, kind, and the held faulted records. -/
def memDetail (a : Agent) (code kind : Nat) : Nat := code + 256 * kind + 65536 * min a.heldCount 255
/-- An agent's place in its team, as R394 numbers it. -/
def gangCode (k : Nat) (a : Agent) : Nat := if isMseq k then 0x10 else if isDseq k then 0x11 else a.gang
/-- When its agent ends, a held store fault nobody has been told of, and every faulted command, is an error of the grid
(R102, R315). -/
def State.untold (s : State) (k : Nat) (a : Agent) : State :=
  let put (kind code fmask faddr : Nat) (s : State) : State :=
    s.gridError a.grid (ErrRec.first kind (gangCode k a) (quadOf k) a.tindex 9
      (memDetail a code kind) fmask 0 faddr 0)
  let s := (a.heldStores.filter fun x => !x.told).foldl (fun s x => put 2 x.report.1 x.report.2.toNat x.faultAddr s) s
  a.heldCmds.foldl (fun s c => put 3 (c.fault.getD (0, 0)).1 0 (c.fault.getD (0, 0)).2 s) s
/-! Ends (R102, R303). -/

/-- What goes on after an agent has left: its stores in flight and its commands. -/
def Agent.orphan (k : Nat) (a : Agent) : Agent :=
  { Agent.start with
    uid := a.uid, team := a.team, grid := a.grid, tindex := a.tindex, gang := gangCode k a, ctx := a.ctx,
    accs := a.accs.filter fun x => x.isWrite && !x.heldRec, cmds := a.cmds, ended := true }
/-- The agent leaves its place; what goes on of it, if anything, takes an orphan's number. -/
def State.leaveBehind (s : State) (k : Nat) (o : Agent) : State :=
  if o.accs = [] && o.cmds = [] then s.delAgent k else (s.delAgent k).setAgent (orphanKey (quadOf k) o.uid) o

/-- A TBAR generation completes when its arrivals equal the gangs that have not ended (R303). -/
def State.tbarCheck (s : State) (t : Nat) : State :=
  match s.team? t with
  | none => s
  | some x =>
    if x.tbarArr = 0 || x.tbarArr < x.live then s
    else s.setTeam t { x with tbarGen := x.tbarGen + 1, tbarArr := 0 }

/-- A gang that has ended leaves once no command of it uses cluster memory or the lane store: its registers'
names and its reservation return, its stores and commands go on (R102, R112, R124). -/
def State.leaveGang (s : State) (k : Nat) : State :=
  match s.agent? k with
  | none => s
  | some a =>
    if !a.ended || a.cmds.any Cmd.keepsGang then s
    else
      let q := quadOf k
      let s := s.setQuad q ((s.quad q).releaseAll a)
      let s := s.untold k a
      let o := { a.orphan k with cmds := a.cmds.filter (fun c => c.fault.isNone) }
      let s := s.modTeam a.team fun t => { t with keys := t.keys.erase k }
      (s.leaveBehind k o).freedCapacity q a.reservation

/-- A gang ends at once (R101): both slots and the stack go; TBAR counts one gang fewer. -/
def State.endGang (s : State) (k : Nat) (a : Agent) : State :=
  let s := s.setAgent k { a with slot0 := deadSlot, slot1 := deadSlot, stack := [], run := none, temps := [], ended := true, block := .none }
  let s := s.modTeam a.team fun t => { t with live := t.live - 1 }
  (s.tbarCheck a.team).leaveGang k

/-! Stopping a team (R393). -/

def writeRecord (s : State) (quad ctx addr : Nat) (bs : List Byte) : Except (Nat × Nat) State :=
  s.writeGlobal quad ctx addr bs none

/-- The Compline capture, if the buffer has room: its address, and the state. -/
def State.capture (s : State) (t : Team) (ctx : Nat) : Nat × State :=
  match s.ctx? ctx with
  | none => (0, s)
  | some c =>
    if c.complineLen < c.complineUsed + t.recordBytes then (0, s)
    else
      let addr := c.compline + c.complineUsed
      match writeRecord s t.quad ctx addr (fieldBytes t.recordBytes (teamFields s t true)) with
      | .error _ => (0, s)
      | .ok s => (addr, s.setCtx ctx { c with complineUsed := c.complineUsed + t.recordBytes })

/-- The commands that agents of a team left behind stop (R393). -/
def State.stopOrphans (s : State) (grid tindex : Nat) : State :=
  let stop (p : Nat × Agent) : Nat × Agent :=
    if orphanBase ≤ p.1 && p.2.grid == grid && p.2.tindex == tindex then (p.1, { p.2 with cmds := [] }) else p
  { s with agents := (s.agents.map stop).filter fun p => !(decide (orphanBase ≤ p.1) && p.2.accs == [] && p.2.cmds == []) }

/-- Take a team's agents off its quadrant: their writes go on as orphans, their commands too unless stopped. -/
def State.dropAgents (s : State) (t : Team) (stopCmds : Bool) : State :=
  let s := (s.teamAgents t).foldl (init := s) fun s p =>
    let (k, a) := p
    let s := if isSeq k then s else s.setQuad (quadOf k) ((s.quad (quadOf k)).releaseAll a)
    let s := s.leaveBehind k { a.orphan k with cmds := if stopCmds then [] else a.cmds }
    if isSeq k then s else s.freedCapacity (quadOf k) a.reservation
  if stopCmds then s.stopOrphans t.grid t.index else s

/-- The members of a fusion by its edge mask, lowest first (R230). -/
def fusedMembers (q mask : Nat) : List Nat := (match mask with
  | 1 => [0, 1]
  | 2 => [2, 3]
  | 4 => [0, 2]
  | 8 => [1, 3]
  | 15 => [0, 1, 2, 3]
  | _ => []).map (4 * (q / 4) + ·)

/-- A fusion ends (R232): every member's planes become EMPTY. -/
def State.unfuse (s : State) (q : Nat) : State :=
  let ms := fusedMembers q (s.quad q).fused
  let s := ms.foldl (fun s m => s.setQuad m { s.quad m with plane0 := Plane.empty, plane1 := Plane.empty }) s
  s.setQuad q { s.quad q with fused := 0 }

/-- A team retires: its grid counts it, its place is free (R102, R359). Its fusion ends (R232). -/
def State.removeTeam (s : State) (id : Nat) (t : Team) : State :=
  let s := if t.edges = 0 then s else s.unfuse t.quad
  let s := { s with teams := mapDel s.teams id }
  match s.grid? t.grid with
  | none => s
  | some g => s.setGrid t.grid { g with retiredTeams := g.retiredTeams + 1 }

/-- R393: the whole team stops, is captured, and retires with an error recorded. Of a team that has retired what is left, the
commands of its agents, stops and the error is recorded (R258, R315). -/
def State.fatalStop (s : State) (k : Nat) (a : Agent) (cause tdetail : Nat) (epc : Dword) (fmask : Mask) (faddr : Nat) : State :=
  match s.team? a.team with
  | none =>
    ((s.setAgent k a).gridError a.grid (ErrRec.first 1 (gangCode k a) (quadOf k) a.tindex cause tdetail fmask.toNat epc.toNat faddr 0)).stopOrphans
      a.grid a.tindex
  | some t =>
    let a := { a with frame := { a.frame with cause := word cause, tdetail := word tdetail, epc, fmask } }
    let s := s.setAgent k a
    let q := s.quad t.quad
    let s := s.setQuad t.quad { q with queue := q.queue.filter (fun c => c.team != a.team) }
    let (capt, s) := (s.settleTeam t).capture t a.ctx
    let s := s.gridError t.grid (ErrRec.first 1 (gangCode k a) t.quad t.index cause tdetail fmask.toNat epc.toNat faddr capt)
    (s.dropAgents t true).removeTeam a.team t

/-! Taking an exception (R372 to R375). -/

/-- What a trap reports: cause and detail, EPC, the header to restart, the lanes, the fault address, and the held
access or command reported with its fault code. -/
structure TrapInfo where
  cause : Nat
  detail : Nat
  epc : Dword
  restart : Dword
  fmask : Mask
  faddr : Nat
  report : Option Nat
  code : Nat
  deriving DecidableEq, Repr

def State.lsgranOf (s : State) (a : Agent) : Nat := match s.team? a.team with | some t => t.lsgran | none => 0
def State.hvec (s : State) (a : Agent) : Dword := match s.ctx? a.ctx with | some c => c.hvec | none => 0
def State.shvec (s : State) (a : Agent) : Dword := match s.ctx? a.ctx with | some c => c.shvec | none => 0

/-- A gang enters its handler (R372); its slots' waits restart, the gang being blocked (R85). -/
def Agent.enterHandler (a : Agent) (t : TrapInfo) (hvec : Dword) (lsgran : Nat) : Agent :=
  let x := a.slot
  let a := { a with
    frame := { cause := word t.cause, tdetail := word t.detail, epc := t.epc, fmask := t.fmask,
               tslot := { x with pc := t.restart }, susp := a.other, depth := a.stack.length, which := a.which,
               epcWritten := false, replayed := false, redo := [], report := t.report, code := t.code }
    sv := true, rewindable := false, run := none, temps := [], block := .handler, wait0 := 0, wait1 := 0 }
  let a := (a.setPair 496 (BitVec.ofNat 64 t.faddr)).setS 508 (word (256 * lsgran))
  (a.setSlot { pc := hvec, mask := x.mask, rcv := none, st := .run }).setOther deadSlot

/-- A sequencer enters its handler (R375). -/
def Agent.enterSeqHandler (a : Agent) (t : TrapInfo) (shvec : Dword) : Agent :=
  let a := { a with sv := true, run := none, temps := [], block := .handler }
  let a := ((a.setS 504 (word t.cause)).setS 505 (word t.detail)).setPair 506 t.restart
  let a := a.setPair 496 (BitVec.ofNat 64 t.faddr)
  { a with slot0 := { pc := shvec, mask := BitVec.allOnes 32, rcv := none, st := .run } }

/-- A MEM trap's TDETAIL counts the held records, which are then reported (R370, R418). -/
def Agent.reported (a : Agent) : Agent :=
  { a with accs := a.accs.map (fun x => if x.heldRec then { x with told := true } else x),
           cmds := a.cmds.map (fun c => if c.fault.isSome then { c with told := true } else c) }

/-- Taking an exception: a fatal cause or one in supervisor mode stops the team (R370, R393); any other enters the
handler, unless the vector is 0 (NOHANDLER). -/
def State.takeTrap (s : State) (k : Nat) (a : Agent) (t : TrapInfo) : State :=
  let a := if t.cause = 9 then a.reported else a
  if 0x10 ≤ t.cause then s.fatalStop k a t.cause t.detail t.epc t.fmask t.faddr
  else if a.sv then s.fatalStop k a 0x12 (t.cause + 256 * (t.detail % 2 ^ 24)) t.epc t.fmask t.faddr
  else if isSeq k then
    if s.shvec a = 0 then s.fatalStop k a 0x13 0 t.epc t.fmask t.faddr
    else s.setAgent k (a.enterSeqHandler t (s.shvec a))
  else if s.hvec a = 0 then s.fatalStop k a 0x13 0 t.epc t.fmask t.faddr
  else s.setAgent k (a.enterHandler t (s.hvec a) (s.lsgranOf a))


/-! Returning from one (R382). -/

/-- A gang leaves its handler (the slot selected last stays as it is, R86): the trapping slot and the suspended one come back, every token is complete; a fallback of R52
that ERET took sets WARN. Parked loads of a handler that has not executed REPLAY are discarded. -/
def Agent.leaveHandler (a : Agent) : Agent :=
  let f := a.frame
  let pc := if f.epcWritten then f.epc else f.tslot.pc
  let a := { a with
    which := f.which, sv := false, run := none, temps := [], tokens := [], warn := a.warn || a.fallback,
    accs := if f.replayed then a.accs else a.accs.filter fun x => !x.parked }
  (a.setSlot { f.tslot with pc := pc }).setOther f.susp

/-! The frames of the words. -/

/-- The trap a parked load makes at a word that reads it (R376): kind 0 in its own run, discarding it; kind 1 otherwise. The
load trapped, so RETIRED does not count it (R76), unless an SWR has replaced the count since. -/
def State.trapParked (s : State) (k : Nat) (a : Agent) (x : Access) : State :=
  let same := x.run == a.runs
  let a' := if same then { a with accs := a.accs.filter (fun y => y.id != x.id), retired := if x.id < a.retMark then a.retired else a.retired - 1 } else a
  let (code, m) := x.report
  (s.setAgent k a').takeTrap k a'
    { cause := 0x09, detail := memDetail a' code (if same then 0 else 1), epc := a.wordAddr, restart := a.header, fmask := m,
      faddr := x.faultAddr, report := if same then none else some x.id, code }

/-- How a body word ends (R6, R37, R44). -/
def endWord (s : State) (k : Nat) (a : Agent) (act : Mask) (v : Verdict) : Res :=
  match v with
  | .done s' => .next (s'.modAgent k Agent.retire)
  | .wait counted s' => .next (s'.modAgent k fun a => a.stallWord counted)
  | .trap cause detail fmask faddr report =>
    let detail := if cause = 0x09 then detail + 65536 * min a.heldCount 255 else detail
    .next (s.takeTrap k a
      { cause, detail, epc := a.wordAddr, restart := a.header,
        fmask := fmask.getD (if act = 0 then a.slot.mask else act), faddr, report, code := detail % 256 })
  | .behind x => .next (s.trapParked k a x)

/-- What a word meets first: results under way of the registers it reads or writes (R37). Only the wait for a register it
reads is an in-run stall. -/
def busyWait (s : State) (k : Nat) (a : Agent) (reads writes : List Nat) : Option Res :=
  if reads.any a.busy then some (endWord s k a 0 (.wait true s))
  else if writes.any a.busy then some (endWord s k a 0 (.wait false s))
  else none
/-- And then a parked load it reads (R376). -/
def readWait (s : State) (k : Nat) (a : Agent) (reads writes : List Nat) : Option Res :=
  match busyWait s k a reads writes with
  | some r => some r
  | none => match reads.findSome? a.parkedOn with
    | some x => some (.next (s.trapParked k a x))
    | none => none

/-- Whether a trap that a word meets comes before the precise MEM of a parked load it reads (R371): CAP, ACCFIRST, FORMAT
and FORMATPAIR do, and an ILLEGAL found in what its operands name. `named` counts the registers first read that hold their
values: CAP needs the one that names the capability, ILLEGAL the pair that names a descriptor. -/
def Verdict.earlier (v : Verdict) (named : Nat) : Bool :=
  match v with
  | .trap c .. => decide (5 ≤ c) && decide (c ≤ 7) || (c == 8 && decide (1 ≤ named)) || (c == 1 && decide (2 ≤ named))
  | _ => false
/-- A word that reads a parked load traps MEM, unless an earlier condition of R371 holds. -/
def parkedWord (s : State) (k : Nat) (a : Agent) (act : Mask) (reads : List Nat) (x : Access) (v : Verdict) : Res :=
  if v.earlier (reads.takeWhile fun r => (a.parkedOn r).isNone).length then endWord s k a act v
  else .next (s.trapParked k a x)

/-- A word that writes the destination of a parked load of its own run discards the load (R376). -/
def Access.overwrittenBy (x : Access) (run : Nat) (writes : List Nat) : Bool :=
  x.parked && x.run == run && x.dsts.any writes.contains
def State.overwrite (s : State) (k : Nat) (a : Agent) (writes : List Nat) : State × Agent :=
  if a.accs.any fun x => x.overwrittenBy a.runs writes then
    let b := { a with accs := a.accs.filter fun x => !x.overwrittenBy a.runs writes }
    (s.setAgent k b, b)
  else (s, a)

/-- A vector word (R29, R44, R50, R107, R371): its agent, its register blocks whether or not a lane is active, then, with an
active lane, the results it reads, and its effect on the active lanes. Where several of the registers it names lie outside the blocks, REGBLOCK
reports the destination before the sources in their order: DESIGN CHOICE (log 66). -/
def vectorWord (p : Pred) (reads writes named : List Nat) (s : State) (body : State → Nat → Agent → Mask → Verdict) : Res :=
  match s.agent? s.cur with
  | none => .fault .noIssuer
  | some a =>
    if isSeq s.cur then endWord s s.cur a 0 (illegal 0x15)
    else match named.find? fun n => !a.hasV n with
      | some n => endWord s s.cur a (a.active p) (regblock n)
      | none =>
        if a.active p = 0 then endWord s s.cur a 0 (.done s)
        else match busyWait s s.cur a reads writes with
          | some r => r
          | none => match reads.findSome? a.parkedOn with
            | some x => parkedWord s s.cur a (a.active p) reads x (body s s.cur a (a.active p))
            | none =>
              let o := s.overwrite s.cur a writes
              endWord s s.cur a (a.active p) (body o.1 s.cur o.2 (a.active p))

/-- Which agents execute a uniform word (R46). -/
inductive Who where
  | all | gang | mseq | gangMseq | gangDseq
  deriving DecidableEq, Repr

def Who.admits (w : Who) (k : Nat) : Bool :=
  match w with
  | .all => true
  | .gang => !isSeq k
  | .mseq => isMseq k
  | .gangMseq => !isDseq k
  | .gangDseq => !isMseq k

/-- The predicate of a word that has none. -/
def always : Pred := { neg := false, idx := 7 }

/-- A register of the supervisor bank (R73). -/
def bankReg (n : Nat) : Bool := decide (496 ≤ n)

/-- A uniform word (R49, R50, R74, R371): its agent, its mode, then, under its predicate, the results it reads and its effect. -/
def uniformWord (who : Who) (sv : Bool) (dsts : List Nat) (p : Pred) (reads : List Nat) (s : State)
    (body : State → Nat → Agent → Verdict) : Res :=
  match s.agent? s.cur with
  | none => .fault .noIssuer
  | some a =>
    if !who.admits s.cur then endWord s s.cur a 0 (illegal 0x15)
    else if !a.sv && (sv || dsts.any bankReg) then endWord s s.cur a 0 (illegal 0x16)
    else if !a.holds p then endWord s s.cur a 0 (.done s)
    else match busyWait s s.cur a (reads.map sCode) (dsts.map sCode) with
      | some r => r
      | none => match (reads.map sCode).findSome? a.parkedOn with
        | some x => parkedWord s s.cur a 0 (reads.map sCode) x (body s s.cur a)
        | none =>
          let o := s.overwrite s.cur a (dsts.map sCode)
          endWord s s.cur a 0 (body o.1 s.cur o.2)

/-- A uniform word that is illegal whatever its predicate (R50). -/
def illegalWord (reason : Nat) (s : State) : Res :=
  match s.agent? s.cur with
  | none => .fault .noIssuer
  | some a => endWord s s.cur a 0 (illegal reason)

/-- A uniform word with a condition on register values under reason 0x14: it traps whatever its predicate (R50), before a
higher code (R51), once the registers `vals` that the condition reads hold their values; only a strict reading traps. -/
def valueWord (who : Who) (sv : Bool) (dsts : List Nat) (p : Pred) (reads vals : List Nat) (bad : Agent → Bool) (s : State)
    (body : State → Nat → Agent → Verdict) : Res :=
  match s.agent? s.cur with
  | none => .fault .noIssuer
  | some a =>
    let codes := vals.map sCode
    if s.lenient s.cur then uniformWord who sv dsts p reads s body
    else if codes.any a.busy then endWord s s.cur a 0 (.wait true s)
    else if bad a && (codes.findSome? a.parkedOn).isNone then illegalWord 0x14 s
    else uniformWord who sv dsts p reads s body

end Sys2Proof.Machine
end

