-- ==== Sys2Proof/Machine/Span.lean ====
section
/-! DEFINITION. Capability entries (R327 to R329), host rings (R354, R355, R405) and messages handed to the transport (R337). -/

namespace Sys2Proof.Machine

/-! Results awaited in uniform registers (R37). -/

/-- Deliver a result awaited in a uniform register: it is no longer under way, and its tokens complete (R37). -/
def Agent.deliverS (a : Agent) (n : Nat) (v : Word) : Agent :=
  { a.setS n v with pending := a.pending.filter (·.1 != sCode n), tokens := a.tokens.filter fun t => t.2 != sCode n }

def State.agentByUid (s : State) (uid : Nat) : Option (Nat × Agent) := s.agents.find? fun p => p.2.uid == uid
def State.deliverUid (s : State) (uid n : Nat) (v : Word) : State :=
  match s.agentByUid uid with
  | some (k, a) => if a.ended then s else s.setAgent k (a.deliverS n v)
  | none => s

/-! The capability table (R327, R328). -/

def setField (x lo n v : Nat) : Nat := x - field x lo n * 2 ^ lo + v % 2 ^ n * 2 ^ lo
def capKind (e : Nat) : Nat := field e 0 4
def capSend (e : Nat) : Bool := bitAt e 4
def capRecv (e : Nat) : Bool := bitAt e 5
def capColl (e : Nat) : Bool := bitAt e 6
def capComp (e : Nat) : Bool := bitAt e 7
def capSkey (e : Nat) : Nat := field e 16 8
def capHslot (e : Nat) : Nat := field e 24 3
def capHslotOk (e : Nat) : Bool := bitAt e 31
def capEndpt (e : Nat) : Nat := field e 32 64
def capAllow (e : Nat) : Nat := field e 128 64
def capSent (e : Nat) : Nat := field e 192 32
def capLost (e : Nat) : Nat := field e 224 16
def capLate (e : Nat) : Nat := field e 240 16
def satInc (e lo : Nat) : Nat := setField e lo 16 (min (field e lo 16 + 1) 0xFFFF)

/-- Whether an image satisfies R327 and R328. -/
def capImageOk (e : Nat) : Bool :=
  let ep := capEndpt e
  decide (capKind e ≤ 3) && field e 8 8 == 0 && decide (capSkey e < 64) && field e 27 4 == 0 && field e 96 32 == 0 &&
  match capKind e with
  | 1 => field ep 24 40 == 0
  | 2 => field ep 6 58 == 0 && !capRecv e
  | 3 => field ep 53 11 == 0 && decide (field ep 42 11 < 1024) && !capSend e && !capRecv e
  | _ => true

def Ctx.cap (c : Ctx) (i : Nat) : Nat := mapGet 0 c.caps i
def Ctx.setCap (c : Ctx) (i e : Nat) : Ctx := { c with caps := mapSet 0 c.caps i e }
def State.modCtx (s : State) (ctx : Nat) (f : Ctx → Ctx) : State := match s.ctx? ctx with | some c => s.setCtx ctx (f c) | none => s
def State.cap (s : State) (ctx i : Nat) : Nat := match s.ctx? ctx with | some c => c.cap i | none => 0

/-- The CAP detail of a word that needs a kind, a permission and a charge (R329), or 0. -/
def capDetail (e : Nat) (kind perm : Nat → Bool) (charge : Nat) : Nat :=
  if !kind e || capKind e = 0 || 3 < capKind e then 1
  else if !perm e then 2
  else if capAllow e < charge then 3
  else 0
def capTrap (detail : Nat) : Verdict := .trap 0x08 detail none 0 none
/-- The charge is taken and the next number used (R329, R331). -/
def chargeCap (e n : Nat) : Nat := setField (setField e 128 64 (capAllow e - n)) 192 32 (capSent e + 1)

/-! Host rings (R354, R405). -/

def noRing : Ring := { base := 0, prodAddr := 0, cfg := 0, consr := 0, prod := 0, oldBase := [], oldProdAddr := [], oldCfg := [] }
def Vf.ring (v : Vf) (r : Nat) : Ring := mapGet noRing v.rings r
def Vf.setRing (v : Vf) (r : Nat) (x : Ring) : Vf := { v with rings := mapSet noRing v.rings r x }
def ringOn (cfg : Nat) : Bool := bitAt cfg 31
def ringEntries (cfg : Nat) : Nat := 2 ^ field cfg 0 4
def ringSlot (cfg : Nat) : Nat := 2 ^ field cfg 4 4

/-- One of some earlier values and the present one. -/
def pickOld (n : Nat) (old : List Nat) (now : Nat) : Nat :=
  match old with
  | [] => now
  | _ => ((old ++ [now]).drop (Config.elapsed n % (old.length + 1))).headD now
/-- The ring a message uses, BASE, PRODADDR and CFG: where an enabled ring's fields were changed, an old or the new value of
each, EN among them (R405), one choice a message. -/
def Ring.used (x : Ring) (n : Nat) : Nat × Nat × Nat :=
  let part (i lo w : Nat) : Nat := pickOld (n + i) (x.oldCfg.map fun c => field c lo w) (field x.cfg lo w) * 2 ^ lo
  (pickOld n x.oldBase x.base, pickOld (n + 1) x.oldProdAddr x.prodAddr, part 2 0 4 + part 3 4 4 + part 4 8 11 + part 5 31 1)
def Ring.full (x : Ring) (cfg : Nat) : Bool := (x.prod + 2 ^ 32 - x.consr % 2 ^ 32) % 2 ^ 32 == ringEntries cfg

/-- A write of BASE, PRODADDR or CFG: what an enabled ring held before is kept (R405). -/
def Ring.change (x y : Ring) : Ring :=
  if ringOn x.cfg then
    let add (l : List Nat) (v w : Nat) : List Nat := if v = w || l.contains v then l else l ++ [v]
    { y with oldBase := add x.oldBase x.base y.base, oldProdAddr := add x.oldProdAddr x.prodAddr y.prodAddr, oldCfg := add x.oldCfg x.cfg y.cfg }
  else { y with oldBase := [], oldProdAddr := [], oldCfg := [] }
def Vf.changeRing (v : Vf) (r : Nat) (f : Ring → Ring) : Vf := v.setRing r ((v.ring r).change (f (v.ring r)))

/-- The 16-byte header of a message (R338). -/
def msgHeader (len num peer ctx fl : Nat) : List Byte :=
  bytesOfNat 4 len ++ bytesOfNat 4 num ++ bytesOfNat 2 peer ++ [byte (ctx % 16), byte fl] ++ bytesOfNat 4 0

/-- Post to a ring that has room: the slot, the count, the interrupt (R355); a payload too long is cut, with TRUNC (R337).
`fl` holds the header's other flags. -/
def State.ringPost (s : State) (vf r : Nat) (use : Nat × Nat × Nat) (ctx num fl : Nat) (payload : List Byte) : State :=
  let v := s.vf vf
  let (base, prodAddr, cfg) := use
  let prod := (v.ring r).prod
  let room := ringSlot cfg - 16
  let fl := fl + if room < payload.length then 1 else 0
  let slot := base + prod % ringEntries cfg * ringSlot cfg
  let m := s.hmem.writeBytes slot (msgHeader payload.length num 0xFFFF ctx fl ++ payload.take room)
  let m := m.writeNat prodAddr 4 ((prod + 1) % 2 ^ 32)
  { s.setVf vf (v.setRing r { v.ring r with prod := (prod + 1) % 2 ^ 32 }) with hmem := m, hub := { s.hub with msix := s.hub.msix ++ [(vf, field cfg 8 11)] } }

def State.vfOf (s : State) (ctx : Nat) : Option Nat := match s.ctx? ctx with | some c => c.vf | none => none

/-! Messages (R331, R337). -/

def streamKey (queue peer ctx stream : Nat) : Nat := ((queue * 65536 + peer) * 16 + ctx % 16) * 256 + stream
/-- The stream of a capability's messages to a host ring, beside the sixteen queues. -/
def hostStream (cap : Nat) : Nat := streamKey 16 0 0 cap
/-- The peer index a message to a host ring carries in the outbox: no device has it. -/
def hostPeer : Nat := 0x10000
/-- Whether a partition's peer of an index is this device (R328). -/
def State.isSelf (s : State) (part peer : Nat) : Bool :=
  match s.part? part with
  | some p => match tabGet p.peers peer with | some x => x.2 == s.mgmt.idDigest.toNat | none => false
  | none => false
/-- A message to a context of this device. -/
def State.toSelf (s : State) : Packet → Bool
  | .message p c .. => p != hostPeer && s.isSelf (c / 16) p
  | _ => false
/-- A port is in span use (R16): only then do packets come from other devices, or leave for them. -/
def State.spanOpen (s : State) : Bool := s.hub.ports.any (·.2)
/-- A message that leaves for a host ring, and so for no span port. -/
def isPost : Packet → Bool
  | .message p .. => p == hostPeer
  | _ => false
def toHost (ctx cap : Nat) (x : Sent) : Bool :=
  match x.packet with | .message p c st .. => p == hostPeer && c == ctx && st == cap | _ => false

/-- A message to a host ring that has room; a gap of its stream shows in the header. -/
def State.postMessage (s : State) (vf ctx cap ring num : Nat) (payload : List Byte) : Option State :=
  let x := (s.vf vf).ring ring
  let use := x.used s.fresh
  if !ringOn use.2.2 || x.full use.2.2 then none
  else
    let gap := match s.ctx? ctx with | some c => c.gaps.contains (hostStream cap) | none => false
    some ({ s with fresh := s.fresh + 6 }.ringPost vf ring use ctx num (2 * gap.toNat) payload)

/-- Hand a message to the transport (R337): a host ring with room takes it at once, after the capability's earlier ones
(R331). -/
def State.sendMessage (s : State) (ctx i e num : Nat) (payload : List Byte) : State :=
  let ep := capEndpt e
  if capKind e = 2 then
    let wait := s.sendOn none [] (.message hostPeer ctx i (word num) ep 0 payload)
    if s.hub.outbox.any (toHost ctx i) then wait
    else match (s.vfOf ctx).bind fun vf => s.postMessage vf ctx i ep num payload with
      | some s => s
      | none => wait
  else s.sendOn (some (sessionOf ctx (capSkey e))) [field ep 0 16]
    (.message (field ep 0 16) ctx i (word num) (field ep 16 4) (BitVec.ofNat 4 (field ep 20 4)) payload)

end Sys2Proof.Machine
end

