-- ==== Sys2Proof/Decode.lean ====
section
/-! DEFINITION. The decoder and, after it, the encoder of R29 to R48: one 64-bit word to an instruction, or the
lowest reason code of R51 that the word alone shows (0x10 to 0x14). Agent and mode conditions (0x15, 0x16)
and register values are checked where the word issues. In the lenient reading of R52 the conditions 0x13 and
0x14 are read past with the fallback that R52 or the entry states. -/

namespace Sys2Proof

/-- A decoded thing, or a reason code of R51. -/
abbrev Dec := Except Nat

def chk12 (b : Bool) : Dec Unit := if b then .ok () else .error 0x12
def chk13 (len : Bool) (b : Bool) : Dec Unit := if b || len then .ok () else .error 0x13
def chk14 (len : Bool) (b : Bool) : Dec Unit := if b || len then .ok () else .error 0x14
/-- A reason-0x14 condition for which R52 states no fallback: the word stands for no instruction, and in the modes of R52 its
result is not stated (log entry 9). -/
def hard14 (b : Bool) : Dec Unit := if b then .ok () else .error 0x14

/-- n bits of w from bit lo upwards. -/
def bits (w : Dword) (lo n : Nat) : BitVec n := w.extractLsb' lo n

namespace Fields
def opc (w : Dword) : BitVec 7 := bits w 57 7
def predBits (w : Dword) : BitVec 4 := bits w 53 4
def pred (w : Dword) : Pred := { neg := w.getLsbD 56, idx := bits w 53 3 }
def nr (w : Dword) : Bool := w.getLsbD 52
-- VA and VI
def dst (w : Dword) : BitVec 9 := bits w 43 9
def sa (w : Dword) : BitVec 9 := bits w 34 9
def sb (w : Dword) : BitVec 9 := bits w 25 9
def sc (w : Dword) : BitVec 9 := bits w 16 9
def slot (w : Dword) : BitVec 4 := bits w 12 4
def rm (w : Dword) : BitVec 2 := bits w 10 2
def fn (w : Dword) : BitVec 6 := bits w 4 6
def mod (w : Dword) : BitVec 4 := bits w 0 4
def fnVI (w : Dword) : BitVec 6 := bits w 28 6
def modVI (w : Dword) : BitVec 4 := bits w 24 4
def imm24 (w : Dword) : BitVec 24 := bits w 0 24
-- U and UI
def fnU (w : Dword) : BitVec 6 := bits w 19 6
def modU (w : Dword) : BitVec 4 := bits w 15 4
def imm15 (w : Dword) : BitVec 15 := bits w 0 15
def fnUI (w : Dword) : BitVec 6 := bits w 37 6
def modUI (w : Dword) : BitVec 5 := bits w 32 5
def imm32 (w : Dword) : Word := bits w 0 32
-- B
def kind (w : Dword) : BitVec 4 := bits w 48 4
def tgt (w : Dword) : BitVec 24 := bits w 24 24
def rcv (w : Dword) : BitVec 24 := bits w 0 24
-- M
def pol (w : Dword) : BitVec 9 := bits w 16 9
def ew (w : Dword) : BitVec 5 := bits w 11 5
def scM (w : Dword) : BitVec 3 := bits w 8 3
def ord (w : Dword) : BitVec 2 := bits w 6 2
def fnM (w : Dword) : BitVec 4 := bits w 2 4
def sp (w : Dword) : BitVec 2 := bits w 0 2
-- X
def fnX (w : Dword) : BitVec 6 := bits w 46 6
def desc (w : Dword) : BitVec 9 := bits w 37 9
def arg1 (w : Dword) : BitVec 9 := bits w 28 9
def arg2 (w : Dword) : BitVec 9 := bits w 19 9
def dsts (w : Dword) : BitVec 9 := bits w 10 9
def acq (w : Dword) : Bool := w.getLsbD 9
def rel (w : Dword) : Bool := w.getLsbD 8
def scope (w : Dword) : BitVec 3 := bits w 5 3
def arrive (w : Dword) : Bool := w.getLsbD 4
def notify (w : Dword) : Bool := w.getLsbD 3
def lowX (w : Dword) : BitVec 3 := bits w 0 3
end Fields
open Fields

def even (r : BitVec 9) : Bool := !r.getLsbD 0

/-- The source operand codes of R32. -/
def operand (c : BitVec 9) : Dec Operand :=
  if c < 0x100#9 then .ok (.v (c.extractLsb' 0 8))
  else if c < 0x108#9 then .ok (.t (c.extractLsb' 0 3))
  else if c ≥ 0x180#9 then .ok (.b (c.extractLsb' 0 7))
  else .error 0x12

/-- A vector destination: a v or t code of R32. -/
def vdst (c : BitVec 9) : Dec VDst :=
  if c < 0x100#9 then .ok (.v (c.extractLsb' 0 8))
  else if c < 0x108#9 then .ok (.t (c.extractLsb' 0 3))
  else .error 0x12

/-- A broadcast code, as VRDI, VWRI, MREADV and VBCAST require. -/
def bcast (c : BitVec 9) : Dec (BitVec 7) :=
  if c ≥ 0x180#9 then .ok (c.extractLsb' 0 7) else .error 0x12

/-- The predicate number in bits [2:0] of a field; bits [8:3] are reason 0x13 (R128). -/
def pnum (c : BitVec 9) : PNum := c.extractLsb' 0 3
def pnumClean (c : BitVec 9) : Bool := c.extractLsb' 3 6 == 0

/-- A VA word of one, two or three vector sources: used is the MOD bits the entry uses. -/
def va1 (len : Bool) (w : Dword) (used : BitVec 4) (k : VDst → Operand → Instr) (ok : Bool := true) : Dec Instr := do
  let d ← vdst (dst w)
  let a ← operand (sa w)
  chk13 len (sb w == 0 && sc w == 0 && slot w == 0 && rm w == 0 && (mod w &&& ~~~used) == 0)
  hard14 ok
  .ok (k d a)

def va2 (len : Bool) (w : Dword) (used : BitVec 4) (k : VDst → Operand → Operand → Instr) (ok : Bool := true) : Dec Instr := do
  let d ← vdst (dst w)
  let a ← operand (sa w)
  let b ← operand (sb w)
  chk13 len (sc w == 0 && slot w == 0 && rm w == 0 && (mod w &&& ~~~used) == 0)
  hard14 ok
  .ok (k d a b)

def va3 (len : Bool) (w : Dword) (used : BitVec 4) (k : VDst → Operand → Operand → Operand → Instr) (ok : Bool := true) : Dec Instr := do
  let d ← vdst (dst w)
  let a ← operand (sa w)
  let b ← operand (sb w)
  let c ← operand (sc w)
  chk13 len (slot w == 0 && rm w == 0 && (mod w &&& ~~~used) == 0)
  hard14 ok
  .ok (k d a b c)

/-- Slot-arithmetic words: the slot is named; rmUsed says whether the word rounds (R187). -/
def vf1 (len : Bool) (w : Dword) (used : BitVec 4) (rmUsed : Bool) (k : VDst → Operand → Instr) (ok : Bool := true) : Dec Instr := do
  let d ← vdst (dst w)
  let a ← operand (sa w)
  chk13 len (sb w == 0 && sc w == 0 && (rmUsed || rm w == 0) && (mod w &&& ~~~used) == 0)
  hard14 ok
  .ok (k d a)

def vf2 (len : Bool) (w : Dword) (used : BitVec 4) (rmUsed : Bool) (k : VDst → Operand → Operand → Instr) : Dec Instr := do
  let d ← vdst (dst w)
  let a ← operand (sa w)
  let b ← operand (sb w)
  chk13 len (sc w == 0 && (rmUsed || rm w == 0) && (mod w &&& ~~~used) == 0)
  .ok (k d a b)

/-- A conversion whose SC holds .SAT (R193, R202). -/
def vfSat (len : Bool) (w : Dword) (k : Bool → VDst → Operand → Instr) : Dec Instr := do
  let d ← vdst (dst w)
  let a ← operand (sa w)
  chk13 len (sb w == 0)
  hard14 (sc w == 0 || sc w == 1)
  .ok (k (sc w == 1) d a)

def widthOf (c : BitVec 2) : Width := if c == 0 then .w32 else if c == 1 then .w16 else .w8

def decode20 (len : Bool) (w : Dword) : Dec Instr :=
  let p := pred w
  let n := nr w
  let m := mod w
  let z := m.getLsbD 0
  let wc := m.extractLsb' 1 2
  match (fn w).toNat with
  | 0x00 => va2 len w 0 (.vadd p n)
  | 0x01 => va2 len w 0 (.vsub p n)
  | 0x02 => va2 len w 0 (.vmul p n)
  | 0x03 => va2 len w 1 (.vmulh p n z)
  | 0x04 => va3 len w 0 (.vmad p n)
  | 0x05 => va2 len w 7 (.vadds p n z (widthOf wc)) (wc != 3)
  | 0x06 => va2 len w 7 (.vsubs p n z (widthOf wc)) (wc != 3)
  | 0x07 => va1 len w 1 (.vabs p n z)
  | 0x08 => va1 len w 1 (.vneg p n z)
  | 0x09 => va2 len w 1 (.vmin p n z)
  | 0x0A => va2 len w 1 (.vmax p n z)
  | 0x0B => va3 len w 7 (.vdot4 p n z (m.getLsbD 1) (m.getLsbD 2))
  | 0x0C => va3 len w 1 (.vsad p n z)
  | _ => .error 0x11

def decode21 (len : Bool) (w : Dword) : Dec Instr :=
  let p := pred w
  let n := nr w
  match (fn w).toNat with
  | 0x00 => va2 len w 0 (.vand p n)
  | 0x01 => va2 len w 0 (.vor p n)
  | 0x02 => va2 len w 0 (.vxor p n)
  | 0x03 => va2 len w 0 (.vandn p n)
  | 0x04 => va1 len w 0 (.vnot p n)
  | 0x05 => va2 len w 0 (.vshl p n)
  | 0x06 => va2 len w 0 (.vshr p n)
  | 0x07 => va2 len w 0 (.vsra p n)
  | 0x08 => va2 len w 0 (.vrot p n)
  | 0x09 => va1 len w 0 (.vclz p n)
  | 0x0A => va1 len w 0 (.vpopc p n)
  | 0x0B => va2 len w 1 (.vbfe p n ((mod w).getLsbD 0))
  | 0x0C => va3 len w 0 (.vbfi p n)
  | 0x0D => va1 len w 0 (.vbrev p n)
  | _ => .error 0x11

def decodeVcmp (len : Bool) (w : Dword) : Dec Instr := do
  chk12 (pnum (dst w) != 7)
  let a ← operand (sa w)
  let b ← operand (sb w)
  chk13 len (pnumClean (dst w) && sc w == 0 && slot w == 0 && rm w == 0)
  hard14 (mod w < 8)
  .ok (.vcmp (pred w) (nr w) ((mod w).extractLsb' 0 3) (pnum (dst w)) a b)

def decodeVmov (len : Bool) (w : Dword) : Dec Instr := do
  let d ← vdst (dst w)
  let b ← operand (sb w)
  chk13 len (sa w == 0 && sc w == 0 && slot w == 0 && rm w == 0 && mod w == 0)
  .ok (.vmov (pred w) (nr w) d b)

def decodeVbcast (len : Bool) (w : Dword) : Dec Instr := do
  let d ← vdst (dst w)
  let a ← operand (sa w)
  if (mod w).getLsbD 0 then
    chk13 len (sb w == 0 && sc w == 0 && slot w == 0 && rm w == 0 && (mod w &&& 0xE) == 0)
    .ok (.vbcast (pred w) (nr w) d a .first)
  else
    let r ← bcast (sb w)
    chk13 len (sc w == 0 && slot w == 0 && rm w == 0 && mod w == 0)
    .ok (.vbcast (pred w) (nr w) d a (.sreg r))

def decodeVlane (len : Bool) (w : Dword) : Dec Instr := do
  let d ← vdst (dst w)
  chk13 len (sa w == 0 && sb w == 0 && sc w == 0 && slot w == 0 && rm w == 0 && (mod w &&& 0xC) == 0)
  .ok (.vlane (pred w) (nr w) ((mod w).extractLsb' 0 2) d)

def decodeVpack (len : Bool) (w : Dword) : Dec Instr := do
  let d ← vdst (dst w)
  let a ← operand (sa w)
  let b ← operand (sb w)
  let z := (mod w).getLsbD 0
  if (mod w).getLsbD 1 then
    let c ← operand (sc w)
    chk13 len (slot w == 0 && rm w == 0 && !(mod w).getLsbD 3)
    .ok (.vpack (pred w) (nr w) z (if (mod w).getLsbD 2 then .byteHi c else .byteLo c) d a b)
  else
    chk13 len (sc w == 0 && slot w == 0 && rm w == 0 && !(mod w).getLsbD 3)
    hard14 (!(mod w).getLsbD 2)
    .ok (.vpack (pred w) (nr w) z .half d a b)

def decode22 (len : Bool) (w : Dword) : Dec Instr :=
  let p := pred w
  let n := nr w
  let m := mod w
  match (fn w).toNat with
  | 0x00 => decodeVcmp len w
  | 0x01 => va2 len w 7 (.vsel p n (m.extractLsb' 0 3))
  | 0x02 => decodeVmov len w
  | 0x03 => decodeVbcast len w
  | 0x04 => decodeVlane len w
  | 0x05 => va2 len w 3 (.vext p n (m.getLsbD 0) (m.getLsbD 1))
  | 0x06 => decodeVpack len w
  | _ => .error 0x11

/-- PLOP (R139): the fields each operation uses, and the others zero. -/
def decodePlop (len : Bool) (w : Dword) : Dec Instr :=
  let d := pnum (dst w)
  let a := pnum (sa w)
  let b := pnum (sb w)
  let rest := sc w == 0 && slot w == 0 && rm w == 0
  let two (k : PNum → PNum → PNum → POp) : Dec Instr := do
    chk12 (d != 7)
    chk13 len (pnumClean (dst w) && pnumClean (sa w) && pnumClean (sb w) && rest)
    .ok (.plop (pred w) (nr w) (k d a b))
  let one (k : PNum → PNum → POp) : Dec Instr := do
    chk12 (d != 7)
    chk13 len (pnumClean (dst w) && pnumClean (sa w) && sb w == 0 && rest)
    .ok (.plop (pred w) (nr w) (k d a))
  let zero (k : PNum → POp) : Dec Instr := do
    chk12 (d != 7)
    chk13 len (pnumClean (dst w) && sa w == 0 && sb w == 0 && rest)
    .ok (.plop (pred w) (nr w) (k d))
  match (mod w).toNat with
  | 0x0 => two .and
  | 0x1 => two .or
  | 0x2 => two .xor
  | 0x3 => two .andn
  | 0x4 => one .not
  | 0x5 => one .mov
  | 0x6 => zero .set
  | 0x7 => zero .clr
  | 0x8 => do
    chk12 (d != 7)
    let x ← operand (sa w)
    chk13 len (pnumClean (dst w) && sb w == 0 && rest)
    .ok (.plop (pred w) (nr w) (.fromv d x))
  | 0x9 => do
    let x ← vdst (dst w)
    chk13 len (pnumClean (sa w) && sb w == 0 && rest)
    .ok (.plop (pred w) (nr w) (.tov x a))
  | _ => do
    chk13 len (rest && sb w == 0)
    .error 0x14

/-- PCNT, PFIRST and VBALLOT: a predicate source and a vector or uniform destination (R130, R140, R145). -/
def decodePd (len : Bool) (w : Dword) (used : BitVec 4) (k : Operand → PNum → Instr) : Dec Instr := do
  let d ← operand (dst w)
  chk13 len (pnumClean (sa w) && sb w == 0 && sc w == 0 && slot w == 0 && rm w == 0 && (mod w &&& ~~~used) == 0)
  .ok (k d (pnum (sa w)))

def decode23 (len : Bool) (w : Dword) : Dec Instr :=
  match (fn w).toNat with
  | 0x00 => decodePlop len w
  | 0x01 => decodePd len w 0 (.pcnt (pred w) (nr w))
  | 0x02 => decodePd len w 1 (.pfirst (pred w) (nr w) ((mod w).getLsbD 0))
  | _ => .error 0x11

def decodeVred (len : Bool) (w : Dword) : Dec Instr := do
  let d ← operand (dst w)
  let a ← operand (sa w)
  chk13 len (sb w == 0 && sc w == 0 && slot w == 0 && rm w == 0 && !(mod w).getLsbD 3)
  .ok (.vred (pred w) (nr w) ((mod w).extractLsb' 0 3) d a)

def decodeVvote (len : Bool) (w : Dword) : Dec Instr := do
  chk12 (pnum (dst w) != 7)
  chk13 len (pnumClean (dst w) && pnumClean (sa w) && sb w == 0 && sc w == 0 && slot w == 0 && rm w == 0
    && (mod w &&& 0xC) == 0)
  hard14 ((mod w).extractLsb' 0 2 != 3)
  let v : Vote := if (mod w).extractLsb' 0 2 == 0 then .any else if (mod w).extractLsb' 0 2 == 1 then .all else .eq
  .ok (.vvote (pred w) (nr w) v (pnum (dst w)) (pnum (sa w)))

def decode24 (len : Bool) (w : Dword) : Dec Instr :=
  let p := pred w
  let n := nr w
  let m := mod w
  match (fn w).toNat with
  | 0x00 => va2 len w 0 (.vperm p n)
  | 0x01 => va3 len w 0 (.vpush p n)
  | 0x02 => va1 len w 0xF (.vswz p n (m.extractLsb' 0 3)) (m < 8)
  | 0x03 => va1 len w 0 (.vmatch p n)
  | 0x04 => decodeVred len w
  | 0x05 => va1 len w 0xF (.vscan p n (m.getLsbD 3) (m.extractLsb' 0 3))
  | 0x06 => decodeVvote len w
  | 0x07 => decodePd len w 0 (.vballot p n)
  | _ => .error 0x11

/-- A VI word (R48): the immediate forms. -/
def vi (len : Bool) (w : Dword) (used : BitVec 4) (k : VDst → Operand → BitVec 24 → Instr) (ok : Bool := true) : Dec Instr := do
  let d ← vdst (dst w)
  let a ← operand (sa w)
  chk13 len ((modVI w &&& ~~~used) == 0)
  hard14 ok
  .ok (k d a (imm24 w))

def decode28 (len : Bool) (w : Dword) : Dec Instr :=
  let p := pred w
  let n := nr w
  let z := (modVI w).getLsbD 0
  let wc := (modVI w).extractLsb' 1 2
  match (fnVI w).toNat with
  | 0x00 => vi len w 0 (.vaddImm p n)
  | 0x01 => vi len w 0 (.vsubImm p n)
  | 0x02 => vi len w 0 (.vmulImm p n)
  | 0x05 => vi len w 7 (.vaddsImm p n z (widthOf wc)) (wc != 3)
  | 0x06 => vi len w 7 (.vsubsImm p n z (widthOf wc)) (wc != 3)
  | 0x09 => vi len w 1 (.vminImm p n z)
  | 0x0A => vi len w 1 (.vmaxImm p n z)
  | _ => .error 0x11

def decode29 (len : Bool) (w : Dword) : Dec Instr :=
  let p := pred w
  let n := nr w
  match (fnVI w).toNat with
  | 0x00 => vi len w 0 (.vandImm p n)
  | 0x01 => vi len w 0 (.vorImm p n)
  | 0x02 => vi len w 0 (.vxorImm p n)
  | 0x03 => vi len w 0 (.vandnImm p n)
  | 0x05 => vi len w 0 (.vshlImm p n)
  | 0x06 => vi len w 0 (.vshrImm p n)
  | 0x07 => vi len w 0 (.vsraImm p n)
  | 0x08 => vi len w 0 (.vrotImm p n)
  | _ => .error 0x11

def decode2A (len : Bool) (w : Dword) : Dec Instr :=
  match (fnVI w).toNat with
  | 0x00 => do
    chk12 (pnum (dst w) != 7)
    let a ← operand (sa w)
    chk13 len (pnumClean (dst w))
    hard14 (modVI w < 8)
    .ok (.vcmpImm (pred w) (nr w) ((modVI w).extractLsb' 0 3) (pnum (dst w)) a (imm24 w))
  | 0x02 => do
    let d ← vdst (dst w)
    chk13 len (sa w == 0 && modVI w == 0)
    .ok (.vmovImm (pred w) (nr w) d (imm24 w))
  | _ => .error 0x11

def decode38 (len : Bool) (w : Dword) : Dec Instr :=
  let p := pred w
  let n := nr w
  let s := (mod w).getLsbD 0
  match (fn w).toNat with
  | 0x00 => vf2 len w 1 true (.fadd p n (slot w) (rm w) s)
  | 0x01 => vf2 len w 1 true (.fsub p n (slot w) (rm w) s)
  | 0x02 => vf2 len w 1 true (.fmul p n (slot w) (rm w) s)
  | 0x03 => do
    let d ← vdst (dst w)
    let a ← operand (sa w)
    let b ← operand (sb w)
    let c ← operand (sc w)
    chk13 len ((mod w &&& 0xE) == 0)
    .ok (.ffma p n (slot w) (rm w) s d a b c)
  | 0x04 => vf2 len w 0 false (.fmin p n (slot w))
  | 0x05 => vf2 len w 0 false (.fmax p n (slot w))
  | 0x06 => do
    chk12 (pnum (dst w) != 7)
    let a ← operand (sa w)
    let b ← operand (sb w)
    chk13 len (pnumClean (dst w) && sc w == 0 && rm w == 0)
    hard14 (mod w < 8)
    .ok (.fcmp p n (slot w) ((mod w).extractLsb' 0 3) (pnum (dst w)) a b)
  | 0x07 => vf1 len w 0 false (.fclass p n (slot w))
  | 0x08 => vf1 len w 1 true (.frnd p n (slot w) (rm w) s)
  | 0x09 => vf2 len w 1 true (.fscale p n (slot w) (rm w) s)
  | _ => .error 0x11

def decode39 (len : Bool) (w : Dword) : Dec Instr :=
  let p := pred w
  let n := nr w
  let m := mod w
  let wc := m.extractLsb' 0 2
  match (fn w).toNat with
  | 0x00 => vfSat len w (fun s d a => .fcvt p n (slot w) m (rm w) s d a)
  | 0x01 => vf1 len w 7 true (.fcvti p n (slot w) (rm w) (widthOf wc) (m.getLsbD 2)) (wc != 3)
  | 0x02 => vf1 len w 0xF true (.icvtf p n (slot w) (rm w) (widthOf wc) (m.getLsbD 2) (m.getLsbD 3)) (wc != 3)
  | _ => .error 0x11

def decode3A (len : Bool) (w : Dword) : Dec Instr :=
  let p := pred w
  let n := nr w
  let s := (mod w).getLsbD 0
  match (fn w).toNat with
  | 0x00 => vf1 len w 1 true (.frcp p n (slot w) (rm w) s)
  | 0x01 => vf1 len w 1 true (.frsq p n (slot w) (rm w) s)
  | 0x02 => vf1 len w 1 true (.fsqrt p n (slot w) (rm w) s)
  | 0x03 => vf1 len w 1 true (.fexp2 p n (slot w) (rm w) s)
  | 0x04 => vf1 len w 1 true (.flog2 p n (slot w) (rm w) s)
  | 0x05 => vf1 len w 1 true (.fsin p n (slot w) (rm w) s)
  | 0x06 => vf1 len w 1 true (.fcos p n (slot w) (rm w) s)
  | 0x07 => vf1 len w 1 true (.ftanh p n (slot w) (rm w) s)
  | _ => .error 0x11

def decode3B (len : Bool) (w : Dword) : Dec Instr :=
  let p := pred w
  let n := nr w
  match (fn w).toNat with
  | 0x00 => do
    let d ← vdst (dst w)
    let a ← operand (sa w)
    let b ← operand (sb w)
    let c ← operand (sc w)
    chk13 len (mod w == 0)
    chk14 len (rm w == 0)
    .ok (.fdot p n (slot w) d a b c)
  | 0x01 => do
    let d ← vdst (dst w)
    let a ← operand (sa w)
    chk13 len (sb w == 0 && sc w == 0)
    .ok (.fmxq p n (slot w) (mod w) (rm w) d a)
  | 0x02 => vfSat len w (fun s d a => .fmxe p n (slot w) (mod w) (rm w) s d a)
  | _ => .error 0x11

/-- The second operand of opcode 0x00, with R31's I: the field not selected must be zero. -/
def uopClean (w : Dword) : Bool := if (modU w).getLsbD 3 then sb w == 0 else imm15 w == 0
def uop (w : Dword) : UOp := if (modU w).getLsbD 3 then .imm (imm15 w) else .reg (sb w)

/-- A word of opcode 0x00 with two operands: used is the bits of MOD [17:15] the entry uses. -/
def u2 (len : Bool) (w : Dword) (used : BitVec 3) (k : SReg → SReg → UOp → Instr) (ok12 : Bool := true) : Dec Instr := do
  chk12 ok12
  chk13 len (!nr w && uopClean w && ((modU w).extractLsb' 0 3 &&& ~~~used) == 0)
  .ok (k (dst w) (sa w) (uop w))

def u1 (len : Bool) (w : Dword) (k : SReg → SReg → Instr) : Dec Instr := do
  chk13 len (!nr w && sb w == 0 && imm15 w == 0 && modU w == 0)
  .ok (k (dst w) (sa w))

def decode00 (len : Bool) (w : Dword) : Dec Instr :=
  let p := pred w
  let m := modU w
  let z := m.getLsbD 0
  match (fnU w).toNat with
  | 0x00 => u2 len w 0 (.sadd p)
  | 0x01 => u2 len w 0 (.ssub p)
  | 0x02 => u2 len w 0 (.smul p)
  | 0x03 => u2 len w 1 (.smulh p z)
  | 0x04 => u2 len w 1 (.sdiv p z)
  | 0x05 => u2 len w 1 (.smod p z)
  | 0x06 => u2 len w 0 (.sand p)
  | 0x07 => u2 len w 0 (.sor p)
  | 0x08 => u2 len w 0 (.sxor p)
  | 0x09 => u2 len w 0 (.sandn p)
  | 0x0A => u2 len w 0 (.sshl p)
  | 0x0B => u2 len w 0 (.sshr p)
  | 0x0C => u2 len w 0 (.ssra p)
  | 0x0D => u2 len w 0 (.srot p)
  | 0x0E => u2 len w 1 (.smin p z)
  | 0x0F => u2 len w 1 (.smax p z)
  | 0x10 => do
    chk12 (pnum (dst w) != 7)
    chk13 len (!nr w && uopClean w && pnumClean (dst w))
    .ok (.scmp p (m.extractLsb' 0 3) (pnum (dst w)) (sa w) (uop w))
  | 0x11 => u2 len w 7 (.ssel p (m.extractLsb' 0 3))
  | 0x12 => do
    chk13 len (!nr w && uopClean w && sa w == 0 && m.extractLsb' 0 3 == 0)
    .ok (.smov p (dst w) (uop w))
  | 0x13 => u2 len w 1 (.saddc p z)
  | 0x14 => u2 len w 7 (.slea p (m.extractLsb' 0 3)) (even (dst w) && even (sa w))
  | 0x15 => u1 len w (.sclz p)
  | 0x16 => u1 len w (.spopc p)
  | 0x17 => u2 len w 1 (.sbfe p z)
  | 0x18 => u2 len w 0 (.sbfi p)
  | _ => .error 0x11

def decode01 (len : Bool) (w : Dword) : Dec Instr :=
  match (fnUI w).toNat with
  | 0x00 => do
    chk13 len (!nr w && modUI w == 0)
    .ok (.sli (pred w) (dst w) (imm32 w))
  | 0x01 => do
    chk12 (even (dst w))
    chk13 len (!nr w && modUI w == 0)
    .ok (.slih (pred w) (dst w) (imm32 w))
  | _ => .error 0x11

/-- QOP (R96). -/
def decodeQop (len : Bool) (w : Dword) : Dec Instr :=
  let d := pnum (dst w)
  let a := pnum (sa w)
  let b := pnum (sb w)
  let rest := !nr w && imm15 w == 0
  let mk (ok12 clean : Bool) (op : QOp) : Dec Instr := do
    chk12 ok12
    chk13 len (clean && rest)
    .ok (.qop (pred w) op)
  let d7 := d != 7
  let cd := pnumClean (dst w)
  let ca := pnumClean (sa w)
  let cb := pnumClean (sb w)
  match (modU w).toNat with
  | 0x0 => mk d7 (cd && ca && cb) (.and d a b)
  | 0x1 => mk d7 (cd && ca && cb) (.or d a b)
  | 0x2 => mk d7 (cd && ca && cb) (.xor d a b)
  | 0x3 => mk d7 (cd && ca && cb) (.andn d a b)
  | 0x4 => mk d7 (cd && ca && sb w == 0) (.not d a)
  | 0x5 => mk d7 (cd && ca && sb w == 0) (.mov d a)
  | 0x6 => mk d7 (cd && sa w == 0 && sb w == 0) (.set d)
  | 0x7 => mk d7 (cd && sa w == 0 && sb w == 0) (.clr d)
  | 0x8 => mk true (ca && sb w == 0) (.tos (dst w) a)
  | 0x9 => mk d7 (cd && sb w == 0) (.froms d (sa w))
  | 0xA => mk d7 (cd && ca && sb w == 0) (.any d a)
  | 0xB => mk d7 (cd && ca && sb w == 0) (.all d a)
  | _ => do
    chk13 len rest
    .error 0x14

def decode02 (len : Bool) (w : Dword) : Dec Instr :=
  if fnU w == 0 then decodeQop len w else .error 0x11

/-- The system registers by number (R76). -/
def sysReg (n : BitVec 15) : Option SysReg :=
  match n.toNat with
  | 0x000 => some .cyclel
  | 0x001 => some .cycleh
  | 0x002 => some .flags
  | 0x003 => some .warn
  | 0x004 => some .mode
  | 0x005 => some .gangid
  | 0x006 => some .teamid
  | 0x007 => some .ctxid
  | 0x008 => some .quadid
  | 0x009 => some .slotmask
  | 0x00A => some .ddepth
  | 0x00B => some .stalls
  | 0x00C => some .retired
  | 0x00D => some .reused
  | 0x00E => some .ldreused
  | 0x100 => some .cause
  | 0x101 => some .epcl
  | 0x102 => some .epch
  | 0x103 => some .fmask
  | 0x104 => some .tdetail
  | _ => none

/-- The registers SWR may name: those the User or Supervisor column of R76 marks RW. -/
def SysReg.writable : SysReg → Bool
  | .flags | .warn | .mode | .stalls | .retired | .reused | .ldreused | .epcl | .epch | .fmask => true
  | .cyclel | .cycleh | .gangid | .teamid | .ctxid | .quadid | .slotmask | .ddepth | .cause | .tdetail => false

def decode03 (len : Bool) (w : Dword) : Dec Instr :=
  match (fnU w).toNat with
  | 0x00 => do
    chk13 len (!nr w && sa w == 0 && sb w == 0 && modU w == 0)
    match sysReg (imm15 w) with
    | some r => .ok (.srd (pred w) (dst w) r)
    | none => .error 0x14
  | 0x01 => do
    chk13 len (!nr w && dst w == 0 && sb w == 0 && modU w == 0)
    match sysReg (imm15 w) with
    | some r => do
      hard14 r.writable
      .ok (.swr (pred w) r (sa w))
    | none => .error 0x14
  | _ => .error 0x11

def decode10 (len : Bool) (w : Dword) : Dec Instr :=
  let p := pred w
  let r : SReg := (rcv w).extractLsb' 0 9
  let rc := (rcv w).extractLsb' 9 15 == 0
  match (kind w).toNat with
  | 0x0 => do
    chk13 len (!nr w && rcv w == 0)
    chk14 len (predBits w == 7)
    .ok (if predBits w == 7 then .bra (tgt w) else .brq p (tgt w))
  | 0x1 => do
    chk13 len (!nr w && rcv w == 0)
    .ok (.brq p (tgt w))
  | 0x2 => do
    chk13 len (!nr w)
    .ok (.brv p (tgt w) (rcv w))
  | 0x3 => do
    chk12 (even r && r != 0)
    chk13 len (!nr w && rc)
    .ok (.call p (tgt w) r)
  | 0x4 => do
    chk12 (even r && r != 0)
    chk13 len (!nr w && rc && tgt w == 0)
    .ok (.ret p r)
  | 0x5 => do
    chk12 (r != 0)
    chk13 len (!nr w && rc)
    .ok (.loop p (tgt w) r)
  | _ => .error 0x11

def decode11 (len : Bool) (w : Dword) : Dec Instr :=
  let mk (i : Instr) : Dec Instr := do
    chk13 len (!nr w && dst w == 0 && sa w == 0 && sb w == 0 && modU w == 0 && imm15 w == 0)
    .ok i
  match (fnU w).toNat with
  | 0x00 => mk (.exit (pred w))
  | 0x01 => mk (.endGang (pred w))
  | 0x02 => mk (.yield (pred w))
  | 0x03 => mk (.nop (pred w))
  | _ => .error 0x11

/-- FLASH (R38): NV, NS, the anchor scalars' range and PRED are reason 0x12; unused anchors are reason 0x13. -/
def decode12 (len : Bool) (w : Dword) : Dec Instr := do
  let nv := bits w 49 3
  let ns := bits w 5 5
  let sb4 := bits w 10 7
  chk12 (predBits w == 7 && nv ≤ 4#3 && ns ≤ 16#5 && 4 * sb4.toNat + ns.toNat ≤ 494)
  let a0 := bits w 41 8
  let a1 := bits w 33 8
  let a2 := bits w 25 8
  let a3 := bits w 17 8
  let n := nv.toNat
  chk13 len (!nr w && (n > 0 || a0 == 0) && (n > 1 || a1 == 0) && (n > 2 || a2 == 0) && (n > 3 || a3 == 0))
  .ok (.flash nv (if n > 0 then a0 else 0) (if n > 1 then a1 else 0) (if n > 2 then a2 else 0)
    (if n > 3 then a3 else 0) sb4 ns (bits w 0 5))

def decode18 (len : Bool) (w : Dword) : Dec Instr :=
  let m : BitVec 3 := (imm15 w).extractLsb' 0 3
  let clean := !nr w && sa w == 0 && sb w == 0 && (imm15 w).extractLsb' 3 12 == 0
  match (fnU w).toNat with
  | 0x00 =>
    if (modU w).getLsbD 0 then do
      chk12 (pnum (dst w) != 7)
      chk13 len (clean && pnumClean (dst w) && (modU w &&& 0xE) == 0)
      hard14 (m != 0)
      .ok (.growT (pred w) (pnum (dst w)) m)
    else do
      chk13 len (clean && dst w == 0 && modU w == 0)
      hard14 (m == 1 || m == 2 || m == 4)
      .ok (.growB (pred w) m)
  | 0x01 => do
    chk13 len (clean && dst w == 0 && modU w == 0)
    hard14 (m != 0)
    .ok (.shrink (pred w) m)
  | _ => .error 0x11

def decode19 (len : Bool) (w : Dword) : Dec Instr :=
  let mk (k : VDst → BitVec 7 → BitVec 24 → Instr) : Dec Instr := do
    let d ← vdst (dst w)
    let a ← bcast (sa w)
    chk13 len (modVI w == 0)
    .ok (k d a (imm24 w))
  match (fnVI w).toNat with
  | 0x00 => mk (.vrdi (pred w) (nr w))
  | 0x01 => mk (.vwri (pred w) (nr w))
  | _ => .error 0x11

/-- The conditions every format X word shares: SCOPE 6 or 7, bit 52 and bits [2:0]. -/
def xScopeOk (w : Dword) : Bool := scope w ≤ 5#3
def xLowClean (w : Dword) : Bool := !nr w && lowX w == 0
def noFlags (w : Dword) : Bool := !acq w && !rel w && !arrive w && !notify w

def decode48 (len : Bool) (w : Dword) : Dec Instr :=
  let sl : BitVec 4 := (arg2 w).extractLsb' 0 4
  let slc := (arg2 w).extractLsb' 4 5 == 0
  match (fnX w).toNat with
  | 0x00 => do
    chk12 (even (desc w) && xScopeOk w)
    chk13 len (xLowClean w && scope w == 0 && slc && arg1 w == 0)
    chk14 len (noFlags w)
    hard14 (sl != 0)
    .ok (.sload (pred w) sl (desc w) (dsts w))
  | 0x01 => do
    chk12 (xScopeOk w)
    chk13 len (xLowClean w && scope w == 0 && desc w == 0 && arg1 w == 0 && arg2 w == 0 && dsts w == 0)
    chk14 len (noFlags w)
    .ok (.sfence (pred w))
  | 0x02 => do
    chk12 (xScopeOk w)
    chk13 len (xLowClean w && scope w == 0 && slc && desc w == 0)
    chk14 len (noFlags w)
    .ok (.sdesc (pred w) sl (arg1 w) (dsts w))
  | _ => .error 0x11

/-- ARRIVE on a matrix command: scope 1 or 2 (fallback: the narrowest accepted), else SCOPE and DSTS zero. -/
def mArrive (w : Dword) : Option Arrive :=
  if arrive w then some { scope := if scope w == 2 then 2 else 1, bar := dsts w } else none
def mArrClean (w : Dword) : Bool := arrive w || (scope w == 0 && dsts w == 0)
def mArrOk (w : Dword) : Bool := !arrive w || scope w == 1 || scope w == 2

def decode4C (len : Bool) (w : Dword) : Dec Instr :=
  let p := pred w
  let a2 := arg2 w
  let sl : BitVec 4 := a2.extractLsb' 0 4
  /- used ARG2 bits; which of DESC, ARG1, DSTS are used; ARRIVE accepted -/
  let mk (a2used : BitVec 9) (useDesc useArg1 useDsts useArr : Bool) (i : Instr) (ok14 : Bool := true) : Dec Instr := do
    chk12 ((!useDesc || even (desc w)) && xScopeOk w)
    chk13 len (xLowClean w && (a2 &&& ~~~a2used) == 0 && (useDesc || desc w == 0) && (useArg1 || arg1 w == 0)
      && (if useArr then mArrClean w else scope w == 0 && (useDsts || dsts w == 0)))
    chk14 len (!acq w && !rel w && !notify w && (if useArr then mArrOk w else !arrive w) && ok14)
    .ok i
  match (fnX w).toNat with
  | 0x00 => mk 0x0F true true false true (.mloadw p sl (desc w) (arg1 w) (mArrive w))
  | 0x01 => mk 0x3F true true false true (.mloadws p sl (a2.extractLsb' 4 2) (desc w) (arg1 w) (mArrive w))
  | 0x02 => mk 0 false false false false (.mflip p)
  | 0x03 => mk 0x3F true true false true (.mstream p sl (a2.getLsbD 4) (a2.getLsbD 5) (desc w) (arg1 w) (mArrive w))
  | 0x04 => mk 0 false false false true (.mswap p (mArrive w))
  | 0x05 =>
    let raw := sl == 0
    mk 0xFF true true false true
      (.mdrain p sl (if raw then 0 else a2.extractLsb' 4 2) (!raw && a2.getLsbD 6) (!raw && a2.getLsbD 7)
        (desc w) (arg1 w) (mArrive w)) (!raw || a2.extractLsb' 4 4 == 0)
  | 0x06 => mk 1 false true false false (.mclear p (a2.getLsbD 0) (arg1 w))
  | 0x07 => mk 0 false true true false (.mfuse p (arg1 w) (dsts w))
  | 0x08 => mk 0 false false false false (.msplit p)
  | 0x09 => mk 0 false false false false (.mwait p)
  | 0x0A => mk 3 false false true false (.accspill p (a2.extractLsb' 0 2) (dsts w))
  | 0x0B => mk 3 false false true false (.accfill p (a2.extractLsb' 0 2) (dsts w))
  | _ => .error 0x11

def decode4D (len : Bool) (w : Dword) : Dec Instr :=
  match (fn w).toNat with
  | 0x00 => do
    let d ← vdst (dst w)
    let a ← bcast (sa w)
    chk13 len (sb w == 0 && sc w == 0 && slot w == 0 && rm w == 0 && mod w == 0)
    .ok (.mreadv (pred w) (nr w) d a)
  | _ => .error 0x11

/-- ORD and SC of an access that takes only one ordering: the scope when ORD is not 0. -/
def ordScope (w : Dword) : Option (BitVec 3) := if ord w == 0 then none else some (scM w)
def cmem (w : Dword) : Bool := sp w != 0
/-- The conditions every access word shares (R267): EW 0, SP 3, odd BASE, SC 6 or 7. -/
def mem12 (w : Dword) : Bool := ew w != 0 && sp w != 3 && even (sb w) && scM w ≤ 5#3
def mem13 (w : Dword) : Bool := (ord w != 0 || scM w == 0) && (sp w == 0 || pol w == 0)
/-- The policy register: s0 in the lenient reading of a word that takes none (R52). -/
def memPol (w : Dword) : SReg := if sp w == 0 then pol w else 0
/-- The width under an ordering, which accepts 32 bits only (R267, R52). -/
def memEw (w : Dword) : BitVec 5 := if ord w == 0 then ew w else 31

def decode58 (len : Bool) (w : Dword) : Dec Instr :=
  let p := pred w
  let n := nr w
  let base := sb w
  match (fnM w).toNat with
  | 0x0 => do
    chk12 (mem12 w)
    let d ← vdst (dst w)
    let x ← operand (sa w)
    chk13 len (mem13 w)
    hard14 (sp w != 2)
    chk14 len (ord w ≤ 1#2 && (ord w == 0 || ew w == 31))
    .ok (.ld p n d x base (memPol w) (memEw w) (ordScope w) (cmem w))
  | 0x1 => do
    chk12 (mem12 w)
    let y ← operand (dst w)
    let x ← operand (sa w)
    chk13 len (mem13 w)
    hard14 (sp w != 2)
    chk14 len ((ord w == 0 || ord w == 2) && (ord w == 0 || ew w == 31))
    .ok (.st p n y x base (memPol w) (memEw w) (ordScope w) (cmem w))
  | 0x2 => do
    chk12 (mem12 w && sa w == 0x180)
    let d ← vdst (dst w)
    chk13 len (mem13 w)
    hard14 (sp w != 2)
    chk14 len (ord w ≤ 1#2 && ew w == 31)
    .ok (.ldc p n d base (memPol w) (ordScope w) (cmem w))
  | 0x3 => do
    chk12 (mem12 w && sa w == 0x180)
    let y ← operand (dst w)
    chk13 len (mem13 w)
    hard14 (sp w != 2)
    chk14 len ((ord w == 0 || ord w == 2) && ew w == 31)
    .ok (.stc p n y base (memPol w) (ordScope w) (cmem w))
  | 0x4 => do
    chk12 (mem12 w)
    let d ← vdst (dst w)
    let x ← operand (sa w)
    chk13 len ((ord w != 0 || scM w == 0) && pol w == 0)
    hard14 (sp w == 2)
    chk14 len (ord w == 0)
    .ok (.ldl p n d x base (ew w))
  | 0x5 => do
    chk12 (mem12 w)
    let y ← operand (dst w)
    let x ← operand (sa w)
    chk13 len ((ord w != 0 || scM w == 0) && pol w == 0)
    hard14 (sp w == 2)
    chk14 len (ord w == 0)
    .ok (.stl p n y x base (ew w))
  | 0x6 => do
    chk12 (mem12 w)
    chk13 len (mem13 w)
    hard14 (sp w != 2)
    chk14 len (ord w ≤ 1#2 && (ord w == 0 || ew w == 31))
    .ok (.sld p n (dst w) (sa w) base (memPol w) (memEw w) (ordScope w) (cmem w))
  | 0x7 => do
    chk12 (mem12 w)
    chk13 len (mem13 w)
    hard14 (sp w != 2)
    chk14 len ((ord w == 0 || ord w == 2) && (ord w == 0 || ew w == 31))
    .ok (.sst p n (dst w) (sa w) base (memPol w) (memEw w) (ordScope w) (cmem w))
  | 0x8 => do
    chk12 (mem12 w)
    let x ← operand (sa w)
    chk13 len (mem13 w && dst w == 0)
    hard14 (sp w == 0)
    chk14 len (ord w == 0)
    .ok (.pref p n x base (pol w) (ew w))
  | 0x9 => do
    chk12 (mem12 w)
    let x ← operand (sa w)
    chk13 len ((ord w != 0 || scM w == 0) && dst w == 0 && pol w == 0)
    hard14 (sp w == 0)
    chk14 len (ord w == 0)
    .ok (.evict p n x base (ew w))
  | _ => .error 0x11

def decode64 (len : Bool) (w : Dword) : Dec Instr :=
  let p := pred w
  let clean := xLowClean w && desc w == 0 && arg1 w == 0 && arg2 w == 0 && dsts w == 0
  match (fnX w).toNat with
  | 0x00 => do
    chk12 (xScopeOk w)
    chk13 len clean
    chk14 len (!arrive w && !notify w)
    hard14 (acq w || rel w)
    .ok (.fence p (acq w) (rel w) (scope w))
  | 0x01 => do
    chk12 (xScopeOk w)
    chk13 len (clean && scope w == 0)
    chk14 len (noFlags w)
    .ok (.wstc p)
  | 0x02 => do
    chk12 (xScopeOk w)
    chk13 len clean
    chk14 len (noFlags w && scope w != 0)
    .ok (.tbar p (if scope w == 0 then 1 else scope w))
  | 0x03 => do
    chk12 (xScopeOk w)
    chk13 len clean
    chk14 len (noFlags w && scope w != 0)
    .ok (.rdv p (if scope w == 0 then 1 else scope w))
  | _ => .error 0x11

/-- The width code of an atomic (R291). -/
def awidth (e : BitVec 5) : Option AWidth :=
  match e.toNat with
  | 0x0F => some .a16
  | 0x1F => some .a32
  | 0x1E => some .a64
  | 0x1D => some .a128
  | _ => none

/-- Whether an operation of ATOM and ATOMN accepts a width (R291). -/
def atomAccepts (op : BitVec 4) : AWidth → Bool
  | .a16 => op == 0xB
  | .a32 => true
  | .a64 => op != 0xB
  | .a128 => false

def acasAccepts : AWidth → Bool
  | .a16 => false
  | _ => true

/-- The alignment of ATOM's and ACAS's DATA register (R291). -/
def atomAligned (w : AWidth) (d : BitVec 8) : Bool := w != .a64 || !d.getLsbD 0
def acasAligned (w : AWidth) (d : BitVec 8) : Bool :=
  match w with
  | .a64 => d.extractLsb' 0 2 == 0
  | .a128 => d.extractLsb' 0 3 == 0
  | _ => !d.getLsbD 0
def evenOperand : Operand → Bool
  | .v n => !n.getLsbD 0
  | .t n => !n.getLsbD 0
  | .b n => !n.getLsbD 0

/-- The width an atomic word takes: 32 bits where the code is not accepted (R295). -/
def atomWidth (acc : AWidth → Bool) (w : Dword) : AWidth :=
  match awidth (ew w) with
  | some a => if acc a then a else .a32
  | none => .a32
def atomWidthOk (acc : AWidth → Bool) (w : Dword) : Bool :=
  match awidth (ew w) with
  | some a => acc a
  | none => false

def decode65 (len : Bool) (w : Dword) : Dec Instr := do
  let op := fnM w
  if op ≥ 0xC#4 then .error 0x11
  let aw := atomWidth (atomAccepts op) w
  let d : BitVec 8 := (dst w).extractLsb' 0 8
  chk12 (mem12 w && dst w < 0x100#9 && atomAligned aw d)
  let x ← operand (sa w)
  chk13 len (mem13 w)
  chk14 len (sp w != 2 && atomWidthOk (atomAccepts op) w)
  .ok (.atom (pred w) (nr w) op aw d x (sb w) (memPol w)
    { acq := (ord w).getLsbD 0, rel := (ord w).getLsbD 1, sc := if ord w == 0 then 0 else scM w } (cmem w))

def decode66 (len : Bool) (w : Dword) : Dec Instr := do
  let op := fnM w
  if op ≥ 0xC#4 then .error 0x11
  let aw := atomWidth (atomAccepts op) w
  chk12 (mem12 w)
  let y ← operand (dst w)
  chk12 (aw != .a64 || evenOperand y)
  let x ← operand (sa w)
  chk13 len (mem13 w)
  chk14 len (sp w != 2 && atomWidthOk (atomAccepts op) w && (ord w == 0 || ord w == 2))
  .ok (.atomn (pred w) (nr w) op aw y x (sb w) (memPol w) (ordScope w) (cmem w))

def decode67 (len : Bool) (w : Dword) : Dec Instr := do
  if fnM w != 0 then .error 0x11
  let aw := atomWidth acasAccepts w
  let d : BitVec 8 := (dst w).extractLsb' 0 8
  chk12 (mem12 w && dst w < 0x100#9 && acasAligned aw d)
  let x ← operand (sa w)
  chk13 len (mem13 w)
  chk14 len (sp w != 2 && atomWidthOk acasAccepts w)
  .ok (.acas (pred w) (nr w) aw d x (sb w) (memPol w)
    { acq := (ord w).getLsbD 0, rel := (ord w).getLsbD 1, sc := if ord w == 0 then 0 else scM w } (cmem w))

def decode68 (len : Bool) (w : Dword) : Dec Instr :=
  let p := pred w
  match (fnX w).toNat with
  | 0x00 => do
    chk12 (xScopeOk w)
    chk13 len (xLowClean w && scope w == 0 && arg2 w == 0 && dsts w == 0)
    chk14 len (noFlags w)
    .ok (.boinit p (desc w) (arg1 w))
  | 0x01 => do
    chk12 (xScopeOk w)
    chk13 len (xLowClean w)
    chk14 len (noFlags w)
    .ok (.boarr p (desc w) (arg1 w) (arg2 w) (dsts w) (scope w))
  | 0x02 => do
    chk12 (xScopeOk w)
    chk13 len (xLowClean w && arg2 w == 0 && dsts w == 0)
    chk14 len (noFlags w)
    .ok (.bowait p (desc w) (arg1 w) (scope w))
  | 0x03 => do
    chk12 (xScopeOk w)
    chk13 len (xLowClean w && arg2 w == 0)
    chk14 len (noFlags w)
    .ok (.botest p (desc w) (arg1 w) (dsts w) (scope w))
  | _ => .error 0x11

/-- The scope of an engine command: ARRIVE takes none below 1 (R312, R52). -/
def xOrd (w : Dword) : XOrd :=
  { acq := acq w, rel := rel w, scope := if arrive w && !notify w && scope w == 0 then 1 else scope w }
def xFlagClean (w : Dword) : Bool := scope w == 0 || acq w || rel w || arrive w || notify w

def decode6C (len : Bool) (w : Dword) : Dec Instr :=
  let p := pred w
  match (fnX w).toNat with
  | 0x00 => do
    let fin : XDone := if notify w then .notify (arg2 w) else if arrive w then .arrive (dsts w) else .none
    chk12 (xScopeOk w && (!notify w || even (arg2 w)))
    chk13 len (xLowClean w && xFlagClean w && (notify w || arg2 w == 0) && (arrive w || dsts w == 0))
    chk14 len (!(arrive w && notify w) && !(arrive w && scope w == 0))
    .ok (.xcopy p (desc w) (arg1 w) (xOrd w) fin)
  | 0x01 => do
    chk12 (xScopeOk w)
    chk13 len (xLowClean w && scope w == 0 && desc w == 0 && arg1 w == 0 && arg2 w == 0)
    chk14 len (noFlags w)
    .ok (.xclose p (dsts w))
  | 0x02 => do
    chk12 (xScopeOk w)
    chk13 len (xLowClean w && desc w == 0 && arg2 w == 0 && dsts w == 0)
    chk14 len (noFlags w)
    .ok (.xwait p (arg1 w) (scope w))
  | 0x03 => do
    chk12 (xScopeOk w)
    chk13 len (xLowClean w && desc w == 0 && arg2 w == 0)
    chk14 len (noFlags w)
    .ok (.xtest p (arg1 w) (dsts w) (scope w))
  | 0x04 => do
    chk12 (xScopeOk w && even (desc w))
    chk13 len (xLowClean w && xFlagClean w && (arrive w || dsts w == 0))
    chk14 len (!notify w && !(arrive w && scope w == 0))
    .ok (.xfill p (desc w) (arg1 w) (arg2 w) (xOrd w) (if arrive w then some (dsts w) else none))
  | 0x05 => do
    chk12 (xScopeOk w && even (desc w) && even (arg1 w))
    chk13 len (xLowClean w && xFlagClean w && (arrive w || dsts w == 0))
    chk14 len (!notify w && !(arrive w && scope w == 0))
    .ok (.xclone p (desc w) (arg1 w) (arg2 w) (xOrd w) (if arrive w then some (dsts w) else none))
  | 0x06 => do
    chk12 (xScopeOk w && even (desc w))
    chk13 len (xLowClean w && dsts w == 0)
    chk14 len (noFlags w)
    .ok (.xpurge p (desc w) (arg1 w) (arg2 w) (scope w))
  | 0x07 => do
    chk12 (xScopeOk w)
    chk13 len (xLowClean w && scope w == 0 && desc w == 0 && arg1 w == 0 && arg2 w == 0)
    chk14 len (noFlags w)
    .ok (.xlease p (dsts w))
  | _ => .error 0x11

def decode72 (len : Bool) (w : Dword) : Dec Instr :=
  let p := pred w
  match (fnX w).toNat with
  | 0x00 => do
    chk12 (xScopeOk w && even (desc w))
    chk13 len (xLowClean w && (!noFlags w || scope w == 0))
    chk14 len (!acq w && !arrive w && !notify w)
    .ok (.chsend p (desc w) (arg1 w) (arg2 w) (dsts w) (if rel w then some (scope w) else none))
  | 0x01 => do
    chk12 (xScopeOk w && even (desc w))
    chk13 len (xLowClean w && (!noFlags w || scope w == 0))
    chk14 len (!rel w && !arrive w && !notify w)
    .ok (.chrecv p (desc w) (arg1 w) (arg2 w) (dsts w) (if acq w then some (scope w) else none))
  | 0x02 => do
    chk12 (xScopeOk w)
    chk13 len (xLowClean w && scope w == 0 && desc w == 0 && arg2 w == 0)
    chk14 len (noFlags w)
    .ok (.chpoll p (arg1 w) (dsts w))
  | 0x03 => do
    chk12 (xScopeOk w)
    chk13 len (xLowClean w && scope w == 0 && desc w == 0)
    chk14 len (noFlags w)
    .ok (.chcap p (arg1 w) (arg2 w) (dsts w))
  | 0x04 => do
    chk12 (xScopeOk w && even (arg2 w))
    chk13 len (xLowClean w && scope w == 0)
    chk14 len (noFlags w)
    .ok (.chgrantWrite p (desc w) (arg1 w) (arg2 w) (dsts w))
  | 0x05 => do
    chk12 (xScopeOk w)
    chk13 len (xLowClean w && scope w == 0 && desc w == 0 && arg2 w == 0)
    chk14 len (noFlags w)
    .ok (.chkey p (arg1 w) (dsts w))
  | _ => .error 0x11

def decode73 (len : Bool) (w : Dword) : Dec Instr :=
  let p := pred w
  let coll (k : SReg → SReg → SReg → XOrd → Bool → Instr) : Dec Instr := do
    chk12 (xScopeOk w)
    chk13 len (xLowClean w && arg2 w == 0 && (scope w == 0 || !noFlags w))
    chk14 len (!notify w && !(arrive w && scope w == 0))
    .ok (k (desc w) (arg1 w) (dsts w)
      { acq := acq w, rel := rel w, scope := if arrive w && scope w == 0 then 1 else scope w } (arrive w))
  match (fnX w).toNat with
  | 0x00 => coll (.collr p)
  | 0x01 => coll (.collg p)
  | 0x02 => coll (.collb p)
  | 0x03 => do
    chk12 (xScopeOk w)
    chk13 len (xLowClean w && desc w == 0 && arg2 w == 0 && (!noFlags w || scope w == 0))
    chk14 len (!rel w && !arrive w && !notify w)
    .ok (.collq p (arg1 w) (dsts w) (if acq w then some (scope w) else none))
  | _ => .error 0x11

def decode78 (len : Bool) (w : Dword) : Dec Instr :=
  let p := pred w
  let fl := xLowClean w && scope w == 0 && noFlags w
  match (fnX w).toNat with
  | 0x00 => do
    chk12 (xScopeOk w && even (dsts w))
    chk13 len (fl && arg2 w == 0)
    .ok (.launch p (desc w) (arg1 w) (dsts w))
  | 0x01 => do
    chk12 (xScopeOk w)
    chk13 len (fl && desc w == 0 && arg2 w == 0)
    .ok (.ljoin p (arg1 w) (dsts w))
  | 0x02 => do
    chk12 (xScopeOk w)
    chk13 len (fl && arg1 w == 0 && arg2 w == 0)
    .ok (.fork p (desc w) (dsts w))
  | 0x03 => do
    chk12 (xScopeOk w)
    chk13 len (fl && arg2 w == 0)
    .ok (.mbrecv p (desc w) (arg1 w) (dsts w))
  | 0x04 => do
    chk12 (xScopeOk w)
    chk13 len fl
    .ok (.mbsend p (desc w) (arg1 w) (arg2 w) (dsts w))
  | _ => .error 0x11

def decode79 (len : Bool) (w : Dword) : Dec Instr :=
  let p := pred w
  let base := xLowClean w && scope w == 0 && arg1 w == 0
  match (fnX w).toNat with
  | 0x00 => do
    chk12 (xScopeOk w)
    chk13 len (base && desc w == 0 && dsts w == 0 && !(arg2 w).getLsbD 8)
    chk14 len (noFlags w)
    .ok (.trap p ((arg2 w).extractLsb' 0 8))
  | 0x01 => do
    chk12 (xScopeOk w)
    chk13 len (base && desc w == 0 && arg2 w == 0 && dsts w == 0)
    chk14 len (noFlags w)
    .ok (.eret p)
  | 0x02 => do
    chk12 (xScopeOk w)
    chk13 len (base && desc w == 0 && arg2 w == 0)
    chk14 len (noFlags w)
    .ok (.replay p (dsts w))
  | 0x03 => do
    chk12 (xScopeOk w && even (desc w))
    chk13 len (base && arg2 w == 0)
    chk14 len (noFlags w)
    .ok (.ctxsave p (desc w) (dsts w))
  | 0x04 => do
    chk12 (xScopeOk w && even (desc w))
    chk13 len (base && arg2 w == 0)
    chk14 len (noFlags w)
    .ok (.ctxload p (desc w) (dsts w))
  | _ => .error 0x11

/-- Bit i of the header is set only where R35 gives it a field. -/
def decodeRun (w : Dword) : Dec Instr :=
  let len := bits w 52 5
  if len == 0 || 24#5 < len || bits w 0 45 != 0 then .error 0x01
  else .ok (.run len (bits w 46 6) (w.getLsbD 45))

/-- One assignment of a trailer is legal (R36): a v or t code and a token 0 to 5. -/
def asgOk (a : BitVec 12) : Bool :=
  let c := a.extractLsb' 3 9
  (c < 0x108#9) && (a.extractLsb' 0 3 ≤ 5#3)

def decodeTrail (w : Dword) : Dec Instr :=
  let na := bits w 54 3
  let n := na.toNat
  let a0 := bits w 0 12
  let a1 := bits w 12 12
  let a2 := bits w 24 12
  let a3 := bits w 36 12
  if n > 4 || bits w 48 6 != 0 then .error 0x02
  else if (if n > 0 then asgOk a0 else a0 == 0) && (if n > 1 then asgOk a1 else a1 == 0)
      && (if n > 2 then asgOk a2 else a2 == 0) && (if n > 3 then asgOk a3 else a3 == 0)
  then .ok (.trail na a0 a1 a2 a3)
  else .error 0x02

/-- The opcode map of R46: every 64-bit word to an instruction or the lowest reason code it shows. -/
def decodeWord (len : Bool) (w : Dword) : Dec Instr :=
  match (opc w).toNat with
  | 0x00 => decode00 len w
  | 0x01 => decode01 len w
  | 0x02 => decode02 len w
  | 0x03 => decode03 len w
  | 0x10 => decode10 len w
  | 0x11 => decode11 len w
  | 0x12 => decode12 len w
  | 0x18 => decode18 len w
  | 0x19 => decode19 len w
  | 0x20 => decode20 len w
  | 0x21 => decode21 len w
  | 0x22 => decode22 len w
  | 0x23 => decode23 len w
  | 0x24 => decode24 len w
  | 0x28 => decode28 len w
  | 0x29 => decode29 len w
  | 0x2A => decode2A len w
  | 0x38 => decode38 len w
  | 0x39 => decode39 len w
  | 0x3A => decode3A len w
  | 0x3B => decode3B len w
  | 0x48 => decode48 len w
  | 0x4C => decode4C len w
  | 0x4D => decode4D len w
  | 0x58 => decode58 len w
  | 0x64 => decode64 len w
  | 0x65 => decode65 len w
  | 0x66 => decode66 len w
  | 0x67 => decode67 len w
  | 0x68 => decode68 len w
  | 0x6C => decode6C len w
  | 0x72 => decode72 len w
  | 0x73 => decode73 len w
  | 0x78 => decode78 len w
  | 0x79 => decode79 len w
  | 0x7E => decodeTrail w
  | 0x7F => decodeRun w
  | _ => .error 0x10

/-- The strict reading of normal service (R50). -/
def decode (w : Dword) : Dec Instr := decodeWord false w

/-- Eight bytes, lowest address first, as one little-endian word (R2, R29). -/
def wordOfBytes (bs : List Byte) : Dword :=
  bs.take 8 |>.foldr (fun b acc => (acc <<< 8) ||| b.setWidth 64) 0

def bytesOfWord (w : Dword) : List Byte := (List.range 8).map fun i => w.extractLsb' (8 * i) 8

/-- The first word of a list of bytes: its instruction and the bytes after it, or the reason it is refused. -/
def decodeBytes (bs : List Byte) : Dec (Instr × List Byte) :=
  if bs.length < 8 then .error 0x10
  else (decode (wordOfBytes bs)).map (·, bs.drop 8)

/-- The instruction this decoder reads from a word whose bits are w, the bits above nbits zero: the word is
laid out little-endian and read back. -/
def decodeTableWord (nbits w : Nat) : Option Instr :=
  match decodeBytes (bytesOfWord (BitVec.ofNat 64 (w % 2 ^ nbits))) with
  | .ok (i, _) => some i
  | .error _ => none

-- The encoder, from the same tables.

def predCode (p : Pred) : BitVec 4 := BitVec.ofBool p.neg ++ p.idx
def operandCode : Operand → BitVec 9
  | .v n => 0#1 ++ n
  | .t n => 0b100000#6 ++ n
  | .b n => 0b11#2 ++ n
def vdstCode : VDst → BitVec 9
  | .v n => 0#1 ++ n
  | .t n => 0b100000#6 ++ n
def pCode (n : PNum) : BitVec 9 := 0#6 ++ n
def bcastCode (n : BitVec 7) : BitVec 9 := 0b11#2 ++ n
def b1 (b : Bool) : BitVec 1 := BitVec.ofBool b

def packVA (o : BitVec 7) (p : Pred) (nr : Bool) (d a b c : BitVec 9) (slot : BitVec 4) (rm : BitVec 2)
    (fn : BitVec 6) (m : BitVec 4) : Dword :=
  o ++ predCode p ++ b1 nr ++ d ++ a ++ b ++ c ++ slot ++ rm ++ fn ++ m
def packVI (o : BitVec 7) (p : Pred) (nr : Bool) (d a : BitVec 9) (fn : BitVec 6) (m : BitVec 4)
    (imm : BitVec 24) : Dword :=
  o ++ predCode p ++ b1 nr ++ d ++ a ++ fn ++ m ++ imm
def packU (o : BitVec 7) (p : Pred) (d a b : BitVec 9) (fn : BitVec 6) (m : BitVec 4) (imm : BitVec 15) : Dword :=
  o ++ predCode p ++ 0#1 ++ d ++ a ++ b ++ fn ++ m ++ imm
def packUI (p : Pred) (d : BitVec 9) (fn : BitVec 6) (imm : Word) : Dword :=
  0x01#7 ++ predCode p ++ 0#1 ++ d ++ fn ++ 0#5 ++ imm
def packB (p : Pred) (k : BitVec 4) (t r : BitVec 24) : Dword :=
  0x10#7 ++ predCode p ++ 0#1 ++ k ++ t ++ r
def packM (o : BitVec 7) (p : Pred) (nr : Bool) (data addr base pol : BitVec 9) (ew : BitVec 5) (sc : BitVec 3)
    (ord : BitVec 2) (fn : BitVec 4) (sp : BitVec 2) : Dword :=
  o ++ predCode p ++ b1 nr ++ data ++ addr ++ base ++ pol ++ ew ++ sc ++ ord ++ fn ++ sp
def packX (o : BitVec 7) (p : Pred) (fn : BitVec 6) (desc a1 a2 dsts : BitVec 9) (acq rel : Bool)
    (scope : BitVec 3) (arrive notify : Bool) : Dword :=
  o ++ predCode p ++ 0#1 ++ fn ++ desc ++ a1 ++ a2 ++ dsts ++ b1 acq ++ b1 rel ++ scope ++ b1 arrive ++ b1 notify ++ 0#3

def widthCode : Width → BitVec 2
  | .w32 => 0
  | .w16 => 1
  | .w8 => 2
def awidthCode : AWidth → BitVec 5
  | .a16 => 0x0F
  | .a32 => 0x1F
  | .a64 => 0x1E
  | .a128 => 0x1D
def sysRegCode : SysReg → BitVec 15
  | .cyclel => 0x000
  | .cycleh => 0x001
  | .flags => 0x002
  | .warn => 0x003
  | .mode => 0x004
  | .gangid => 0x005
  | .teamid => 0x006
  | .ctxid => 0x007
  | .quadid => 0x008
  | .slotmask => 0x009
  | .ddepth => 0x00A
  | .stalls => 0x00B
  | .retired => 0x00C
  | .reused => 0x00D
  | .ldreused => 0x00E
  | .cause => 0x100
  | .epcl => 0x101
  | .epch => 0x102
  | .fmask => 0x103
  | .tdetail => 0x104

def encUop (p : Pred) (fn : BitVec 6) (m : BitVec 3) (d a : BitVec 9) : UOp → Dword
  | .reg r => packU 0x00 p d a r fn (0#1 ++ m) 0
  | .imm i => packU 0x00 p d a 0 fn (1#1 ++ m) i
def z3 (z : Bool) : BitVec 3 := 0#2 ++ b1 z
def enc20 (p : Pred) (nr : Bool) (o : BitVec 7) (fn : BitVec 6) (m : BitVec 4) (d : VDst) (a b c : BitVec 9) : Dword :=
  packVA o p nr (vdstCode d) a b c 0 0 fn m
def encF (p : Pred) (nr : Bool) (o : BitVec 7) (fn : BitVec 6) (slot : BitVec 4) (rm : BitVec 2) (m : BitVec 4) (d : VDst)
    (a b c : BitVec 9) : Dword :=
  packVA o p nr (vdstCode d) a b c slot rm fn m
def encI (p : Pred) (nr : Bool) (o : BitVec 7) (fn : BitVec 6) (m : BitVec 4) (d : VDst) (a : Operand) (imm : BitVec 24) : Dword :=
  packVI o p nr (vdstCode d) (operandCode a) fn m imm
def m1 (z : Bool) : BitVec 4 := 0#3 ++ b1 z
def mw (z : Bool) (w : Width) : BitVec 4 := 0#1 ++ widthCode w ++ b1 z
def qCode (p : Pred) (m : BitVec 4) (d a b : BitVec 9) : Dword := packU 0x02 p d a b 0 m 0
def encQop (p : Pred) : QOp → Dword
  | .and d a b => qCode p 0 (pCode d) (pCode a) (pCode b)
  | .or d a b => qCode p 1 (pCode d) (pCode a) (pCode b)
  | .xor d a b => qCode p 2 (pCode d) (pCode a) (pCode b)
  | .andn d a b => qCode p 3 (pCode d) (pCode a) (pCode b)
  | .not d a => qCode p 4 (pCode d) (pCode a) 0
  | .mov d a => qCode p 5 (pCode d) (pCode a) 0
  | .set d => qCode p 6 (pCode d) 0 0
  | .clr d => qCode p 7 (pCode d) 0 0
  | .tos d a => qCode p 8 d (pCode a) 0
  | .froms d a => qCode p 9 (pCode d) a 0
  | .any d a => qCode p 10 (pCode d) (pCode a) 0
  | .all d a => qCode p 11 (pCode d) (pCode a) 0
def ploCode (p : Pred) (nr : Bool) (m : BitVec 4) (d a b : BitVec 9) : Dword := packVA 0x23 p nr d a b 0 0 0 0 m
def encPlop (p : Pred) (nr : Bool) : POp → Dword
  | .and d a b => ploCode p nr 0 (pCode d) (pCode a) (pCode b)
  | .or d a b => ploCode p nr 1 (pCode d) (pCode a) (pCode b)
  | .xor d a b => ploCode p nr 2 (pCode d) (pCode a) (pCode b)
  | .andn d a b => ploCode p nr 3 (pCode d) (pCode a) (pCode b)
  | .not d a => ploCode p nr 4 (pCode d) (pCode a) 0
  | .mov d a => ploCode p nr 5 (pCode d) (pCode a) 0
  | .set d => ploCode p nr 6 (pCode d) 0 0
  | .clr d => ploCode p nr 7 (pCode d) 0 0
  | .fromv d a => ploCode p nr 8 (pCode d) (operandCode a) 0
  | .tov d a => ploCode p nr 9 (vdstCode d) (pCode a) 0
def satCode (sat : Bool) : BitVec 9 := 0#8 ++ b1 sat
def arrScope : Option Arrive → BitVec 3
  | some a => a.scope
  | none => 0
def arrBar : Option Arrive → BitVec 9
  | some a => a.bar
  | none => 0
def encM4C (p : Pred) (fn : BitVec 6) (desc a1 a2 : BitVec 9) (arr : Option Arrive) : Dword :=
  packX 0x4C p fn desc a1 a2 (arrBar arr) false false (arrScope arr) arr.isSome false
def scOf : Option (BitVec 3) → BitVec 3
  | some s => s
  | none => 0
def spOf (cm : Bool) : BitVec 2 := 0#1 ++ b1 cm
def acqOrd (a : Option (BitVec 3)) : BitVec 2 := if a.isSome then 1 else 0
def relOrd (a : Option (BitVec 3)) : BitVec 2 := if a.isSome then 2 else 0
def aOrd (o : AOrd) : BitVec 2 := b1 o.rel ++ b1 o.acq
def xDoneArg2 : XDone → BitVec 9
  | .notify r => r
  | _ => 0
def xDoneDsts : XDone → BitVec 9
  | .arrive r => r
  | _ => 0
def XDone.isArrive : XDone → Bool
  | .arrive _ => true
  | _ => false
def XDone.isNotify : XDone → Bool
  | .notify _ => true
  | _ => false
def optReg : Option SReg → BitVec 9
  | some r => r
  | none => 0

/-- The word of a well-formed instruction (R30, R35, R36, R38); none for a step that is no word. -/
def encode : Instr → Option Dword
  | .sadd p d a b => some (encUop p 0x00 0 d a b)
  | .ssub p d a b => some (encUop p 0x01 0 d a b)
  | .smul p d a b => some (encUop p 0x02 0 d a b)
  | .smulh p z d a b => some (encUop p 0x03 (z3 z) d a b)
  | .sdiv p z d a b => some (encUop p 0x04 (z3 z) d a b)
  | .smod p z d a b => some (encUop p 0x05 (z3 z) d a b)
  | .sand p d a b => some (encUop p 0x06 0 d a b)
  | .sor p d a b => some (encUop p 0x07 0 d a b)
  | .sxor p d a b => some (encUop p 0x08 0 d a b)
  | .sandn p d a b => some (encUop p 0x09 0 d a b)
  | .sshl p d a b => some (encUop p 0x0A 0 d a b)
  | .sshr p d a b => some (encUop p 0x0B 0 d a b)
  | .ssra p d a b => some (encUop p 0x0C 0 d a b)
  | .srot p d a b => some (encUop p 0x0D 0 d a b)
  | .smin p z d a b => some (encUop p 0x0E (z3 z) d a b)
  | .smax p z d a b => some (encUop p 0x0F (z3 z) d a b)
  | .scmp p cc d a b => some (encUop p 0x10 cc (pCode d) a b)
  | .ssel p c d a b => some (encUop p 0x11 c d a b)
  | .smov p d b => some (encUop p 0x12 0 d 0 b)
  | .saddc p bw d a b => some (encUop p 0x13 (z3 bw) d a b)
  | .slea p sh d a b => some (encUop p 0x14 sh d a b)
  | .sclz p d a => some (packU 0x00 p d a 0 0x15 0 0)
  | .spopc p d a => some (packU 0x00 p d a 0 0x16 0 0)
  | .sbfe p z d a b => some (encUop p 0x17 (z3 z) d a b)
  | .sbfi p d a b => some (encUop p 0x18 0 d a b)
  | .sli p d imm => some (packUI p d 0 imm)
  | .slih p d imm => some (packUI p d 1 imm)
  | .qop p op => some (encQop p op)
  | .srd p d n => some (packU 0x03 p d 0 0 0 0 (sysRegCode n))
  | .swr p n a => some (packU 0x03 p 0 a 0 1 0 (sysRegCode n))
  | .bra t => some (packB { neg := false, idx := 7 } 0 t 0)
  | .brq p t => some (packB p 1 t 0)
  | .brv p t r => some (packB p 2 t r)
  | .call p t l => some (packB p 3 t (0#15 ++ l))
  | .ret p l => some (packB p 4 0 (0#15 ++ l))
  | .loop p t c => some (packB p 5 t (0#15 ++ c))
  | .exit p => some (packU 0x11 p 0 0 0 0 0 0)
  | .endGang p => some (packU 0x11 p 0 0 0 1 0 0)
  | .yield p => some (packU 0x11 p 0 0 0 2 0 0)
  | .nop p => some (packU 0x11 p 0 0 0 3 0 0)
  | .flash nv a0 a1 a2 a3 sb4 ns rcp =>
    some (0x12#7 ++ 0b0111#4 ++ 0#1 ++ nv ++ a0 ++ a1 ++ a2 ++ a3 ++ sb4 ++ ns ++ rcp)
  | .growB p m => some (packU 0x18 p 0 0 0 0 0 (0#12 ++ m))
  | .growT p d m => some (packU 0x18 p (pCode d) 0 0 0 1 (0#12 ++ m))
  | .shrink p m => some (packU 0x18 p 0 0 0 1 0 (0#12 ++ m))
  | .vrdi p nr d a imm => some (packVI 0x19 p nr (vdstCode d) (bcastCode a) 0 0 imm)
  | .vwri p nr d a imm => some (packVI 0x19 p nr (vdstCode d) (bcastCode a) 1 0 imm)
  | .vadd p nr d a b => some (enc20 p nr 0x20 0x00 0 d (operandCode a) (operandCode b) 0)
  | .vsub p nr d a b => some (enc20 p nr 0x20 0x01 0 d (operandCode a) (operandCode b) 0)
  | .vmul p nr d a b => some (enc20 p nr 0x20 0x02 0 d (operandCode a) (operandCode b) 0)
  | .vmulh p nr z d a b => some (enc20 p nr 0x20 0x03 (m1 z) d (operandCode a) (operandCode b) 0)
  | .vmad p nr d a b c => some (enc20 p nr 0x20 0x04 0 d (operandCode a) (operandCode b) (operandCode c))
  | .vadds p nr z w d a b => some (enc20 p nr 0x20 0x05 (mw z w) d (operandCode a) (operandCode b) 0)
  | .vsubs p nr z w d a b => some (enc20 p nr 0x20 0x06 (mw z w) d (operandCode a) (operandCode b) 0)
  | .vabs p nr sat d a => some (enc20 p nr 0x20 0x07 (m1 sat) d (operandCode a) 0 0)
  | .vneg p nr sat d a => some (enc20 p nr 0x20 0x08 (m1 sat) d (operandCode a) 0 0)
  | .vmin p nr z d a b => some (enc20 p nr 0x20 0x09 (m1 z) d (operandCode a) (operandCode b) 0)
  | .vmax p nr z d a b => some (enc20 p nr 0x20 0x0A (m1 z) d (operandCode a) (operandCode b) 0)
  | .vdot4 p nr az bz sat d a b c =>
    some (enc20 p nr 0x20 0x0B (0#1 ++ b1 sat ++ b1 bz ++ b1 az) d (operandCode a) (operandCode b) (operandCode c))
  | .vsad p nr h d a b c => some (enc20 p nr 0x20 0x0C (m1 h) d (operandCode a) (operandCode b) (operandCode c))
  | .vand p nr d a b => some (enc20 p nr 0x21 0x00 0 d (operandCode a) (operandCode b) 0)
  | .vor p nr d a b => some (enc20 p nr 0x21 0x01 0 d (operandCode a) (operandCode b) 0)
  | .vxor p nr d a b => some (enc20 p nr 0x21 0x02 0 d (operandCode a) (operandCode b) 0)
  | .vandn p nr d a b => some (enc20 p nr 0x21 0x03 0 d (operandCode a) (operandCode b) 0)
  | .vnot p nr d a => some (enc20 p nr 0x21 0x04 0 d (operandCode a) 0 0)
  | .vshl p nr d a b => some (enc20 p nr 0x21 0x05 0 d (operandCode a) (operandCode b) 0)
  | .vshr p nr d a b => some (enc20 p nr 0x21 0x06 0 d (operandCode a) (operandCode b) 0)
  | .vsra p nr d a b => some (enc20 p nr 0x21 0x07 0 d (operandCode a) (operandCode b) 0)
  | .vrot p nr d a b => some (enc20 p nr 0x21 0x08 0 d (operandCode a) (operandCode b) 0)
  | .vclz p nr d a => some (enc20 p nr 0x21 0x09 0 d (operandCode a) 0 0)
  | .vpopc p nr d a => some (enc20 p nr 0x21 0x0A 0 d (operandCode a) 0 0)
  | .vbfe p nr z d a b => some (enc20 p nr 0x21 0x0B (m1 z) d (operandCode a) (operandCode b) 0)
  | .vbfi p nr d a b c => some (enc20 p nr 0x21 0x0C 0 d (operandCode a) (operandCode b) (operandCode c))
  | .vbrev p nr d a => some (enc20 p nr 0x21 0x0D 0 d (operandCode a) 0 0)
  | .vcmp p nr cc d a b => some (packVA 0x22 p nr (pCode d) (operandCode a) (operandCode b) 0 0 0 0x00 (0#1 ++ cc))
  | .vsel p nr c d a b => some (enc20 p nr 0x22 0x01 (0#1 ++ c) d (operandCode a) (operandCode b) 0)
  | .vmov p nr d b => some (enc20 p nr 0x22 0x02 0 d 0 (operandCode b) 0)
  | .vbcast p nr d a (.sreg r) => some (enc20 p nr 0x22 0x03 0 d (operandCode a) (bcastCode r) 0)
  | .vbcast p nr d a .first => some (enc20 p nr 0x22 0x03 1 d (operandCode a) 0 0)
  | .vlane p nr m d => some (enc20 p nr 0x22 0x04 (0#2 ++ m) d 0 0 0)
  | .vext p nr sx half d a b => some (enc20 p nr 0x22 0x05 (0#2 ++ b1 half ++ b1 sx) d (operandCode a) (operandCode b) 0)
  | .vpack p nr z .half d a b => some (enc20 p nr 0x22 0x06 (m1 z) d (operandCode a) (operandCode b) 0)
  | .vpack p nr z (.byteLo c) d a b =>
    some (enc20 p nr 0x22 0x06 (0b001#3 ++ b1 z) d (operandCode a) (operandCode b) (operandCode c))
  | .vpack p nr z (.byteHi c) d a b =>
    some (enc20 p nr 0x22 0x06 (0b011#3 ++ b1 z) d (operandCode a) (operandCode b) (operandCode c))
  | .plop p nr op => some (encPlop p nr op)
  | .pcnt p nr d a => some (packVA 0x23 p nr (operandCode d) (pCode a) 0 0 0 0 1 0)
  | .pfirst p nr last d a => some (packVA 0x23 p nr (operandCode d) (pCode a) 0 0 0 0 2 (m1 last))
  | .vperm p nr d a b => some (enc20 p nr 0x24 0x00 0 d (operandCode a) (operandCode b) 0)
  | .vpush p nr d a b c => some (enc20 p nr 0x24 0x01 0 d (operandCode a) (operandCode b) (operandCode c))
  | .vswz p nr pat d a => some (enc20 p nr 0x24 0x02 (0#1 ++ pat) d (operandCode a) 0 0)
  | .vmatch p nr d a => some (enc20 p nr 0x24 0x03 0 d (operandCode a) 0 0)
  | .vred p nr op d a => some (packVA 0x24 p nr (operandCode d) (operandCode a) 0 0 0 0 0x04 (0#1 ++ op))
  | .vscan p nr ex op d a => some (enc20 p nr 0x24 0x05 (b1 ex ++ op) d (operandCode a) 0 0)
  | .vvote p nr .any d a => some (packVA 0x24 p nr (pCode d) (pCode a) 0 0 0 0 6 0)
  | .vvote p nr .all d a => some (packVA 0x24 p nr (pCode d) (pCode a) 0 0 0 0 6 1)
  | .vvote p nr .eq d a => some (packVA 0x24 p nr (pCode d) (pCode a) 0 0 0 0 6 2)
  | .vballot p nr d a => some (packVA 0x24 p nr (operandCode d) (pCode a) 0 0 0 0 7 0)
  | .vaddImm p nr d a i => some (encI p nr 0x28 0x00 0 d a i)
  | .vsubImm p nr d a i => some (encI p nr 0x28 0x01 0 d a i)
  | .vmulImm p nr d a i => some (encI p nr 0x28 0x02 0 d a i)
  | .vaddsImm p nr z w d a i => some (encI p nr 0x28 0x05 (mw z w) d a i)
  | .vsubsImm p nr z w d a i => some (encI p nr 0x28 0x06 (mw z w) d a i)
  | .vminImm p nr z d a i => some (encI p nr 0x28 0x09 (m1 z) d a i)
  | .vmaxImm p nr z d a i => some (encI p nr 0x28 0x0A (m1 z) d a i)
  | .vandImm p nr d a i => some (encI p nr 0x29 0x00 0 d a i)
  | .vorImm p nr d a i => some (encI p nr 0x29 0x01 0 d a i)
  | .vxorImm p nr d a i => some (encI p nr 0x29 0x02 0 d a i)
  | .vandnImm p nr d a i => some (encI p nr 0x29 0x03 0 d a i)
  | .vshlImm p nr d a i => some (encI p nr 0x29 0x05 0 d a i)
  | .vshrImm p nr d a i => some (encI p nr 0x29 0x06 0 d a i)
  | .vsraImm p nr d a i => some (encI p nr 0x29 0x07 0 d a i)
  | .vrotImm p nr d a i => some (encI p nr 0x29 0x08 0 d a i)
  | .vcmpImm p nr cc d a i => some (packVI 0x2A p nr (pCode d) (operandCode a) 0x00 (0#1 ++ cc) i)
  | .vmovImm p nr d i => some (packVI 0x2A p nr (vdstCode d) 0 0x02 0 i)
  | .fadd p nr sl rm sat d a b => some (encF p nr 0x38 0x00 sl rm (m1 sat) d (operandCode a) (operandCode b) 0)
  | .fsub p nr sl rm sat d a b => some (encF p nr 0x38 0x01 sl rm (m1 sat) d (operandCode a) (operandCode b) 0)
  | .fmul p nr sl rm sat d a b => some (encF p nr 0x38 0x02 sl rm (m1 sat) d (operandCode a) (operandCode b) 0)
  | .ffma p nr sl rm sat d a b c =>
    some (encF p nr 0x38 0x03 sl rm (m1 sat) d (operandCode a) (operandCode b) (operandCode c))
  | .fmin p nr sl d a b => some (encF p nr 0x38 0x04 sl 0 0 d (operandCode a) (operandCode b) 0)
  | .fmax p nr sl d a b => some (encF p nr 0x38 0x05 sl 0 0 d (operandCode a) (operandCode b) 0)
  | .fcmp p nr sl cc d a b => some (packVA 0x38 p nr (pCode d) (operandCode a) (operandCode b) 0 sl 0 0x06 (0#1 ++ cc))
  | .fclass p nr sl d a => some (encF p nr 0x38 0x07 sl 0 0 d (operandCode a) 0 0)
  | .frnd p nr sl rm sat d a => some (encF p nr 0x38 0x08 sl rm (m1 sat) d (operandCode a) 0 0)
  | .fscale p nr sl rm sat d a b => some (encF p nr 0x38 0x09 sl rm (m1 sat) d (operandCode a) (operandCode b) 0)
  | .fcvt p nr sl src rm sat d a => some (encF p nr 0x39 0x00 sl rm src d (operandCode a) 0 (satCode sat))
  | .fcvti p nr sl rm w z d a => some (encF p nr 0x39 0x01 sl rm (0#1 ++ b1 z ++ widthCode w) d (operandCode a) 0 0)
  | .icvtf p nr sl rm w z sat d a =>
    some (encF p nr 0x39 0x02 sl rm (b1 sat ++ b1 z ++ widthCode w) d (operandCode a) 0 0)
  | .frcp p nr sl rm sat d a => some (encF p nr 0x3A 0x00 sl rm (m1 sat) d (operandCode a) 0 0)
  | .frsq p nr sl rm sat d a => some (encF p nr 0x3A 0x01 sl rm (m1 sat) d (operandCode a) 0 0)
  | .fsqrt p nr sl rm sat d a => some (encF p nr 0x3A 0x02 sl rm (m1 sat) d (operandCode a) 0 0)
  | .fexp2 p nr sl rm sat d a => some (encF p nr 0x3A 0x03 sl rm (m1 sat) d (operandCode a) 0 0)
  | .flog2 p nr sl rm sat d a => some (encF p nr 0x3A 0x04 sl rm (m1 sat) d (operandCode a) 0 0)
  | .fsin p nr sl rm sat d a => some (encF p nr 0x3A 0x05 sl rm (m1 sat) d (operandCode a) 0 0)
  | .fcos p nr sl rm sat d a => some (encF p nr 0x3A 0x06 sl rm (m1 sat) d (operandCode a) 0 0)
  | .ftanh p nr sl rm sat d a => some (encF p nr 0x3A 0x07 sl rm (m1 sat) d (operandCode a) 0 0)
  | .fdot p nr sl d a b c => some (encF p nr 0x3B 0x00 sl 0 0 d (operandCode a) (operandCode b) (operandCode c))
  | .fmxq p nr sl src rm d a => some (encF p nr 0x3B 0x01 sl rm src d (operandCode a) 0 0)
  | .fmxe p nr sl ds rm sat d a => some (encF p nr 0x3B 0x02 sl rm ds d (operandCode a) 0 (satCode sat))
  | .sload p sl desc dsts => some (packX 0x48 p 0 desc 0 (0#5 ++ sl) dsts false false 0 false false)
  | .sfence p => some (packX 0x48 p 1 0 0 0 0 false false 0 false false)
  | .sdesc p sl idx dsts => some (packX 0x48 p 2 0 idx (0#5 ++ sl) dsts false false 0 false false)
  | .mloadw p sl desc sh arr => some (encM4C p 0x00 desc sh (0#5 ++ sl) arr)
  | .mloadws p sl ns desc sh arr => some (encM4C p 0x01 desc sh (0#3 ++ ns ++ sl) arr)
  | .mflip p => some (encM4C p 0x02 0 0 0 none)
  | .mstream p sl z i32 desc sh arr => some (encM4C p 0x03 desc sh (0#3 ++ b1 i32 ++ b1 z ++ sl) arr)
  | .mswap p arr => some (encM4C p 0x04 0 0 0 arr)
  | .mdrain p sl rm sat i32 desc m arr => some (encM4C p 0x05 desc m (0#1 ++ b1 i32 ++ b1 sat ++ rm ++ sl) arr)
  | .mclear p vis m => some (encM4C p 0x06 0 m (0#8 ++ b1 vis) none)
  | .mfuse p e dsts => some (packX 0x4C p 0x07 0 e 0 dsts false false 0 false false)
  | .msplit p => some (encM4C p 0x08 0 0 0 none)
  | .mwait p => some (encM4C p 0x09 0 0 0 none)
  | .accspill p q dsts => some (packX 0x4C p 0x0A 0 0 (0#7 ++ q) dsts false false 0 false false)
  | .accfill p q dsts => some (packX 0x4C p 0x0B 0 0 (0#7 ++ q) dsts false false 0 false false)
  | .mreadv p nr d a => some (packVA 0x4D p nr (vdstCode d) (bcastCode a) 0 0 0 0 0 0)
  | .ld p nr d x base pol ew acq cm =>
    some (packM 0x58 p nr (vdstCode d) (operandCode x) base pol ew (scOf acq) (acqOrd acq) 0 (spOf cm))
  | .st p nr y x base pol ew rel cm =>
    some (packM 0x58 p nr (operandCode y) (operandCode x) base pol ew (scOf rel) (relOrd rel) 1 (spOf cm))
  | .ldc p nr d base pol acq cm =>
    some (packM 0x58 p nr (vdstCode d) 0x180 base pol 31 (scOf acq) (acqOrd acq) 2 (spOf cm))
  | .stc p nr y base pol rel cm =>
    some (packM 0x58 p nr (operandCode y) 0x180 base pol 31 (scOf rel) (relOrd rel) 3 (spOf cm))
  | .ldl p nr d x base ew => some (packM 0x58 p nr (vdstCode d) (operandCode x) base 0 ew 0 0 4 2)
  | .stl p nr y x base ew => some (packM 0x58 p nr (operandCode y) (operandCode x) base 0 ew 0 0 5 2)
  | .sld p nr d a base pol ew acq cm => some (packM 0x58 p nr d a base pol ew (scOf acq) (acqOrd acq) 6 (spOf cm))
  | .sst p nr y a base pol ew rel cm => some (packM 0x58 p nr y a base pol ew (scOf rel) (relOrd rel) 7 (spOf cm))
  | .pref p nr x base pol ew => some (packM 0x58 p nr 0 (operandCode x) base pol ew 0 0 8 0)
  | .evict p nr x base ew => some (packM 0x58 p nr 0 (operandCode x) base 0 ew 0 0 9 0)
  | .fence p acq rel scope => some (packX 0x64 p 0 0 0 0 0 acq rel scope false false)
  | .wstc p => some (packX 0x64 p 1 0 0 0 0 false false 0 false false)
  | .tbar p scope => some (packX 0x64 p 2 0 0 0 0 false false scope false false)
  | .rdv p scope => some (packX 0x64 p 3 0 0 0 0 false false scope false false)
  | .atom p nr op w d x base pol o cm =>
    some (packM 0x65 p nr (0#1 ++ d) (operandCode x) base pol (awidthCode w) o.sc (aOrd o) op (spOf cm))
  | .atomn p nr op w y x base pol rel cm =>
    some (packM 0x66 p nr (operandCode y) (operandCode x) base pol (awidthCode w) (scOf rel) (relOrd rel) op (spOf cm))
  | .acas p nr w d x base pol o cm =>
    some (packM 0x67 p nr (0#1 ++ d) (operandCode x) base pol (awidthCode w) o.sc (aOrd o) 0 (spOf cm))
  | .boinit p desc cnt => some (packX 0x68 p 0 desc cnt 0 0 false false 0 false false)
  | .boarr p desc n u dsts scope => some (packX 0x68 p 1 desc n u dsts false false scope false false)
  | .bowait p desc ph scope => some (packX 0x68 p 2 desc ph 0 0 false false scope false false)
  | .botest p desc ph dsts scope => some (packX 0x68 p 3 desc ph 0 dsts false false scope false false)
  | .xcopy p desc pol o fin =>
    some (packX 0x6C p 0 desc pol (xDoneArg2 fin) (xDoneDsts fin) o.acq o.rel o.scope fin.isArrive fin.isNotify)
  | .xclose p dsts => some (packX 0x6C p 1 0 0 0 dsts false false 0 false false)
  | .xwait p n scope => some (packX 0x6C p 2 0 n 0 0 false false scope false false)
  | .xtest p n dsts scope => some (packX 0x6C p 3 0 n 0 dsts false false scope false false)
  | .xfill p dst len pat o arr => some (packX 0x6C p 4 dst len pat (optReg arr) o.acq o.rel o.scope arr.isSome false)
  | .xclone p dst src len o arr => some (packX 0x6C p 5 dst src len (optReg arr) o.acq o.rel o.scope arr.isSome false)
  | .xpurge p start cnt opt scope => some (packX 0x6C p 6 start cnt opt 0 false false scope false false)
  | .xlease p dsts => some (packX 0x6C p 7 0 0 0 dsts false false 0 false false)
  | .chsend p src ctl len dsts rel => some (packX 0x72 p 0 src ctl len dsts false rel.isSome (scOf rel) false false)
  | .chrecv p dst ctl len dsts acq => some (packX 0x72 p 1 dst ctl len dsts acq.isSome false (scOf acq) false false)
  | .chpoll p ctl dsts => some (packX 0x72 p 2 0 ctl 0 dsts false false 0 false false)
  | .chcap p idx widx dsts => some (packX 0x72 p 3 0 idx widx dsts false false 0 false false)
  | .chgrantWrite p desc op img dsts => some (packX 0x72 p 4 desc op img dsts false false 0 false false)
  | .chgrantRevoke p desc op img dsts => some (packX 0x72 p 4 desc op img dsts false false 0 false false)
  | .chgrantBind p desc op img dsts => some (packX 0x72 p 4 desc op img dsts false false 0 false false)
  | .chkey p idx dsts => some (packX 0x72 p 5 0 idx 0 dsts false false 0 false false)
  | .collr p desc idx dsts o arr => some (packX 0x73 p 0 desc idx 0 dsts o.acq o.rel o.scope arr false)
  | .collg p desc idx dsts o arr => some (packX 0x73 p 1 desc idx 0 dsts o.acq o.rel o.scope arr false)
  | .collb p desc idx dsts o arr => some (packX 0x73 p 2 desc idx 0 dsts o.acq o.rel o.scope arr false)
  | .collq p h dsts acq => some (packX 0x73 p 3 0 h 0 dsts acq.isSome false (scOf acq) false false)
  | .launch p desc ctl dsts => some (packX 0x78 p 0 desc ctl 0 dsts false false 0 false false)
  | .ljoin p h dsts => some (packX 0x78 p 1 0 h 0 dsts false false 0 false false)
  | .fork p desc dsts => some (packX 0x78 p 2 desc 0 0 dsts false false 0 false false)
  | .mbrecv p dst m dsts => some (packX 0x78 p 3 dst m 0 dsts false false 0 false false)
  | .mbsend p src ring len dsts => some (packX 0x78 p 4 src ring len dsts false false 0 false false)
  | .trap p code => some (packX 0x79 p 0 0 0 (0#1 ++ code) 0 false false 0 false false)
  | .eret p => some (packX 0x79 p 1 0 0 0 0 false false 0 false false)
  | .replay p dsts => some (packX 0x79 p 2 0 0 0 dsts false false 0 false false)
  | .ctxsave p desc dsts => some (packX 0x79 p 3 desc 0 0 dsts false false 0 false false)
  | .ctxload p desc dsts => some (packX 0x79 p 4 desc 0 0 dsts false false 0 false false)
  | .run len wait fb => some (0x7F#7 ++ len ++ wait ++ b1 fb ++ 0#45)
  | .trail na a0 a1 a2 a3 => some (0x7E#7 ++ na ++ 0#6 ++ a3 ++ a2 ++ a1 ++ a0)
  | .loadValueReturn .. => none
  | .parkedLoadTrap .. => none
  | .storeAck .. => none
  | .cgAccess .. => none
  | .throttleWindowEnd .. => none
  | .hubAccess .. => none
  | .leaseExpiry .. => none
  | .copyComplete .. => none
  | .copyFault .. => none
  | .bowaitWake .. => none
  | .matrixCmdComplete .. => none
  | .sloadComplete .. => none
  | .slotReload .. => none
  | .matinsPass .. => none
  | .pdlExpiry .. => none
  | .teamRecordWrite .. => none
  | .teamAdmit .. => none
  | .teamRetire .. => none
  | .gridRetire .. => none
  | .contextCreate .. => none
  | .spaceCreate .. => none
  | .spaceDestroy .. => none
  | .partitionConfigure .. => none
  | .trustKeyRemove .. => none
  | .tenantReset .. => none
  | .kick .. => none
  | .kickPoll .. => none
  | .hostRingCfgWrite .. => none
  | .standingBindRequest .. => none
  | .registerWrite .. => none
  | .bootctlReset => none
  | .packageReset => none
  | .startedMark => none
  | .startTimeout .. => none
  | .getVersion => none
  | .getCapabilities => none
  | .negotiateAlgorithms => none
  | .getDigests => none
  | .getCertificate => none
  | .challenge .. => none
  | .getMeasurements .. => none
  | .vendorDefinedRequest .. => none
  | .firmwareSwap .. => none
  | .swapTimeout => none
  | .slotScrub .. => none
  | .hbmRecalibration .. => none
  | .linkRecalibration .. => none
  | .quadrantRetirement .. => none
  | .cgRetirement .. => none
  | .powerLimit .. => none
  | .thermalTrip => none
  | .portReassign .. => none
  | .packetReceive .. => none
  | .messageSkip .. => none
  | .keyRenewal .. => none
  | .chkeyTimeout .. => none
  | .collDeadline .. => none
  | .collNoResultTimeout .. => none
  | .functionLevelReset .. => none
  | .contextDestroy .. => none
  | .hostStopRequest .. => none
  | .sharedSpaceAttach .. => none
  | .partitionCreate .. => none
  | .partitionReset .. => none
  | .retryRound .. => none

end Sys2Proof
end

