-- ==== Sys2Proof/Machine/Alu.lean ====
section
/-! DEFINITION. Integer arithmetic on 32-bit words, shared by the uniform words (R88 to R96) and the vector
integer words (R131 to R145). Nothing here touches the state. -/

namespace Sys2Proof.Machine

def sext15 (i : BitVec 15) : Word := i.signExtend 32
def sext24 (i : BitVec 24) : Word := i.signExtend 32

/-- Bits [63:32] of the product (R89, R131). -/
def mulHi (z : Bool) (a b : Word) : Word :=
  if z then ((a.setWidth 64 * b.setWidth 64).extractLsb' 32 32)
  else ((a.signExtend 64 * b.signExtend 64).extractLsb' 32 32)

/-- SDIV (R89, R90): truncated toward zero; all ones for a zero divisor. -/
def divWord (z : Bool) (a b : Word) : Word :=
  if b = 0#32 then BitVec.allOnes 32
  else if z then a / b
  else BitVec.ofInt 32 (a.toInt.tdiv b.toInt)

/-- SMOD (R89, R90): the sign of A; A for a zero divisor. -/
def modWord (z : Bool) (a b : Word) : Word :=
  if b = 0#32 then a
  else if z then a % b
  else BitVec.ofInt 32 (a.toInt.tmod b.toInt)

/-- Shifts with counts of 32 or more (R89, R134). -/
def shlWord (a b : Word) : Word := if b.toNat < 32 then a <<< b.toNat else 0#32
def shrWord (a b : Word) : Word := if b.toNat < 32 then a >>> b.toNat else 0#32
def sraWord (a b : Word) : Word := a.sshiftRight (min b.toNat 31)
def rotWord (a b : Word) : Word := a.rotateLeft (b.toNat % 32)

def minWord (z : Bool) (a b : Word) : Word := if z then (if a.ult b then a else b) else (if a.slt b then a else b)
def maxWord (z : Bool) (a b : Word) : Word := if z then (if a.ult b then b else a) else (if a.slt b then b else a)

/-- The condition codes of R91. -/
def condHolds (cc : BitVec 3) (a b : Word) : Bool :=
  match cc.toNat with
  | 0 => a == b
  | 1 => a != b
  | 2 => a.slt b
  | 3 => !a.slt b
  | 4 => a.ult b
  | 5 => !a.ult b
  | 6 => (a &&& b) != 0#32
  | _ => (a &&& b) == 0#32

/-- SADDC and SADDC.BORROW (R92). -/
def carryWord (borrow : Bool) (a b : Word) : Word :=
  if borrow then (if a.ult b then 1#32 else 0#32)
  else if 2 ^ 32 ≤ a.toNat + b.toNat then 1#32 else 0#32

/-- SLEA's 64-bit sum (R93). -/
def leaSum (sh : BitVec 3) (lo hi b : Word) : Dword := (hi ++ lo : BitVec 64) + (b.signExtend 64 <<< sh.toNat)

def clzWord (a : Word) : Word := if a = 0#32 then 32#32 else word (31 - Nat.log2 a.toNat)
def popWord (a : Word) : Word := word ((laneNums.filter fun i => a.getLsbD i).length)

/-- The field of B in SBFE and SBFI (R94). -/
def bfPos (b : Word) : Nat := field b.toNat 0 5
def bfLen (b : Word) : Nat := min (field b.toNat 5 6) 32

/-- SBFE and VBFE (R94, R134). -/
def bfeWord (z : Bool) (a b : Word) : Word :=
  let len := bfLen b
  let f := field a.toNat (bfPos b) len
  if !z && decide (0 < len) && f.testBit (len - 1) then word f - word (2 ^ len) else word f

/-- SBFI and VBFI (R94, R134): bits 0 upwards of a into base. -/
def bfiWord (base a b : Word) : Word :=
  let pos := bfPos b
  let n := min (pos + bfLen b) 32 - pos
  let m := word ((2 ^ n - 1) * 2 ^ pos)
  (base &&& ~~~m) ||| ((a <<< pos) &&& m)

/-- VBREV (R134). -/
def brevWord (a : Word) : Word := maskFn fun j => a.getLsbD (31 - j)

def widthBits : Width → Nat
  | .w32 => 32
  | .w16 => 16
  | .w8 => 8

/-- Element k of width w (R132). -/
def elem (w k : Nat) (a : Word) : Nat := field a.toNat (w * k) w
def elemInt (z : Bool) (w k : Nat) (a : Word) : Int :=
  let x := elem w k a
  if !z && x.testBit (w - 1) then Int.ofNat x - Int.ofNat (2 ^ w) else Int.ofNat x
def clampInt (z : Bool) (w : Nat) (e : Int) : Int :=
  if z then max 0 (min e (Int.ofNat (2 ^ w - 1)))
  else max (- Int.ofNat (2 ^ (w - 1))) (min e (Int.ofNat (2 ^ (w - 1) - 1)))
/-- The low w bits of a signed integer. -/
def lowBits (w : Nat) (e : Int) : Nat := (e % (2 ^ w : Nat)).toNat

/-- VADDS and VSUBS (R132). -/
def satElems (sub z : Bool) (w : Width) (a b : Word) : Word :=
  let n := widthBits w
  word ((List.range (32 / n)).foldl (fun acc k =>
    let x := elemInt z n k a
    let y := elemInt z n k b
    acc + lowBits n (clampInt z n (if sub then x - y else x + y)) * 2 ^ (n * k)) 0)

def absWord (sat : Bool) (a : Word) : Word :=
  if a = 0x80000000#32 then (if sat then 0x7FFFFFFF#32 else a) else if a.msb then -a else a
def negWord (sat : Bool) (a : Word) : Word :=
  if a = 0x80000000#32 then (if sat then 0x7FFFFFFF#32 else a) else -a

/-- VDOT4 (R133). -/
def dot4Word (az bz sat : Bool) (a b c : Word) : Word :=
  let s := (List.range 4).foldl (fun acc k => acc + elemInt az 8 k a * elemInt bz 8 k b) c.toInt
  if sat then BitVec.ofInt 32 (clampInt false 32 s) else BitVec.ofInt 32 s

/-- VSAD (R133). -/
def sadWord (half : Bool) (a b c : Word) : Word :=
  let w := if half then 16 else 8
  word ((List.range (32 / w)).foldl (fun acc k => acc + (elemInt true w k a - elemInt true w k b).natAbs) c.toNat)

/-- VEXT (R138). -/
def extWord (sx half : Bool) (a b : Word) : Word :=
  let w := if half then 16 else 8
  BitVec.ofInt 32 (elemInt (!sx) w (b.toNat % (32 / w)) a)

/-- sat_w of R138. -/
def packSat (z : Bool) (w : Nat) (x : Word) : Nat :=
  lowBits w (clampInt z w (if z then Int.ofNat x.toNat else x.toInt))

/-- The operations of VRED and VSCAN, with their identities (R144). -/
def redOp (op : BitVec 3) (a b : Word) : Word :=
  match op.toNat with
  | 0 => a + b
  | 1 => minWord false a b
  | 2 => minWord true a b
  | 3 => maxWord false a b
  | 4 => maxWord true a b
  | 5 => a &&& b
  | 6 => a ||| b
  | _ => a ^^^ b
def redId (op : BitVec 3) : Word :=
  match op.toNat with
  | 1 => 0x7FFFFFFF#32
  | 2 => BitVec.allOnes 32
  | 3 => 0x80000000#32
  | 5 => BitVec.allOnes 32
  | _ => 0#32
def redAll (op : BitVec 3) (ls : List Nat) (v : LaneVec) : Word :=
  ls.foldl (fun acc i => redOp op acc (lane v i)) (redId op)

/-- The source lane of VSWZ (R142). -/
def swzLane (pat : BitVec 3) (i : Nat) : Nat :=
  match pat.toNat with
  | 0 => i ^^^ 1
  | 1 => i ^^^ 2
  | 2 => i ^^^ 4
  | 3 => i ^^^ 8
  | 4 => i ^^^ 16
  | 5 => 4 * (i / 4)
  | 6 => 4 * (i / 4) + 3 - i % 4
  | _ => 31 - i

end Sys2Proof.Machine
end

