-- ==== Sys2Proof/Machine/Operands.lean ====
section
/-! DEFINITION. Every operand form (R32, R33, R88, R128): what a source supplies, what a destination takes, and the
frames of words that compute lane by lane or into a uniform result. -/

namespace Sys2Proof.Machine

/-- Lane i of a vector source (R32): a broadcast supplies its s register in every lane. -/
def Agent.lane (a : Agent) (o : Operand) (i : Nat) : Word :=
  match o with
  | .v n => Machine.lane (a.v n.toNat) i
  | .t n => Machine.lane (a.t n.toNat) i
  | .b n => a.s n.toNat

/-- The second member of a 64-bit source (R33). -/
def Operand.succ : Operand → Operand
  | .v n => .v (n + 1)
  | .t n => .t (n + 1)
  | .b n => .b (n + 1)
def VDst.succ : VDst → VDst
  | .v n => .v (n + 1)
  | .t n => .t (n + 1)
def VDst.src : VDst → Operand
  | .v n => .v n
  | .t n => .t n

/-- The vector registers a field names (R107). -/
def namedOf : Operand → List Nat
  | .v n => [n.toNat]
  | _ => []
def namedDst : VDst → List Nat
  | .v n => [n.toNat]
  | .t _ => []

/-- The second operand of opcode 0x00 (R31, R88). -/
def Agent.uop (a : Agent) : UOp → Word
  | .reg r => a.s r.toNat
  | .imm i => sext15 i
def uopReads : UOp → List Nat
  | .reg r => [r.toNat]
  | .imm _ => []

/-- Write the active lanes of a destination; the others keep their values (R108). -/
def State.writeDst (s : State) (k : Nat) (a : Agent) (act : Mask) (d : VDst) (f : Nat → Word) : State :=
  match d with
  | .v n => s.writeV k a n.toNat (mergeLanes act (laneFn f) (a.v n.toNat))
  | .t n => s.setAgent k (a.setT n.toNat (mergeLanes act (laneFn f) (a.t n.toNat)))

/-- As writeDst; a whole register that takes the value of another takes its name (R111). -/
def State.moveDst (move : Option Nat) (s : State) (k : Nat) (a : Agent) (act : Mask) (d : VDst) (f : Nat → Word) : State :=
  match move, d with
  | some e, .v n => s.nameV k a n.toNat (mergeLanes act (laneFn f) (a.v n.toNat)) e
  | _, _ => s.writeDst k a act d f
/-- The name a move of a whole register moves: that of a v source, every lane active. -/
def Agent.moveOf (a : Agent) (act : Mask) (x : Operand) : Option Nat :=
  match x with
  | .v n => if act = BitVec.allOnes 32 then some (a.name n.toNat) else none
  | _ => none

/-- The result of a vector word in a vector destination, through the reuse table where the word is eligible
(R116, R120): a hit retires the word, its destination naming the recorded result, and counts. `wm` is the mask of lanes
written, `act` the mask of active lanes, `move` the name a whole-register move takes over. -/
def vectorResultOn (move : Option Nat) (wm : Mask) (r : Option Reuse) (nr : Bool) (srcs : List Operand) (d : VDst) (f : Nat → Word) (fl : Flags)
    (s : State) (k : Nat) (a : Agent) (act : Mask) : Verdict :=
  let a := { a with flags := a.flags ||| fl }
  match r, d with
  | some r, .v n =>
    let v := mergeLanes wm (laneFn f) (a.v n.toNat)
    if a.reuses nr srcs d then
      let m : Memo := ⟨reuseKey a r srcs act n.toNat, reuseDeps (s.quad (quadOf k)) a srcs act n.toNat⟩
      let hit := s.reuseHit k a m.key v fl
      match hit.1 with
      | some e => .done (hit.2.nameV k { a with reused := a.reused + 1 } n.toNat v e)
      | none => .done ((hit.2.moveDst move k a wm d f).reuseRecord k m r.slots n.toNat fl [])
    else .done (s.moveDst move k a wm d f)
  | _, _ => .done (s.moveDst move k a wm d f)
def vectorResult (r : Option Reuse) (nr : Bool) (srcs : List Operand) (d : VDst) (f : Nat → Word) (fl : Flags)
    (s : State) (k : Nat) (a : Agent) (act : Mask) : Verdict :=
  vectorResultOn none act r nr srcs d f fl s k a act

/-- A word that gives each active lane of its destination a value (R6, R128): every source is read before any
destination is written. -/
def laneWord (word : Nat) (extra : Agent → List Nat) (p : Pred) (nr : Bool) (srcs : List Operand) (d : VDst)
    (f : Agent → Mask → Nat → Word) (s : State) : Res :=
  vectorWord p (srcs.map operandCodeOf) [vdstCodeOf d] (namedDst d ++ srcs.flatMap namedOf) s
    fun s k a act => vectorResult (some ⟨word, extra a, []⟩) nr srcs d (f a act) 0 s k a act

/-- A word of one, two or three vector sources computing lane by lane. -/
def unaryWord (w : Nat) (p : Pred) (nr : Bool) (d : VDst) (x : Operand) (f : Word → Word) (s : State) : Res :=
  laneWord w (fun _ => []) p nr [x] d (fun a _ i => f (a.lane x i)) s
def binaryWord (w : Nat) (p : Pred) (nr : Bool) (d : VDst) (x y : Operand) (f : Word → Word → Word) (s : State) : Res :=
  laneWord w (fun _ => []) p nr [x, y] d (fun a _ i => f (a.lane x i) (a.lane y i)) s
def ternaryWord (w : Nat) (p : Pred) (nr : Bool) (d : VDst) (x y z : Operand) (f : Word → Word → Word → Word) (s : State) : Res :=
  laneWord w (fun _ => []) p nr [x, y, z] d (fun a _ i => f (a.lane x i) (a.lane y i) (a.lane z i)) s
/-- The immediate form (R48, R135). -/
def immWord (w : Nat) (p : Pred) (nr : Bool) (d : VDst) (x : Operand) (imm : BitVec 24) (f : Word → Word → Word) (s : State) : Res :=
  laneWord w (fun _ => [imm.toNat]) p nr [x] d (fun a _ i => f (a.lane x i) (sext24 imm)) s

/-- A word that writes a vector predicate: the bits of the active lanes (R129). -/
def predWord (p : Pred) (d : PNum) (srcs : List Operand) (f : Agent → Mask → Nat → Bool) (s : State) : Res :=
  vectorWord p (srcs.map operandCodeOf) [] (srcs.flatMap namedOf) s
    fun s k a act => .done (s.setAgent k (a.setP d ((maskFn (f a act) &&& act) ||| (a.p d &&& ~~~act))))

/-- A word whose destination may be a uniform register (R130, R140): one value, in every active lane or in S. -/
def eitherWord (w : Nat) (extra : Agent → List Nat) (p : Pred) (nr : Bool) (d : Operand) (srcs : List Operand)
    (f : Agent → Mask → Word) (s : State) : Res :=
  vectorWord p (srcs.map operandCodeOf) [operandCodeOf d] (namedOf d ++ srcs.flatMap namedOf) s
    fun s k a act => match d with
    | .b n => .done (s.setAgent k (a.setS n.toNat (f a act)))
    | .v n => vectorResult (some ⟨w, extra a, []⟩) nr srcs (.v n) (fun _ => f a act) 0 s k a act
    | .t n => vectorResult none nr srcs (.t n) (fun _ => f a act) 0 s k a act

/-- A uniform word that writes one s register (R88, R89). -/
def uniWord (p : Pred) (d : SReg) (reads : List Nat) (f : Agent → Word) (s : State) : Res :=
  uniformWord .all false [d.toNat] p reads s fun s k a => .done (s.setAgent k (a.setS d.toNat (f a)))

/-- A uniform word of two operands. -/
def uni2 (p : Pred) (d x : SReg) (y : UOp) (f : Word → Word → Word) (s : State) : Res :=
  uniWord p d (x.toNat :: uopReads y) (fun a => f (a.s x.toNat) (a.uop y)) s
def uni1 (p : Pred) (d x : SReg) (f : Word → Word) (s : State) : Res :=
  uniWord p d [x.toNat] (fun a => f (a.s x.toNat)) s

end Sys2Proof.Machine
end

