-- ==== Sys2Proof/Machine/Flags.lean ====
section
/-! DEFINITION. The sticky flags and the format slots of a word: FLAGS of R77 and R184, the FORMAT checks of R154
and R186, and the frame of a slot word. -/

namespace Sys2Proof.Machine

/-- FLAGS as SRD reads it (R77). -/
def Agent.flagsWord (a : Agent) : Word := a.flags.setWidth 32

/-- The union of the flags of the active lanes (R184). -/
def unionFlags (act : Mask) (f : Nat → Flags) : Flags := (lanesOf act).foldl (fun acc i => acc ||| f i) 0

/-- The image bound to a slot for a context on a quadrant (R149, R174): F0 is fixed. -/
def State.image (s : State) (quad ctx : Nat) (slot : BitVec 4) : Option Image :=
  if slot = 0 then some fp32 else tabGet (s.quad quad).bind (16 * ctx + slot.toNat)

/-- Whether a slot is loading for a context, or reloading (R177, R178). -/
def State.slotLoading (s : State) (quad ctx : Nat) (slot : BitVec 4) : Bool :=
  (s.quad quad).jobs.any (fun j => j.ctx == ctx && j.slot == slot.toNat) || (s.quad quad).reloading.any (fun c => c % 16 == slot.toNat)

/-- Whether a word of a context must wait for a slot's reload: the physical slot holds another image (R178). -/
def State.slotStale (s : State) (quad ctx : Nat) (slot : BitVec 4) : Bool :=
  slot != 0 && match tabGet (s.quad quad).bind (16 * ctx + slot.toNat) with
    | none => false
    | some b => match tabGet (s.quad quad).phys slot.toNat with | some p => p.gen != b.gen | none => true

/-- A word that names slots meets a loading one and waits (R177), or starts a reload and waits (R178). -/
def State.slotsWait (s : State) (k : Nat) (a : Agent) (slots : List (BitVec 4)) : Option State :=
  let loading (x : BitVec 4) : Bool := s.slotLoading (quadOf k) a.ctx x
  let stale := slots.eraseDups.filter fun x => !loading x && s.slotStale (quadOf k) a.ctx x
  if stale = [] && !slots.any loading then none
  else
    let q := s.quad (quadOf k)
    some ((s.setQuad (quadOf k) { q with reloading := q.reloading ++ stale.map fun x => 16 * a.ctx + x.toNat }).modAgent k
      fun a => { a with block := .slot })

/-- What a word's entry asks of a slot (R154, R186): a block layout, none, or either; and a CLASS for the matrix path. -/
inductive BlockNeed where
  | none | block | any
  deriving DecidableEq, Repr

/-- The FORMAT detail, or the image. -/
def State.formatOf (s : State) (quad ctx : Nat) (slot : BitVec 4) (b : BlockNeed) (classed : Bool) : Except Nat Image :=
  match s.image quad ctx slot with
  | Option.none => .error 0x01
  | some im =>
    if b == .none && im.blk != 0 then .error 0x02
    else if b == .block && im.blk == 0 then .error 0x04
    else if classed && im.cls == 0 then .error 0x03
    else .ok im

def format (detail : Nat) : Verdict := .trap 0x05 detail none 0 none

/-- The generation of a slot's image, for the reuse key (R115, R186). -/
def State.genOf (s : State) (quad ctx : Nat) (slot : BitVec 4) : Nat :=
  match s.image quad ctx slot with | some im => im.gen + 1 | none => 0

/-- The frame of a slot word (R182 to R186): it waits while a slot it names is loading, checks its slots in order,
then computes. -/
def slotWord (p : Pred) (slots : List (BitVec 4 × BlockNeed × Bool)) (srcs : List Operand) (writes named : List Nat)
    (s : State) (body : List Image → State → Nat → Agent → Mask → Verdict) : Res :=
  vectorWord p (srcs.map operandCodeOf) writes (named ++ srcs.flatMap namedOf) s fun s k a act =>
    match s.slotsWait k a (slots.map (·.1)) with
    | some s => .wait false s
    | none => match slots.mapM fun x => s.formatOf (quadOf k) a.ctx x.1 x.2.1 x.2.2 with
      | .error d => format d
      | .ok ims => body ims s k a act

/-- A slot word that gives each active lane a code and merges the lanes' flags (R184, R204). -/
def slotLanes (w : Nat) (p : Pred) (nr : Bool) (slots : List (BitVec 4 × BlockNeed × Bool)) (extra : List Nat) (d : VDst)
    (srcs : List Operand) (f : List Image → Agent → Nat → Nat × Flags) (s : State) : Res :=
  slotWord p slots srcs [vdstCodeOf d] (namedDst d) s fun ims s k a act =>
    vectorResult (some ⟨w, extra ++ slots.map (fun x => s.genOf (quadOf k) a.ctx x.1), slots.map (fun x => x.1.toNat)⟩) nr srcs d
      (fun i => word (f ims a i).1) (unionFlags act fun i => (f ims a i).2) s k a act

end Sys2Proof.Machine
end

