-- ==== Sys2Proof/Machine/Perform.lean ====
section
/-! DEFINITION. Performing one lane of an access at its place (R244, R248, R252, R257, R264, R290 to R293, R417):
the cluster bank, the home CG or the hub. -/

namespace Sys2Proof.Machine

/-! Bits in bytes (R2, R244). -/

def elementOf (bs : List Byte) (b : Int) (w : Nat) : Nat := field (natOfBytes bs) (b % 8).toNat w
/-- The bytes with the element's bits replaced. -/
def putElement (bs : List Byte) (b : Int) (w v : Nat) : List Byte :=
  let o := (b % 8).toNat
  let x := natOfBytes bs
  bytesOfNat bs.length (x - field x o w * 2 ^ o + v % 2 ^ w * 2 ^ o)

/-- The bits of each byte an element touches, and what it puts there. -/
def elementMask (b : Int) (w v : Nat) : List (Byte × Byte) :=
  let n := byteSpan b w
  (putElement (List.replicate n 0) b w (2 ^ w - 1)).zip (putElement (List.replicate n 0) b w v)

/-! Operations of the atomics (R292). -/

def signedLess (w a b : Nat) : Bool := decide (signed w a < signed w b)
def atomFadd (w old b : Nat) : Nat :=
  let im := if w = 16 then bf16 else fp32
  match (addVal 0 (decodeCode im old) (decodeCode im b)).1 with
  | .nan _ => if w = 16 then 0x7FC0 else 0x7FC00000
  | v => (encodeVal im 0 false v).1
def atomNew (op w old b : Nat) : Nat :=
  match op with
  | 0 => (old + b) % 2 ^ w
  | 1 => if signedLess w b old then b else old
  | 2 => min old b
  | 3 => if signedLess w old b then b else old
  | 4 => max old b
  | 5 => old &&& b
  | 6 => old ||| b
  | 7 => old ^^^ b
  | 8 => b
  | 9 => if b ≤ old then 0 else old + 1
  | 10 => if old = 0 || b < old then b else old - 1
  | _ => atomFadd w old b

/-- What an access leaves in memory for an old value, or none where it writes nothing. -/
def Access.newValue (x : Access) (l : LaneAcc) (old : Nat) : Option Nat :=
  match x.kind with
  | .load => none
  | .probe => none
  | .store => some l.data
  | .atom op w _ => some (atomNew op w old l.data)
  | .cas _ => if old = l.cmp then some l.data else none

/-- The word code of a grid's DONE increment: it needs W, as the page of R419 grants W and no AT. -/
def doneWord : Nat := 15
def Access.need (x : Access) : Need :=
  match x.kind with
  | .load => .read
  | .probe => .read
  | .store => .write
  | _ => if x.word = doneWord then .write else .atomic
def Access.msOp (x : Access) : Nat := match x.kind with | .load => 0 | .probe => 0 | .store => 1 | _ => 2

/-- The outcome of performing a lane: its old or loaded value, a fault code of R255, or a poisoned read (R258). -/
inductive Done where
  | ok (value : Nat) (s : State)
  | fault (code : Nat) (s : State)
  | poison (s : State)

/-! Cluster memory (R241). -/

/-- The cluster memory's access table admits an agent's quadrant (R404), which its entry does for reads and writes alike. -/
def State.clusterAdmits (s : State) (a : Agent) : Bool :=
  match s.team? a.team with
  | some t => s.admits .cluster t.quad (a.ctx / 16) true
  | none => true
/-- The allocation a cluster address names, for an agent: the team; none where its quadrant is refused (PERM). -/
def State.clusterTeam (s : State) (a : Agent) (base : Nat) : Option Team :=
  if field base 22 9 != 0 || !s.clusterAdmits a then none
  else if bitAt base 31 then (s.teams.find? fun p => p.2.grid == a.grid && p.2.index == field base 32 32).map (·.2)
  else if field base 32 32 != 0 then none
  else s.team? a.team

/-- An element's bit position from the start of the named allocation. -/
def clusterBit (base : Nat) (b : Int) : Int := b - 8 * Int.ofNat base + 8 * Int.ofNat (field base 0 22)
def inAlloc (t : Team) (b : Int) (w : Nat) : Bool := decide (0 ≤ b) && decide (b + Int.ofNat w ≤ 8 * Int.ofNat t.csize)
def Team.bankKey (t : Team) (b : Int) : Nat := cmemKey t.quad (t.cbase + firstByte b)

def State.performCluster (s : State) (a : Agent) (x : Access) (l : LaneAcc) : Done :=
  match s.clusterTeam a x.base.toNat with
  | none => .fault 3 s
  | some t =>
    let b := clusterBit x.base.toNat l.bit
    if !inAlloc t b x.width then .fault 3 s
    else
      let bs := s.cmem.readBytes (t.bankKey b) (byteSpan b x.width)
      let old := elementOf bs b x.width
      match x.newValue l old with
      | none => .ok old s
      | some v => .ok old { s with cmem := s.cmem.writeBytes (t.bankKey b) (putElement bs b x.width v) }

/-! The leaf window (R417). -/

/-- The address of a page's level-4 leaf. -/
def leafAddr (read : Nat → Nat) (va : Nat) : List (Nat × Nat × Nat) → Nat → Option Nat
  | [], _ => none
  | (_, lo, w) :: ls, table =>
    let e := table + 8 * field va lo w
    match ls with
    | [] => some e
    | _ => if pteV (read e) && !pteLeaf (read e) then leafAddr read va ls (ptePtr (read e) * 4096) else none

/-- A leaf after a store of its bits: a live mapping that only A and D would change keeps them set. -/
def leafStore (held new : Nat) : Nat :=
  let ad := 0xC0
  let bare (e : Nat) : Nat := e - (e &&& ad)
  if pteV held && bare held == bare new then new ||| (held &&& ad) else new

/-- The words of a gang's uniform path (R275): SST, BOINIT, SLD. -/
def Access.uniform (x : Access) : Bool := x.word == 2 || x.word == 6 || x.word == 9

/-- SLD and SST of a handler within the window act on the leaf, or on two neighbours an element lies across; every other
access there faults PERM. -/
def State.performLeaf (s : State) (a : Agent) (x : Access) (l : LaneAcc) (first : Nat) : Done :=
  match s.spaceOf a.ctx first with
  | none => .fault 2 s
  | some sid => match s.space? sid with
    | none => .fault 2 s
    | some sp =>
      let off := first - leafWindow
      let b := (l.bit - 8 * Int.ofNat (first - off % 8)).toNat
      let leaf (p : Nat) : Option Nat := leafAddr (s.pte sp.owner) (sp.resBase + p * 65536) ptLevels sp.root
      if !(x.uniform && x.sup && decide (off + byteSpan l.bit x.width ≤ 8 * sp.nrp)) then .fault 3 s
      else match leaf (off / 8), leaf ((8 * (off / 8) + (b + x.width - 1) / 8) / 8) with
        | some e, some e' =>
          let held := s.pte sp.owner e + if e' = e then 0 else s.pte sp.owner e' * 2 ^ 64
          let old := field held b x.width
          match x.newValue l old with
          | none => .ok old s
          | some v =>
            let new := held - old * 2 ^ b + v % 2 ^ x.width * 2 ^ b
            let s := s.setPte sp.owner e (leafStore (field held 0 64) (field new 0 64))
            .ok old (if e' = e then s else s.setPte sp.owner e' (leafStore (field held 64 64) (field new 64 64)))
        | _, _ => .fault 3 s

/-! Global memory. -/

/-- Bytes as they stand at a place, with no effect of an access. -/
def State.rawBytes (s : State) (loc : Loc) (n : Nat) : List Byte :=
  match loc with
  | .device _ sid va _ => s.dmem.readBytes (devKey sid va) n
  | .host pa _ => s.hmem.readBytes pa n
  | .peer .. => List.replicate n 0

/-! A byte's place, whatever address names it (R240, R241, R252, R279). -/

/-- The leaf an address is translated by: one under lease, or the table's. -/
def State.leafOf (s : State) (sp : Space) (sid va : Nat) : Option (Nat × Nat) :=
  match ((s.cg (s.homeCg sp va)).leases ++ s.hub.leases).find? fun l => l.covers sid va with
  | some l => some (l.entry, l.page)
  | none => (s.walk sp va).map fun r => (r.2.1, va / r.2.2 * r.2.2)
/-- The place of a byte of an access: the memory it lies in, and its number there. -/
def State.bytePlace (s : State) (a : Agent) (x : Access) (byte : Nat) : Nat × Nat :=
  if x.space = 1 then
    match s.clusterTeam a x.base.toNat with
    | some t => (1, cmemKey t.quad (t.cbase + firstByte (clusterBit x.base.toNat (8 * Int.ofNat byte))))
    | none => (0, byte)
  else match s.spaceOf a.ctx byte with
    | none => (0, byte)
    | some sid => match (s.space? sid).bind fun sp => s.leafOf sp sid (vaPrime byte) with
      | none => (4 + sid, vaPrime byte)
      | some (e, page) => match pteLoc e with
        | 1 => (2, ptePtr e * 2 ^ 16 + (vaPrime byte - page))
        | 2 => (3, ptePtr e * 2 ^ 16 + (vaPrime byte - page))
        | _ => (4 + sid, vaPrime byte)
/-- The bits an element covers, byte by byte. -/
def State.elementBits (s : State) (a : Agent) (x : Access) (l : LaneAcc) : List ((Nat × Nat) × Byte) :=
  (elementMask l.bit x.width 0).zipIdx.map fun m => (s.bytePlace a x (firstByte l.bit + m.2), m.1.1)
def shareBits (xs ys : List ((Nat × Nat) × Byte)) : Bool := xs.any fun p => ys.any fun q => p.1 == q.1 && p.2 &&& q.2 != 0
/-- Two elements share a bit. -/
def State.conflict (s : State) (a : Agent) (x : Access) (l : LaneAcc) (y : Access) (m : LaneAcc) : Bool :=
  decide (x.space = y.space) && shareBits (s.elementBits a x l) (s.elementBits a y m)

/-! The side queues (R264). -/

/-- The row a global byte lies in: its CG, the partition and row, and whether it is throttled; none where the MSC holds the
line. -/
def State.rowAt (s : State) (ctx va : Nat) : Option (Nat × Nat × Bool) :=
  match s.spaceOf ctx va with
  | none => none
  | some sid => match s.space? sid with
    | none => none
    | some sp =>
      let c := s.homeCg sp (vaPrime va)
      let cg := s.cg c
      match tabGet cg.chunks (chunkKey sid (vaPrime va)) with
      | none => none
      | some ch =>
        let row := Config.dramRow c ch.frame
        if cg.msc.any fun l => l.sid == sid && l.line == vaPrime va / 256 then none
        else some (c, ctx / 16 * 2 ^ 64 + row, cg.throttled.contains (ctx / 16, row / 2 ^ 20, row % 2 ^ 20))

/-- Whether a side queue's request is still wanted: a lane of an access, or a part of a command. -/
def State.sideAlive (s : State) (who : Nat × Nat × Nat) : Bool :=
  s.agents.any fun p => p.2.uid == who.1 && (p.2.accs.any (fun x => x.id == who.2.1 && x.todo.getLsbD who.2.2) ||
    p.2.cmds.any fun c => c.id == who.2.1 && c.fault.isNone && !c.did (bitAt who.2.2 0) (who.2.2 / 16) (field who.2.2 1 3))

/-- The requests that wait for a row, oldest first. -/
def State.sideQueue (s : State) (c row : Nat) : List (Nat × Nat × Nat × Nat) := (s.cg c).side.filter fun x => x.1 == row && s.sideAlive x.2
/-- Whether a read or write of the part's own (a fetch, a hint, dispatch, a channel) is held: the partition's earlier requests to
a row it needs are in the side queue, and it is not performed before them. -/
def State.sideHeld (s : State) (ctx va n : Nat) : Bool :=
  (piecesOf va n).any fun p => match s.rowAt ctx p.1 with
    | some (c, row, _) => s.sideQueue c row != []
    | none => false

/-- What a throttled row does to a request: it passes, it joins the partition's side queue, or it waits there for its turn;
the queue is released in its order, when the window has ended too. -/
inductive Side where
  | pass (s : State) | joins (s : State) | waits

def State.sideGate (s : State) (ctx : Nat) (who : Nat × Nat × Nat) (vas : List Nat) : Side :=
  match vas.findSome? (s.rowAt ctx) with
  | none => .pass s
  | some (c, row, throttled) =>
    let cg := s.cg c
    match (s.sideQueue c row).head? with
    | some x =>
      if x.2 = who then .pass (s.setCg c { cg with side := cg.side.erase (row, who) })
      else if cg.side.contains (row, who) then .waits
      else .joins (s.setCg c { cg with side := cg.side ++ [(row, who)] })
    | none => if throttled then .joins (s.setCg c { cg with side := cg.side ++ [(row, who)] }) else .pass s

/-- Host atomics (R290): what PCIe AtomicOps offer. -/
def hostAtomic : AccKind → Bool
  | .atom op w _ => (op == 0 || op == 8) && (w == 32 || w == 64)
  | .cas w => w == 32 || w == 64 || w == 128
  | _ => true

/-- Fill the L1 lines of a range from their home (R245), unless the leaf, the policy or a purge forbids it; what else a peer's
line holds is free. -/
def State.fillL1 (s : State) (quad ctx sid va n : Nat) (loc : Loc) (pol : Option Word) (bs : List Byte) : State :=
  let e := match loc with | .device _ _ _ e | .host _ e | .peer _ _ e => e
  if pteNC e || s.purging sid va then s
  else (List.range ((va % 128 + n + 127) / 128)).foldl (init := s) fun s i =>
    let line := va / 128 + i
    match loc with
    | .device c _ _ e => match s.readPiece (.device c sid (128 * line) e) 128 0 ctx pol with
      | .ok (data, s) => s.setQuad quad ((s.quad quad).fillLine sid line data)
      | .error _ => s
    | .host pa _ => s.setQuad quad ((s.quad quad).fillLine sid line (s.hmem.readBytes (pa - va % 128 + 128 * i) 128))
    | .peer .. =>
      let data := (List.range 128).map fun j =>
        let b := 128 * line + j
        if va ≤ b ∧ b < va + n then (bs.drop (b - va)).headD 0 else Config.peerByte (s.fresh + j)
      { s with fresh := s.fresh + 128 }.setQuad quad ((s.quad quad).fillLine sid line data)

/-- What a request asks of a peer (R252, R290): a kind, then its width, place and operands. -/
def Access.request (x : Access) (l : LaneAcc) : List Nat :=
  match x.kind with
  | .load | .probe => []
  | .store => [2, x.width, (l.bit % 8).toNat, l.data]
  | .atom op w _ => [16 + op, w, (l.bit % 8).toNat, l.data]
  | .cas w => [32, w, (l.bit % 8).toNat, l.data, l.cmp]

/-- One piece of a lane's access within a chunk: what it reads, or its fault. `data` is what it writes for the bytes
read there, `req` what it asks of a peer. -/
def State.performPiece (s : State) (quad ctx va n : Nat) (need : Need) (op : Nat) (kind : AccKind) (pol : Option Word) (req : List Nat)
    (data : List Byte → Option (List Byte)) : Except Nat (List Byte × Loc × State) :=
  match s.translate quad ctx va need with
  | .error c => .error c
  | .ok (.peer en pva e, s1) =>
    let (bs, s2) := s1.peerAccess en pva n req
    .ok (bs, .peer en pva e, if (data bs).isSome then s2.markWrite (.peer en pva e) ctx va else s2)
  | .ok (loc, s1) =>
    let host := match loc with | .host .. => true | _ => false
    if host && !hostAtomic kind then .error 6
    else
      let atomic := match kind with | .atom .. | .cas _ => true | _ => false
      let reads := match kind with | .store => false | _ => true
      match (if atomic then s1.frameFor loc none else .ok s1) with
      | .error c => .error c
      | .ok s1 => match (if reads then s1.readPiece loc n op ctx pol else .ok (s1.rawBytes loc n, s1)) with
        | .error c => .error c
        | .ok (bs, s2) =>
          match data bs with
          | none => .ok (bs, loc, s2)
          | some new =>
            match s2.writePiece loc new op ctx pol with
            | .error c => .error c
            | .ok s3 => .ok (bs, loc, s3.markWrite loc ctx va)

/-- A poisoned read's state: the mark of what it met stays (R258). -/
def State.poisoned (s : State) (quad ctx va n : Nat) (need : Need) : State :=
  match s.translate quad ctx va need with
  | .ok (loc, s1) => s1.markPoison loc n ctx
  | .error _ => s

/-- Whether a lane's access is performed at the hub (R249): its leaf is host or peer memory. -/
def State.atHub (s : State) (ctx va : Nat) : Bool :=
  match s.spaceOf ctx va with
  | none => false
  | some sid => match s.space? sid with
    | none => false
    | some sp => match leaseAt s sp sid (vaPrime va) (s.cg (s.homeCg sp (vaPrime va))).leases 0 with
      | none => false
      | some (l, _, _) => pteLoc l.entry != 0

/-- The lower of two fault codes; POISON (100) yields to any of R255. -/
def worst (a b : Nat) : Nat := min a b

def State.performGlobal (s : State) (k : Nat) (a : Agent) (x : Access) (l : LaneAcc) : Done :=
  let w := x.width
  let va := firstByte l.bit
  if inLeafWindow va then s.performLeaf a x l va
  else
    let quad := quadOf k
    let sid (v : Nat) : Nat := (s.spaceOf a.ctx v).getD 0
    -- what the quadrant's L1 does with a part performed: `skip` bytes of the element come before it. A line that a load has
    -- gone past is evicted, so that no later load reads what is older (R279); a store changes the runs others hold (R45)
    let after (s : State) (v n skip : Nat) (loc : Loc) (bs : List Byte) : State :=
      let drop (s : State) : State := s.setQuad quad ((s.quad quad).dropRange (sid v) (vaPrime v) n)
      let note (s : State) : State := s.noteStore (a.writer k) (sid v) (vaPrime v) n
      match x.kind with
      | .load => if x.l1 then (drop s).fillL1 quad a.ctx (sid v) (vaPrime v) n loc x.pol bs else drop s
      | .probe => s
      | .store => note (s.setQuad quad ((s.quad quad).storeLines (sid v) (vaPrime v) (((elementMask l.bit w l.data).drop skip).take n)))
      | _ => note (drop s)
    match piecesOf va (byteSpan l.bit w) with
    | [(v, n)] =>
      match s.performPiece quad a.ctx v n x.need x.msOp x.kind x.pol (x.request l)
          (fun bs => (x.newValue l (elementOf bs l.bit w)).map (putElement bs l.bit w)) with
      | .error 100 => .poison (s.poisoned quad a.ctx v n x.need)
      | .error c => .fault c s
      | .ok (bs, loc, s) => .ok (elementOf bs l.bit w) (after s v n 0 loc bs)
    | [(v₁, n₁), (v₂, n₂)] =>
      -- two chunks: loads and stores only; each part is its own access (R256, R277)
      let new (bs : List Byte) : Option (List Byte) := (x.newValue l 0).map (putElement bs l.bit w)
      let part (s : State) (v n skip : Nat) : Except Nat (List Byte × Loc × State) :=
        s.performPiece quad a.ctx v n x.need x.msOp x.kind x.pol (x.request l ++ [skip])
          (fun bs => (new (List.replicate skip 0 ++ bs ++ List.replicate (n₁ + n₂ - skip - n) 0)).map fun all => (all.drop skip).take n)
      let poison (c v n : Nat) (s : State) : State := if c = 100 then s.poisoned quad a.ctx v n x.need else s
      match part s v₁ n₁ 0 with
      | .error c₁ =>
        match part s v₂ n₂ n₁ with
        | .error c₂ =>
          if worst c₁ c₂ = 100 then .poison (poison c₂ v₂ n₂ (poison c₁ v₁ n₁ s)) else .fault (worst c₁ c₂) s
        | .ok (b, loc, s₂) =>
          let (both, s) := s.choose
          let s := if both then after { s₂ with fresh := s₂.fresh + 1 } v₂ n₂ n₁ loc b else s
          if c₁ = 100 then .poison (poison c₁ v₁ n₁ s) else .fault c₁ s
      | .ok (b₁, loc₁, s₁) =>
        match part s₁ v₂ n₂ n₁ with
        | .error c₂ =>
          let (both, s) := s.choose
          let s := if both then after { s₁ with fresh := s₁.fresh + 1 } v₁ n₁ 0 loc₁ b₁ else s
          if c₂ = 100 then .poison (poison c₂ v₂ n₂ s) else .fault c₂ s
        | .ok (b₂, loc₂, s₂) => .ok (elementOf (b₁ ++ b₂) l.bit w) (after (after s₂ v₁ n₁ 0 loc₁ b₁) v₂ n₂ n₁ loc₂ b₂)
    | _ => .fault 2 s

/-- Perform a lane where its space says (R239). -/
def State.performLane (s : State) (k : Nat) (a : Agent) (x : Access) (l : LaneAcc) : Done :=
  if x.space = 1 then s.performCluster a x l else s.performGlobal k a x l

/-! Elements that are no single access (R277). -/

/-- Whether an element is performed whole: an atomic's, or one within an aligned 32-bit word. -/
def Access.whole (x : Access) (l : LaneAcc) : Bool :=
  match x.kind with
  | .load | .store => l.bit / 32 == (l.bit + Int.ofNat x.width - 1) / 32
  | _ => true
/-- Byte j of an element as an access of its own, and where it starts in the element. -/
def Access.byteOf (x : Access) (l : LaneAcc) (j : Nat) : Access × LaneAcc × Nat :=
  let (lo, w, at_) := bytePart l.bit x.width j
  ({ x with ew := w - 1 }, { l with bit := lo, data := field l.data at_ w }, at_)
def LaneAcc.done (l : LaneAcc) (j : Nat) : Bool := l.got.any fun g => g.1 == j

/-- Perform one byte of an element ahead of the others. -/
def State.performByte (s : State) (k : Nat) (a : Agent) (x : Access) (l : LaneAcc) (j : Nat) : Done :=
  let (x', l', _) := x.byteOf l j
  s.performLane k a x' l'

/-- Perform what is left of an element, byte by byte. -/
def performRest (k : Nat) (a : Agent) (x : Access) (l : LaneAcc) : List Nat → Nat → State → Done
  | [], v, s => .ok v s
  | j :: js, v, s =>
    let (x', l', at_) := x.byteOf l j
    match s.performLane k a x' l' with
    | .ok b s => performRest k a x l js (v + b * 2 ^ at_) s
    | r => r
/-- Perform a lane's element, whole where no byte of it has been performed. -/
def State.performElement (s : State) (k : Nat) (a : Agent) (x : Access) (l : LaneAcc) : Done :=
  if l.got = [] then s.performLane k a x l
  else
    let v := l.got.foldl (fun v g => v + g.2 * 2 ^ (x.byteOf l g.1).2.2) 0
    performRest k a x l ((List.range (byteSpan l.bit x.width)).filter fun j => !l.done j) v s

end Sys2Proof.Machine
end

