-- ==== Sys2Proof/Machine/VectorInt.lean ====
section
/-! DEFINITION. The vector integer, predicate and cross-lane instructions of opcodes 0x20 to 0x24 and 0x28 to 0x2A
(R128 to R146), and the block and indirect-register words of opcodes 0x18 and 0x19 (R121 to R127). -/

namespace Sys2Proof.Machine

/-- The part of a reuse key that OPC, FN and MOD make (R115). -/
def wordKey (opc fn mod : Nat) : Nat := (opc * 64 + fn) * 64 + mod

/-- All 32 lanes of a source. -/
def Agent.vec (a : Agent) (o : Operand) : LaneVec := laneFn fun i => a.lane o i

/-! Opcode 0x20 (R131 to R133). -/

def execVadd (p : Pred) (nr : Bool) (d : VDst) (a b : Operand) (s : State) : Res := binaryWord (wordKey 0x20 0 0) p nr d a b (· + ·) s
def execVsub (p : Pred) (nr : Bool) (d : VDst) (a b : Operand) (s : State) : Res := binaryWord (wordKey 0x20 1 0) p nr d a b (· - ·) s
def execVmul (p : Pred) (nr : Bool) (d : VDst) (a b : Operand) (s : State) : Res := binaryWord (wordKey 0x20 2 0) p nr d a b (· * ·) s
def execVmulh (p : Pred) (nr z : Bool) (d : VDst) (a b : Operand) (s : State) : Res := binaryWord (wordKey 0x20 3 z.toNat) p nr d a b (mulHi z) s
def execVmad (p : Pred) (nr : Bool) (d : VDst) (a b c : Operand) (s : State) : Res :=
  ternaryWord (wordKey 0x20 4 0) p nr d a b c (fun x y z => x * y + z) s
/-- R132. -/
def execVadds (p : Pred) (nr z : Bool) (w : Width) (d : VDst) (a b : Operand) (s : State) : Res :=
  binaryWord (wordKey 0x20 5 (z.toNat + 2 * (32 / widthBits w))) p nr d a b (satElems false z w) s
def execVsubs (p : Pred) (nr z : Bool) (w : Width) (d : VDst) (a b : Operand) (s : State) : Res :=
  binaryWord (wordKey 0x20 6 (z.toNat + 2 * (32 / widthBits w))) p nr d a b (satElems true z w) s
def execVabs (p : Pred) (nr sat : Bool) (d : VDst) (a : Operand) (s : State) : Res :=
  unaryWord (wordKey 0x20 7 sat.toNat) p nr d a (absWord sat) s
def execVneg (p : Pred) (nr sat : Bool) (d : VDst) (a : Operand) (s : State) : Res :=
  unaryWord (wordKey 0x20 8 sat.toNat) p nr d a (negWord sat) s
def execVmin (p : Pred) (nr z : Bool) (d : VDst) (a b : Operand) (s : State) : Res := binaryWord (wordKey 0x20 9 z.toNat) p nr d a b (minWord z) s
def execVmax (p : Pred) (nr z : Bool) (d : VDst) (a b : Operand) (s : State) : Res := binaryWord (wordKey 0x20 10 z.toNat) p nr d a b (maxWord z) s
/-- R133. -/
def execVdot4 (p : Pred) (nr az bz sat : Bool) (d : VDst) (a b c : Operand) (s : State) : Res :=
  ternaryWord (wordKey 0x20 11 (az.toNat + 2 * bz.toNat + 4 * sat.toNat)) p nr d a b c (dot4Word az bz sat) s
def execVsad (p : Pred) (nr h : Bool) (d : VDst) (a b c : Operand) (s : State) : Res :=
  ternaryWord (wordKey 0x20 12 h.toNat) p nr d a b c (sadWord h) s

/-! Opcode 0x21 (R134). -/

def execVand (p : Pred) (nr : Bool) (d : VDst) (a b : Operand) (s : State) : Res := binaryWord (wordKey 0x21 0 0) p nr d a b (· &&& ·) s
def execVor (p : Pred) (nr : Bool) (d : VDst) (a b : Operand) (s : State) : Res := binaryWord (wordKey 0x21 1 0) p nr d a b (· ||| ·) s
def execVxor (p : Pred) (nr : Bool) (d : VDst) (a b : Operand) (s : State) : Res := binaryWord (wordKey 0x21 2 0) p nr d a b (· ^^^ ·) s
def execVandn (p : Pred) (nr : Bool) (d : VDst) (a b : Operand) (s : State) : Res := binaryWord (wordKey 0x21 3 0) p nr d a b (fun x y => x &&& ~~~y) s
def execVnot (p : Pred) (nr : Bool) (d : VDst) (a : Operand) (s : State) : Res := unaryWord (wordKey 0x21 4 0) p nr d a (~~~ ·) s
def execVshl (p : Pred) (nr : Bool) (d : VDst) (a b : Operand) (s : State) : Res := binaryWord (wordKey 0x21 5 0) p nr d a b shlWord s
def execVshr (p : Pred) (nr : Bool) (d : VDst) (a b : Operand) (s : State) : Res := binaryWord (wordKey 0x21 6 0) p nr d a b shrWord s
def execVsra (p : Pred) (nr : Bool) (d : VDst) (a b : Operand) (s : State) : Res := binaryWord (wordKey 0x21 7 0) p nr d a b sraWord s
def execVrot (p : Pred) (nr : Bool) (d : VDst) (a b : Operand) (s : State) : Res := binaryWord (wordKey 0x21 8 0) p nr d a b rotWord s
def execVclz (p : Pred) (nr : Bool) (d : VDst) (a : Operand) (s : State) : Res := unaryWord (wordKey 0x21 9 0) p nr d a clzWord s
def execVpopc (p : Pred) (nr : Bool) (d : VDst) (a : Operand) (s : State) : Res := unaryWord (wordKey 0x21 10 0) p nr d a popWord s
def execVbfe (p : Pred) (nr z : Bool) (d : VDst) (a b : Operand) (s : State) : Res := binaryWord (wordKey 0x21 11 z.toNat) p nr d a b (bfeWord z) s
/-- The base is C (R134). -/
def execVbfi (p : Pred) (nr : Bool) (d : VDst) (a b c : Operand) (s : State) : Res :=
  ternaryWord (wordKey 0x21 12 0) p nr d a b c (fun x y z => bfiWord z x y) s
def execVbrev (p : Pred) (nr : Bool) (d : VDst) (a : Operand) (s : State) : Res := unaryWord (wordKey 0x21 13 0) p nr d a brevWord s

/-! Opcode 0x22 (R136 to R138). -/

def execVcmp (p : Pred) (_nr : Bool) (cc : BitVec 3) (d : PNum) (a b : Operand) (s : State) : Res :=
  predWord p d [a, b] (fun g _ i => condHolds cc (g.lane a i) (g.lane b i)) s
/-- The key holds the selecting predicate (R146). -/
def execVsel (p : Pred) (nr : Bool) (c : PNum) (d : VDst) (a b : Operand) (s : State) : Res :=
  laneWord (wordKey 0x22 1 c.toNat) (fun g => [(g.p c).toNat]) p nr [a, b] d
    (fun g _ i => if (g.p c).getLsbD i then g.lane a i else g.lane b i) s
/-- A whole register's name moves (R111). -/
def execVmov (p : Pred) (nr : Bool) (d : VDst) (b : Operand) (s : State) : Res :=
  vectorWord p [operandCodeOf b] [vdstCodeOf d] (namedDst d ++ namedOf b) s fun s k a act =>
    vectorResultOn (a.moveOf act b) act (some ⟨wordKey 0x22 2 0, [], []⟩) nr [b] d (a.lane b) 0 s k a act
/-- R137: the source lane is read whether or not it is active. -/
def execVbcast (p : Pred) (nr : Bool) (d : VDst) (a : Operand) (src : BcastSrc) (s : State) : Res :=
  match src with
  | .sreg n => laneWord (wordKey 0x22 3 0) (fun _ => []) p nr [a, .b n] d (fun g _ _ => g.lane a ((g.s n.toNat).toNat % 32)) s
  | .first => laneWord (wordKey 0x22 3 1) (fun _ => []) p nr [a] d (fun g act _ => g.lane a ((lanesOf act).headD 0)) s
/-- Lane i's value of VLANE (R137). -/
def vlaneWord (m : BitVec 2) (gang i : Nat) : Word :=
  match m.toNat with
  | 0 => word i
  | 1 => word (i / 4)
  | 2 => word (i % 4)
  | _ => word (32 * gang + i)
/-- VLANE.GANG is never reused (R146). -/
def execVlane (p : Pred) (nr : Bool) (m : BitVec 2) (d : VDst) (s : State) : Res :=
  vectorWord p [] [vdstCodeOf d] (namedDst d) s fun s k a act =>
    vectorResult (if m = 3 then none else some ⟨wordKey 0x22 4 m.toNat, [], []⟩) nr [] d (vlaneWord m a.gang) 0 s k a act
def execVext (p : Pred) (nr sx half : Bool) (d : VDst) (a b : Operand) (s : State) : Res :=
  binaryWord (wordKey 0x22 5 (sx.toNat + 2 * half.toNat)) p nr d a b (extWord sx half) s
/-- R138. -/
def execVpack (p : Pred) (nr z : Bool) (form : PackForm) (d : VDst) (a b : Operand) (s : State) : Res :=
  match form with
  | .half => binaryWord (wordKey 0x22 6 z.toNat) p nr d a b (fun x y => word (packSat z 16 x + packSat z 16 y * 2 ^ 16)) s
  | .byteLo c => ternaryWord (wordKey 0x22 6 (z.toNat + 2)) p nr d a b c
      (fun x y w => word (packSat z 8 x + packSat z 8 y * 2 ^ 8 + field w.toNat 16 16 * 2 ^ 16)) s
  | .byteHi c => ternaryWord (wordKey 0x22 6 (z.toNat + 6)) p nr d a b c
      (fun x y w => word (field w.toNat 0 16 + packSat z 8 x * 2 ^ 16 + packSat z 8 y * 2 ^ 24)) s

/-! Opcode 0x23 (R139, R140). -/

def execPlop (p : Pred) (nr : Bool) (op : POp) (s : State) : Res :=
  match op with
  | .and d a b => predWord p d [] (fun g _ i => (g.p a &&& g.p b).getLsbD i) s
  | .or d a b => predWord p d [] (fun g _ i => (g.p a ||| g.p b).getLsbD i) s
  | .xor d a b => predWord p d [] (fun g _ i => (g.p a ^^^ g.p b).getLsbD i) s
  | .andn d a b => predWord p d [] (fun g _ i => (g.p a &&& ~~~ g.p b).getLsbD i) s
  | .not d a => predWord p d [] (fun g _ i => (~~~ g.p a).getLsbD i) s
  | .mov d a => predWord p d [] (fun g _ i => (g.p a).getLsbD i) s
  | .set d => predWord p d [] (fun _ _ _ => true) s
  | .clr d => predWord p d [] (fun _ _ _ => false) s
  | .fromv d a => predWord p d [a] (fun g _ i => g.lane a i != 0#32) s
  | .tov d a => laneWord (wordKey 0x23 0 9) (fun g => [(g.p a).toNat]) p nr [] d
      (fun g _ i => if (g.p a).getLsbD i then 1#32 else 0#32) s

def execPcnt (p : Pred) (nr : Bool) (d : Operand) (a : PNum) (s : State) : Res :=
  eitherWord (wordKey 0x23 1 0) (fun g => [(g.p a).toNat]) p nr d [] (fun g act => popWord (g.p a &&& act)) s
/-- The lowest or highest set bit, or 32. -/
def firstBit (last : Bool) (e : Mask) : Word :=
  match if last then (lanesOf e).reverse else lanesOf e with
  | [] => 32#32
  | i :: _ => word i
def execPfirst (p : Pred) (nr last : Bool) (d : Operand) (a : PNum) (s : State) : Res :=
  eitherWord (wordKey 0x23 2 last.toNat) (fun g => [(g.p a).toNat]) p nr d [] (fun g act => firstBit last (g.p a &&& act)) s

/-! Opcode 0x24 (R141 to R145). -/

def execVperm (p : Pred) (nr : Bool) (d : VDst) (a b : Operand) (s : State) : Res :=
  laneWord (wordKey 0x24 0 0) (fun _ => []) p nr [a, b] d (fun g _ i => g.lane a ((g.lane b i).toNat % 32)) s
/-- Lane i of VPUSH: the highest-numbered active lane that pushes to it, or the fill (R141). -/
def pushLane (a b c : Nat → Word) (act : Mask) (i : Nat) : Word :=
  (lanesOf act).foldl (fun v j => if (b j).toNat % 32 = i then a j else v) (c i)
def execVpush (p : Pred) (nr : Bool) (d : VDst) (a b c : Operand) (s : State) : Res :=
  laneWord (wordKey 0x24 1 0) (fun _ => []) p nr [a, b, c] d (fun g act i => pushLane (g.lane a) (g.lane b) (g.lane c) act i) s
def execVswz (p : Pred) (nr : Bool) (pat : BitVec 3) (d : VDst) (a : Operand) (s : State) : Res :=
  laneWord (wordKey 0x24 2 pat.toNat) (fun _ => []) p nr [a] d (fun g _ i => g.lane a (swzLane pat i)) s
def execVmatch (p : Pred) (nr : Bool) (d : VDst) (a : Operand) (s : State) : Res :=
  laneWord (wordKey 0x24 3 0) (fun _ => []) p nr [a] d
    (fun g act i => maskFn (fun j => act.getLsbD j && g.lane a j == g.lane a i)) s
def execVred (p : Pred) (nr : Bool) (op : BitVec 3) (d : Operand) (a : Operand) (s : State) : Res :=
  eitherWord (wordKey 0x24 4 op.toNat) (fun _ => []) p nr d [a] (fun g act => redAll op (lanesOf act) (g.vec a)) s
def execVscan (p : Pred) (nr ex : Bool) (op : BitVec 3) (d : VDst) (a : Operand) (s : State) : Res :=
  laneWord (wordKey 0x24 5 (op.toNat + 8 * ex.toNat)) (fun _ => []) p nr [a] d
    (fun g act i => redAll op ((lanesOf act).filter fun j => if ex then decide (j < i) else decide (j ≤ i)) (g.vec a)) s
/-- R145. -/
def voteOf (m : Vote) (e act : Mask) : Bool :=
  match m with
  | .any => e != 0#32
  | .all => e == act
  | .eq => e == 0#32 || e == act
def execVvote (p : Pred) (_nr : Bool) (m : Vote) (d a : PNum) (s : State) : Res :=
  predWord p d [] (fun g act _ => voteOf m (g.p a &&& act) act) s
def execVballot (p : Pred) (nr : Bool) (d : Operand) (a : PNum) (s : State) : Res :=
  eitherWord (wordKey 0x24 7 0) (fun g => [(g.p a).toNat]) p nr d [] (fun g act => g.p a &&& act) s

/-! The immediate forms (R48, R135). -/

def execVaddImm (p : Pred) (nr : Bool) (d : VDst) (a : Operand) (imm : BitVec 24) (s : State) : Res := immWord (wordKey 0x28 0 0) p nr d a imm (· + ·) s
def execVsubImm (p : Pred) (nr : Bool) (d : VDst) (a : Operand) (imm : BitVec 24) (s : State) : Res := immWord (wordKey 0x28 1 0) p nr d a imm (· - ·) s
def execVmulImm (p : Pred) (nr : Bool) (d : VDst) (a : Operand) (imm : BitVec 24) (s : State) : Res := immWord (wordKey 0x28 2 0) p nr d a imm (· * ·) s
/-- With an immediate, every element of B is the low w bits of the 32-bit value (R135). -/
def repeatLow (w : Width) (b : Word) : Word :=
  let n := widthBits w
  word ((List.range (32 / n)).foldl (fun (acc k : Nat) => acc + b.toNat % 2 ^ n * 2 ^ (n * k)) 0)
def execVaddsImm (p : Pred) (nr z : Bool) (w : Width) (d : VDst) (a : Operand) (imm : BitVec 24) (s : State) : Res :=
  immWord (wordKey 0x28 5 (z.toNat + 2 * (32 / widthBits w))) p nr d a imm (fun x y => satElems false z w x (repeatLow w y)) s
def execVsubsImm (p : Pred) (nr z : Bool) (w : Width) (d : VDst) (a : Operand) (imm : BitVec 24) (s : State) : Res :=
  immWord (wordKey 0x28 6 (z.toNat + 2 * (32 / widthBits w))) p nr d a imm (fun x y => satElems true z w x (repeatLow w y)) s
def execVminImm (p : Pred) (nr z : Bool) (d : VDst) (a : Operand) (imm : BitVec 24) (s : State) : Res := immWord (wordKey 0x28 9 z.toNat) p nr d a imm (minWord z) s
def execVmaxImm (p : Pred) (nr z : Bool) (d : VDst) (a : Operand) (imm : BitVec 24) (s : State) : Res := immWord (wordKey 0x28 10 z.toNat) p nr d a imm (maxWord z) s
def execVandImm (p : Pred) (nr : Bool) (d : VDst) (a : Operand) (imm : BitVec 24) (s : State) : Res := immWord (wordKey 0x29 0 0) p nr d a imm (· &&& ·) s
def execVorImm (p : Pred) (nr : Bool) (d : VDst) (a : Operand) (imm : BitVec 24) (s : State) : Res := immWord (wordKey 0x29 1 0) p nr d a imm (· ||| ·) s
def execVxorImm (p : Pred) (nr : Bool) (d : VDst) (a : Operand) (imm : BitVec 24) (s : State) : Res := immWord (wordKey 0x29 2 0) p nr d a imm (· ^^^ ·) s
def execVandnImm (p : Pred) (nr : Bool) (d : VDst) (a : Operand) (imm : BitVec 24) (s : State) : Res := immWord (wordKey 0x29 3 0) p nr d a imm (fun x y => x &&& ~~~y) s
def execVshlImm (p : Pred) (nr : Bool) (d : VDst) (a : Operand) (imm : BitVec 24) (s : State) : Res := immWord (wordKey 0x29 5 0) p nr d a imm shlWord s
def execVshrImm (p : Pred) (nr : Bool) (d : VDst) (a : Operand) (imm : BitVec 24) (s : State) : Res := immWord (wordKey 0x29 6 0) p nr d a imm shrWord s
def execVsraImm (p : Pred) (nr : Bool) (d : VDst) (a : Operand) (imm : BitVec 24) (s : State) : Res := immWord (wordKey 0x29 7 0) p nr d a imm sraWord s
def execVrotImm (p : Pred) (nr : Bool) (d : VDst) (a : Operand) (imm : BitVec 24) (s : State) : Res := immWord (wordKey 0x29 8 0) p nr d a imm rotWord s
def execVcmpImm (p : Pred) (_nr : Bool) (cc : BitVec 3) (d : PNum) (a : Operand) (imm : BitVec 24) (s : State) : Res :=
  predWord p d [a] (fun g _ i => condHolds cc (g.lane a i) (sext24 imm)) s
def execVmovImm (p : Pred) (nr : Bool) (d : VDst) (imm : BitVec 24) (s : State) : Res :=
  laneWord (wordKey 0x2A 2 0) (fun _ => [imm.toNat]) p nr [] d (fun _ _ _ => sext24 imm) s

/-! Register blocks (R121 to R125). -/

/-- The blocks of a mask that the gang does not hold. -/
def Agent.missing (a : Agent) (m : BitVec 3) : BitVec 3 := m &&& ~~~ a.blocks
def blockList (m : BitVec 3) : List Nat := (List.range 3).filter fun i => m.getLsbD i

/-- GROW.B (R122): the gang blocks until its one block is granted under R124. -/
def execGrowB (p : Pred) (m : BitVec 3) (s : State) : Res :=
  uniformWord .gang false [] p [] s fun s k a =>
    match blockList (a.missing m) with
    | [] => .done (s.setAgent k { a with block := .none })
    | b :: _ =>
      let s1 := growGrants 49 (quadOf k) (s.setAgent k { a with block := .grow b })
      match s1.agent? k with
      | some a1 => if a1.missing m = 0 then .done s1 else .wait false s1
      | none => .done s1
/-- GROW.T (R122): never waits. -/
def execGrowT (p : Pred) (d : PNum) (m : BitVec 3) (s : State) : Res :=
  uniformWord .gang false [] p [] s fun s k a =>
    let r := a.missing m
    if r = 0 then .done (s.setAgent k (a.setQ d true))
    else if (s.oldestGrow (quadOf k)).isNone && decide (64 * (blockList r).length ≤ s.freeEntries (quadOf k)) then
      .done (s.setAgent k (((blockList r).foldl Agent.grant a).setQ d true))
    else .done (s.setAgent k (a.setQ d false))
/-- SHRINK (R122): a word that writes every register it releases, so it waits for results under way to them (DEDUCED, log
66); the names of the released registers go, and the entries return as freed capacity (R124). -/
def execShrink (p : Pred) (m : BitVec 3) (s : State) : Res :=
  uniformWord .gang false [] p [] s fun s k a =>
    let r := m &&& a.blocks
    let ns := (blockList r).flatMap blockRegs
    if ns.any (fun n => a.busy (vCode n)) then .wait false s
    else
      let s := s.setQuad (quadOf k) ((s.quad (quadOf k)).releaseRegs a ns)
      let s := s.setAgent k { a.clearRegs ns with blocks := a.blocks &&& ~~~ r }
      .done (s.freedCapacity (quadOf k) (64 * (blockList r).length))

/-! Indirect access (R126, R127). -/

/-- The index, exact. -/
def indexOf (a : Agent) (r : BitVec 7) (imm : BitVec 24) : Int := (a.s r.toNat).toInt + imm.toInt
def indexOk (a : Agent) (n : Int) : Bool := decide (0 ≤ n) && decide (n ≤ 255) && a.hasV n.toNat

/-- The frame of VRDI and VWRI: the index is checked on every issue, active lanes or none (R127). With no active lane too they wait
for v(n) and the data source, and meet a parked load of one: DESIGN CHOICE (log 80), the spec does not say. -/
def indexWord (p : Pred) (read : Bool) (dst : VDst) (r : BitVec 7) (imm : BitVec 24) (s : State)
    (body : State → Nat → Agent → Mask → Nat → Verdict) : Res :=
  match s.agent? s.cur with
  | none => .fault .noIssuer
  | some a =>
    if isSeq s.cur then endWord s s.cur a 0 (illegal 0x15)
    else match (namedDst dst).find? fun n => !a.hasV n with
      | some n => endWord s s.cur a (a.active p) (regblock n)
      | none => match readWait s s.cur a [sCode r.toNat] [] with
        | some r => r
        | none =>
          let n := indexOf a r imm
          if !indexOk a n then endWord s s.cur a (a.active p) (regblock (lowBits 8 n))
          else
            let reads := if read then [vCode n.toNat] else [vdstCodeOf dst]
            let writes := if read then [vdstCodeOf dst] else [vCode n.toNat]
            match readWait s s.cur a reads writes with
            | some r => r
            | none =>
              if a.active p = 0 then endWord s s.cur a 0 (.done s)
              else
                let o := s.overwrite s.cur a writes
                endWord s s.cur a (a.active p) (body o.1 s.cur o.2 (a.active p) n.toNat)

def execVrdi (p : Pred) (_nr : Bool) (d : VDst) (r : BitVec 7) (imm : BitVec 24) (s : State) : Res :=
  indexWord p true d r imm s fun s k a act n => .done (s.moveDst (a.moveOf act (.v (BitVec.ofNat 8 n))) k a act d fun i => lane (a.v n) i)
def execVwri (p : Pred) (_nr : Bool) (d : VDst) (r : BitVec 7) (imm : BitVec 24) (s : State) : Res :=
  indexWord p false d r imm s fun s k a act n => .done (s.writeDst k a act (.v (BitVec.ofNat 8 n)) fun i => a.lane (VDst.src d) i)

end Sys2Proof.Machine
end

