-- ==== Sys2Proof/Machine/Memory.lean ====
section
/-! DEFINITION. The access words of opcode 0x58 (R265 to R274), the atomics of opcodes 0x65 to 0x67 (R290 to R295),
and the steps that perform, return, acknowledge and trap them (R244 to R256, R376, R377). -/

namespace Sys2Proof.Machine

/-! Releases and acquires (R281, R287). -/

/-- An acquire whose own access has not returned holds back every later access (R281). -/
def Agent.acquiring (a : Agent) : Bool := a.accs.any fun x => x.acq.isSome && x.pend != 0

/-- A parked load that the present mode sees (R376, R383). -/
def Agent.sees (a : Agent) (x : Access) : Bool := x.parked && (!a.sv || x.sup)
def Agent.parkedLoad (a : Agent) : Option Access := a.accs.find? a.sees
/-- A later access waits for an acquire that has not taken place: its load is still out, or parked (R281). -/
def orderWait (s : State) (a : Agent) (body : Verdict) : Verdict :=
  if a.acquiring then .wait false s
  else match a.accs.find? fun x => x.acq.isSome && a.sees x with
    | some x => .behind x
    | none => body
/-- A word that follows every earlier load waits for those still out, or parked (R281). -/
def loadsWait (s : State) (a : Agent) (body : Verdict) : Verdict :=
  if a.accs.any Access.waiting then .wait false s
  else match a.parkedLoad with
    | some x => .behind x
    | none => body

/-- Whether an earlier access of the same lane touches a bit of this element, by whatever address (R279): one not yet
performed, or, of a write, a load lane that faulted and may be replayed. -/
def State.blocks (s : State) (a : Agent) (y x : Access) (l : LaneAcc) : Bool :=
  y.space == x.space && y.uniform == x.uniform &&
  y.lanes.any fun m => m.lane == l.lane &&
    (y.todo.getLsbD m.lane || (x.msOp != 0 && y.dst.isSome && y.faulted.getLsbD m.lane)) && s.conflict a y m x l
/-- Whether a write waits only behind parked loads. -/
def State.heldBack (s : State) (a : Agent) (x : Access) : Bool :=
  x.todo != 0 && x.lanes.all fun l => !x.todo.getLsbD l.lane ||
    (a.accs.takeWhile fun y => y.id != x.id).any fun y => y.parked && s.blocks a y x l
/-- Where a release stands: earlier accesses are out, a load is parked, a held fault is reported, or it may take place. -/
inductive RelSt where
  | ready | waits
  | parked (x : Access)
  | report (x : Access)

/-- A load that has faulted no longer holds a release back: its trap is taken when the run has ended (R376, R407). A store
that waits behind one does, until the load's trap; in that load's handler it does not: DESIGN CHOICE (log 70). In a handler no
held record is reported (R418). -/
def State.releaseSt (s : State) (a : Agent) (loads : Bool) : RelSt :=
  let held : RelSt := match a.heldStores with
    | x :: _ => if a.sv then .ready else .report x
    | [] => .ready
  if loads && a.accs.any Access.waiting || a.accs.any (fun x => x.isWrite && x.pend != 0 && !s.heldBack a x) then .waits
  else if a.usc = 0 then held
  else match a.parkedLoad with
    | some x => .parked x
    | none => held

/-- The report of the oldest held store record (R374, R377): MEM kind 2. -/
def reportHeld (x : Access) : Verdict := .trap 0x09 (x.report.1 + 512) (some x.report.2) x.faultAddr (some x.id)

/-- Matrix commands of the agent that issues: a release waits for them (R216). -/
def State.matrixOut (s : State) : Bool := (s.quad (quadOf s.cur)).queue.any fun c => c.agent == s.cur

/-- A word that releases first, at a scope. -/
def afterRelease (rel : Option Nat) (s : State) (a : Agent) (body : State → Verdict) : Verdict :=
  orderWait s a <| match rel with
    | none => body s
    | some scope =>
      if s.matrixOut then .wait false s
      else match s.releaseSt a true with
        | .waits => .wait false s
        | .parked x => .behind x
        | .report x => reportHeld x
        | .ready => body (s.released a scope)

/-! Elements and the checks at the quadrant (R239 to R244, R255, R256). -/

def policyOf (a : Agent) (pol : SReg) : Option Word := if pol = 0 then none else some (a.s pol.toNat)
/-- A reserved bit of a policy word sets WARN (R260), and its word is never looked up or recorded (R117). -/
def polWarns (p : Option Word) : Bool := match p with | some w => field w.toNat 28 4 != 0 | none => false
def Agent.warnPol (a : Agent) (p : Option Word) : Agent :=
  if polWarns p then { a with warn := true } else a

/-- Lane i's element: the bit at 8B + w × off. -/
def elemBit (base : Dword) (w : Nat) (off : Int) : Int := 8 * Int.ofNat base.toNat + Int.ofNat w * off

def mkLane (l : Nat) (b : Int) (data cmp : Nat) : LaneAcc := { lane := l, bit := b, data, cmp, value := 0, got := [] }

/-- The code a lane faults with at the quadrant, or 0: PAGE under R240, PERM in the own allocation. -/
def State.quadCheck (s : State) (a : Agent) (space : Nat) (base : Dword) (w : Nat) (l : LaneAcc) : Nat :=
  if space = 1 then
    if bitAt base.toNat 31 then 0
    else match s.clusterTeam a base.toNat with
      | none => 3
      | some t => if inAlloc t (clusterBit base.toNat l.bit) w then 0 else 3
  else if l.bit < 0 || (s.spaceOf a.ctx (firstByte l.bit)).isNone ||
      (s.spaceOf a.ctx (firstByte (l.bit + Int.ofNat w - 1))).isNone then 2
  else 0

/-- The precise fault of an access, if any: the lowest code, its lanes, the lowest lane's address (R256, R374). -/
def State.preciseFault (s : State) (a : Agent) (space : Nat) (base : Dword) (w : Nat) (aligned : Bool) (ls : List LaneAcc) : Option Verdict :=
  let code (l : LaneAcc) : Nat :=
    if base.toNat % 4 ≠ 0 || (aligned && l.bit % Int.ofNat w != 0) then 1 else s.quadCheck a space base w l
  let bad := (ls.map fun l => (l, code l)).filter fun p => p.2 != 0
  match bad with
  | [] => none
  | p :: ps =>
    let c := ps.foldl (fun m q => min m q.2) p.2
    let at_ := bad.filter fun q => q.2 == c
    some (memPrecise c (maskFn fun i => at_.any fun q => q.1.lane == i) ((at_.headD p).1.bit / 8 % (2 ^ 64 : Nat)).toNat)

/-! Issue. -/

/-- The store records (R377). -/
def Agent.records (a : Agent) : Nat := (a.accs.filter Access.isWrite).length
/-- Results written and not yet delivered to vector registers: one entry each (R114). -/
def Access.results (x : Access) : Nat := (x.dsts.filter (· < 256)).length
def State.inFlight (s : State) (q : Nat) : Nat :=
  (s.gangsOn q).foldl (fun n p => n + ((p.2.accs.filter fun x => x.waiting || x.parked).map Access.results).sum) 0

/-- A word that adds undelivered results waits while the in-flight pool of 128 entries has no room for them (R114): a parked
load keeps its entries. The stall always ends: where nothing of the quadrant is still on its way, a gang with parked loads takes
their trap at the word, and in their handler it goes on: DESIGN CHOICE (log 70). -/
def poolWait (s : State) (k : Nat) (a : Agent) (x : Access) (body : Verdict) : Verdict :=
  if x.results = 0 || s.inFlight (quadOf k) + x.results ≤ 128 then body
  else if (s.gangsOn (quadOf k)).any fun p => p.2.accs.any fun y => y.waiting && y.results != 0 then .wait true s
  else match a.parkedLoad with
    | some y => .behind y
    | none => if a.accs.any Access.parked then body else .wait true s

/-- The bytes of an element in the L1, if every line of it is present (R245). -/
def Quad.l1Bytes (q : Quad) (sid va n : Nat) : Option (List Byte) :=
  (List.range n).mapM fun i => (q.l1Line sid ((va + i) / 128)).map fun l => (l.data.drop ((va + i) % 128)).headD 0

/-- The L1 lines of an element. -/
def elementLines (sid : Nat) (l : LaneAcc) (w : Nat) : List (Nat × Nat) :=
  let va := vaPrime (firstByte l.bit)
  (List.range ((va % 128 + byteSpan l.bit w + 127) / 128)).map fun i => (sid, va / 128 + i)

/-- A lane's value from the L1 (R285). -/
def State.l1Value (s : State) (k : Nat) (a : Agent) (x : Access) (l : LaneAcc) : Option Nat :=
  let va := firstByte l.bit
  match s.spaceOf a.ctx va with
  | none => none
  | some sid =>
    if windowOf va != windowOf (firstByte (l.bit + Int.ofNat x.width - 1)) || a.accs.any (fun y => s.blocks a y x l) then none
    else ((s.quad (quadOf k)).l1Bytes sid (vaPrime va) (byteSpan l.bit x.width)).map fun bs => elementOf bs l.bit x.width

def Agent.addAccess (a : Agent) (x : Access) : Agent := { a with accs := a.accs ++ [x], ids := max a.ids (x.id + 1) }
def Agent.dropAccess (a : Agent) (id : Nat) : Agent := { a with accs := a.accs.filter fun x => x.id != id }
def Agent.putAccess (a : Agent) (x : Access) : Agent := { a with accs := a.accs.map fun y => if y.id = x.id then x else y }

/-- The L1 lines of an access. -/
def State.accessLines (s : State) (a : Agent) (x : Access) : List (Nat × Nat) :=
  (x.lanes.flatMap fun l => elementLines ((s.spaceOf a.ctx (firstByte l.bit)).getD 0) l x.width).eraseDups
/-- The lines a load read, each held in the quadrant's L1 (R273). -/
def State.heldLines (s : State) (k : Nat) (a : Agent) (x : Access) : Option (List (Nat × Nat)) :=
  let ls := s.accessLines a x
  if ls.all fun l => ((s.quad (quadOf k)).l1Line l.1 l.2).isSome then some ls else none

/-- Write an access's returned lanes to its destinations, the lanes of m: a register the gang no longer holds takes none. -/
def State.deliverTo (s : State) (k : Nat) (a : Agent) (x : Access) (m : Mask) : State :=
  (x.dsts.zipIdx).foldl (init := s) fun s p =>
    match s.agent? k with
    | none => s
    | some a' =>
      let val (i : Nat) : Word := match x.lanes.find? fun l => l.lane == i with
        | some l => word (field l.value (32 * p.2) 32)
        | none => 0#32
      if 512 ≤ p.1 then
        if m = 0 then s else s.setAgent k (a'.setS (p.1 - 512) (word (match x.lanes.head? with | some l => l.value | none => 0)))
      else if 256 ≤ p.1 then
        if x.run = a.runs && a'.run.isSome then s.writeDst k a' m (.t (BitVec.ofNat 3 (p.1 - 256))) val else s
      else if a'.hasV p.1 then s.writeDst k a' m (.v (BitVec.ofNat 8 p.1)) val
      else s

/-- A load has returned whole (R272): its value is delivered, and recorded where every line it read is held in the L1 (R273);
then its acquire takes place (R281). -/
def State.completeLoad (s : State) (k : Nat) (a : Agent) (x : Access) : State :=
  let a := { a with tokens := a.tokens.filter fun t => !x.dsts.contains t.2 }
  let s := (s.setAgent k (a.dropAccess x.id)).deliverTo k a x (maskFn fun i => x.lanes.any fun l => l.lane == i)
  let s := match x.memo, x.dst, s.heldLines k a x with
    | some m, some d, some lines => s.reuseRecord k m [] d 0 lines
    | _, _, _ => s
  match x.acq with
  | some sc => s.acquire k a.ctx sc
  | none => s

/-- What a load's word gives the reuse table (R273). -/
structure LoadReuse where
  word : Nat
  nr : Bool
  srcs : List Operand
  deriving DecidableEq, Repr

def loadMemo (s : State) (k : Nat) (a : Agent) (x : Access) (r : LoadReuse) (act : Mask) (d : Nat) : Memo :=
  let sid := match s.spaceOf a.ctx x.base.toNat with | some i => i | none => 0
  let u : Reuse := ⟨r.word, [sid, x.base.toNat, match x.pol with | some p => p.toNat + 1 | none => 0, x.ew], []⟩
  ⟨reuseKey a u r.srcs act d, reuseDeps (s.quad (quadOf k)) a r.srcs act d⟩

/-- An access enters its agent (R272). A load's lanes that the L1 serves return at once (R285); a line present may
have been evicted before. Where every lane is served, the load is complete, or the reuse table's (R273, R274). -/
def State.issueLoad (s : State) (k : Nat) (a : Agent) (x : Access) (r : LoadReuse) (act : Mask) : Verdict :=
  let x := { x with id := a.ids }
  let held := x.space = 0 && x.lanes.any fun l => (s.l1Value k a x l).isSome
  let (gone, s) := if held then s.choose else (true, s)
  let s := if held && gone then s.setQuad (quadOf k) ((s.quad (quadOf k)).dropLines (s.accessLines a x)) else s
  let hit (l : LaneAcc) : Option Nat := if gone then none else s.l1Value k a x l
  let lanes := x.lanes.map fun l => match hit l with | some v => { l with value := v } | none => l
  let todo := maskFn fun i => x.lanes.any fun l => l.lane == i && (hit l).isNone
  let x := { x with lanes, todo }
  let d := x.dst.getD 512
  let reuses := d < 256 && x.space == 0 && x.acq.isNone && x.l1 && a.reuses r.nr r.srcs (.v (BitVec.ofNat 8 d))
  let x := { x with memo := if reuses then some (loadMemo s k a x r act d) else none }
  if todo = 0 then
    match x.memo with
    | some m =>
      let val (i : Nat) : Word := match x.lanes.find? fun l => l.lane == i with | some l => word l.value | none => 0#32
      let v := mergeLanes act (laneFn val) (a.v d)
      let hit := s.reuseHit k a m.key v 0
      match hit.1 with
      | some e => .done (hit.2.nameV k { a with reused := a.reused + 1, ldreused := a.ldreused + 1 } d v e)
      | none => .done (hit.2.completeLoad k a x)
    | none => .done (s.completeLoad k a x)
  else .done (s.setAgent k (a.addAccess x))

/-- A store or ATOMN enters its agent: the reuse entries of loads of its lines die (R274), and an atomic's line leaves the
L1 (R282). A store updates a line present when it is performed (R245). -/
def State.issueWrite (s : State) (k : Nat) (a : Agent) (x : Access) : State :=
  let x := { x with id := a.ids }
  let s := s.setAgent k (a.addAccess x)
  if x.space != 0 then s
  else x.lanes.foldl (init := s) fun s l =>
    let va := firstByte l.bit
    match s.spaceOf a.ctx va with
    | none => s
    | some sid =>
      let q := s.quad (quadOf k)
      let n := byteSpan l.bit x.width
      if inLeafWindow va then s
      else match x.kind with
        | .store => s.setQuad (quadOf k) (q.killLoads sid (vaPrime va) n)
        | _ => s.setQuad (quadOf k) (q.dropRange sid (vaPrime va) n)

/-- A word that needs a store record (R377): a 65th waits, or reports the oldest where all 64 are held. -/
def withRecord (s : State) (a : Agent) (body : Verdict) : Verdict :=
  if a.records < 64 then body
  else match a.heldStores with
    | x :: _ => if a.usc = 0 then reportHeld x else .wait false s
    | [] => .wait false s

/-! Opcode 0x58. -/

def spaceCode (cm : Bool) : Nat := if cm then 1 else 0

def newAccess (a : Agent) (kind : AccKind) (wd space ew : Nat) (base : Dword) (pol : Option Word) (lanes : List LaneAcc)
    (dst : Option Nat) (acq : Option Nat) : Access :=
  let m := maskFn fun i => lanes.any fun l => l.lane == i
  { id := 0, kind, word := wd, space, ew, base, pol, lanes, todo := m, pend := m, faulted := 0, codes := [], dst,
    run := a.runs, sup := a.sv, told := false, acq, l1 := !polNoL1 pol, memo := none }

def Operand.reads (o : Operand) : List Nat := [operandCodeOf o]
def baseReads (base pol : SReg) : List Nat :=
  [sCode base.toNat, sCode (base.toNat + 1)] ++ if pol = 0 then [] else [sCode pol.toNat]

/-- A vector load (R268, R269): `off` gives lane i's element index. -/
def loadWord (wd : Nat) (key : Nat) (p : Pred) (nr : Bool) (d : VDst) (addr : List Operand) (off : Agent → Nat → Int) (base pol : SReg)
    (ew : Nat) (acq : Option (BitVec 3)) (cm : Bool) (s : State) : Res :=
  vectorWord p (addr.map operandCodeOf ++ baseReads base pol) [vdstCodeOf d] (namedDst d ++ addr.flatMap namedOf) s fun s k a act =>
    let b := a.pair base.toNat
    let po := policyOf a pol
    let a := a.warnPol po
    let ls := (lanesOf act).map fun i => mkLane i (elemBit b (ew + 1) (off a i)) 0 0
    match s.preciseFault a (spaceCode cm) b (ew + 1) false ls with
    | some v => v
    | none => orderWait s a (
        let x := newAccess a .load wd (spaceCode cm) ew b po ls (some (vdstCodeOf d)) (acq.map (·.toNat))
        poolWait s k a x (s.issueLoad k a x ⟨key, nr || polWarns po, addr⟩ act))

def execLd (p : Pred) (nr : Bool) (d : VDst) (addr : Operand) (base pol : SReg) (ew : BitVec 5) (acq : Option (BitVec 3)) (cm : Bool) (s : State) : Res :=
  loadWord 4 (wordKey 0x58 0 0) p nr d [addr] (fun a i => (a.lane addr i).toInt) base pol ew.toNat acq cm s
/-- LDC moves word i to lane i (R269). -/
def execLdc (p : Pred) (nr : Bool) (d : VDst) (base pol : SReg) (acq : Option (BitVec 3)) (cm : Bool) (s : State) : Res :=
  loadWord 5 (wordKey 0x58 2 0) p nr d [] (fun _ i => Int.ofNat i) base pol 31 acq cm s

/-- A vector store (R268, R269). -/
def storeWord (wd : Nat) (p : Pred) (y : Operand) (addr : List Operand) (off : Agent → Nat → Int) (base pol : SReg) (ew : Nat)
    (rel : Option (BitVec 3)) (cm : Bool) (s : State) : Res :=
  vectorWord p (operandCodeOf y :: addr.map operandCodeOf ++ baseReads base pol) [] (namedOf y ++ addr.flatMap namedOf) s fun s k a act =>
    let b := a.pair base.toNat
    let po := policyOf a pol
    let a := a.warnPol po
    let ls := (lanesOf act).map fun i => mkLane i (elemBit b (ew + 1) (off a i)) (field (a.lane y i).toNat 0 (ew + 1)) 0
    match s.preciseFault a (spaceCode cm) b (ew + 1) false ls with
    | some v => v
    | none => afterRelease (rel.map (·.toNat)) s a fun s => withRecord s a
        (.done (s.issueWrite k a (newAccess a .store wd (spaceCode cm) ew b po ls none none)))

def execSt (p : Pred) (_nr : Bool) (y : Operand) (addr : Operand) (base pol : SReg) (ew : BitVec 5) (rel : Option (BitVec 3)) (cm : Bool) (s : State) : Res :=
  storeWord 0 p y [addr] (fun a i => (a.lane addr i).toInt) base pol ew.toNat rel cm s
def execStc (p : Pred) (_nr : Bool) (y : Operand) (base pol : SReg) (rel : Option (BitVec 3)) (cm : Bool) (s : State) : Res :=
  storeWord 1 p y [] (fun _ i => Int.ofNat i) base pol 31 rel cm s

/-! The lane store (R242, R268): a lane reaches its own slice, at once. -/

def State.teamOf (s : State) (a : Agent) : Option Team := s.team? a.team
/-- The first byte of lane i's slice in the quadrant's lane store, and the slice's bytes. -/
def sliceOf (t : Team) (g i : Nat) : Nat × Nat := ((t.lbase.drop g).headD 0 + i * 256 * t.lsgran, 256 * t.lsgran)

/-- The lanes whose element leaves the slice, with the precise fault of the word (R242, R243). -/
def State.laneFault (s : State) (a : Agent) (b : Dword) (w : Nat) (act : Mask) (off : Nat → Int) : Option Verdict :=
  let size := match s.teamOf a with | some t => 256 * t.lsgran | none => 0
  let bit (i : Nat) : Int := elemBit b w (off i)
  let out (i : Nat) : Bool := decide (bit i < 0) || decide (8 * Int.ofNat size < bit i + Int.ofNat w)
  let at_ (i : Nat) : Nat := (bit i / 8 % (2 ^ 64 : Nat)).toNat
  if b.toNat % 4 ≠ 0 then some (memPrecise 1 act (at_ ((lanesOf act).headD 0)))
  else match (lanesOf act).filter out with
    | [] => none
    | i :: is => some (memPrecise 3 (maskFn fun j => (i :: is).contains j) (at_ i))

def laneByte (s : State) (k : Nat) (a : Agent) (i : Nat) (b : Int) : Nat :=
  match s.teamOf a with
  | some t => lmemKey (quadOf k) ((sliceOf t a.gang i).1 + firstByte b)
  | none => lmemKey (quadOf k) (firstByte b)

def execLdl (p : Pred) (_nr : Bool) (d : VDst) (addr : Operand) (base : SReg) (ew : BitVec 5) (s : State) : Res :=
  vectorWord p (operandCodeOf addr :: baseReads base 0) [vdstCodeOf d] (namedDst d ++ namedOf addr) s fun s k a act =>
    let b := a.pair base.toNat
    let w := ew.toNat + 1
    let off (i : Nat) : Int := (a.lane addr i).toInt
    match s.laneFault a b w act off with
    | some v => v
    | none =>
      orderWait s a (.done (s.writeDst k a act d fun i =>
        let bit := elemBit b w (off i)
        word (elementOf (s.lmem.readBytes (laneByte s k a i bit) (byteSpan bit w)) bit w)))

/-- One lane of STL. -/
def storeLane (s : State) (key : Nat) (bit : Int) (w v : Nat) : State :=
  { s with lmem := s.lmem.writeBytes key (putElement (s.lmem.readBytes key (byteSpan bit w)) bit w v) }

def execStl (p : Pred) (_nr : Bool) (y : Operand) (addr : Operand) (base : SReg) (ew : BitVec 5) (s : State) : Res :=
  vectorWord p (operandCodeOf y :: operandCodeOf addr :: baseReads base 0) [] (namedOf y ++ namedOf addr) s fun s k a act =>
    let b := a.pair base.toNat
    let w := ew.toNat + 1
    let off (i : Nat) : Int := (a.lane addr i).toInt
    match s.laneFault a b w act off with
    | some v => v
    | none =>
      orderWait s a (.done ((lanesOf act).foldl (fun s i =>
        let bit := elemBit b w (off i)
        storeLane s (laneByte s k a i bit) bit w (a.lane y i).toNat) s))

/-! SLD and SST (R270): one element, for the uniform path of a gang or for a sequencer. -/

def execSld (p : Pred) (_nr : Bool) (d a base pol : SReg) (ew : BitVec 5) (acq : Option (BitVec 3)) (cm : Bool) (s : State) : Res :=
  uniformWord .all false [d.toNat] p ([a.toNat, base.toNat, base.toNat + 1] ++ if pol = 0 then [] else [pol.toNat]) s fun s k g =>
    let b := g.pair base.toNat
    let po := policyOf g pol
    let g := g.warnPol po
    let ls := [mkLane 0 (elemBit b (ew.toNat + 1) (g.s a.toNat).toInt) 0 0]
    match s.preciseFault g (spaceCode cm) b (ew.toNat + 1) false ls with
    | some v => v
    | none => orderWait s g
        (s.issueLoad k g (newAccess g .load 6 (spaceCode cm) ew.toNat b po ls (some (sCode d.toNat)) (acq.map (·.toNat))) ⟨0, true, []⟩ 0)

def execSst (p : Pred) (_nr : Bool) (y a base pol : SReg) (ew : BitVec 5) (rel : Option (BitVec 3)) (cm : Bool) (s : State) : Res :=
  uniformWord .all false [] p ([y.toNat, a.toNat, base.toNat, base.toNat + 1] ++ if pol = 0 then [] else [pol.toNat]) s fun s k g =>
    let b := g.pair base.toNat
    let po := policyOf g pol
    let g := g.warnPol po
    let ls := [mkLane 0 (elemBit b (ew.toNat + 1) (g.s a.toNat).toInt) (field (g.s y.toNat).toNat 0 (ew.toNat + 1)) 0]
    match s.preciseFault g (spaceCode cm) b (ew.toNat + 1) false ls with
    | some v => v
    | none => afterRelease (rel.map (·.toNat)) s g fun s => withRecord s g
        (.done (s.issueWrite k g (newAccess g .store 2 (spaceCode cm) ew.toNat b po ls none none)))

/-! PREF and EVICT (R271): hints. -/

/-- The MSC line of a place, and its bytes (R246); host and peer memory have none. -/
def Loc.mscLine : Loc → Loc × Nat
  | .device c sid va e => (.device c sid (va / 256 * 256) e, 256)
  | loc => (loc, 1)
/-- PREF of one element: the MSC line of P_i, and the L1's; a lane that fails is dropped, and one whose row's earlier requests wait
in the side queue fills nothing. -/
def State.prefLane (s : State) (k : Nat) (a : Agent) (pol : Option Word) (b : Int) : State :=
  let va := firstByte b
  if b < 0 || inLeafWindow va || s.sideHeld a.ctx va 1 then s
  else match s.translate (quadOf k) a.ctx va .read with
    | .error _ => s
    | .ok (loc, s1) =>
      let (line, n) := loc.mscLine
      match s1.readPiece line n 0 a.ctx pol with
      | .error c => if c = 100 then s1.markPoison line n a.ctx else s
      | .ok (bs, s2) =>
        if polNoL1 pol then s2 else s2.fillL1 (quadOf k) a.ctx ((s.spaceOf a.ctx va).getD 0) (vaPrime va) 1 loc pol bs

def execPref (p : Pred) (_nr : Bool) (addr : Operand) (base pol : SReg) (ew : BitVec 5) (s : State) : Res :=
  vectorWord p (operandCodeOf addr :: baseReads base pol) [] (namedOf addr) s fun s k a act =>
    let b := a.pair base.toNat
    let po := policyOf a pol
    .done ((lanesOf act).foldl (fun s i => s.prefLane k a po (elemBit b (ew.toNat + 1) (a.lane addr i).toInt))
      (s.setAgent k (a.warnPol po)))

/-- EVICT at the home CG: unpinned, STREAM, and dropped where no other partition's mask covers its way. -/
def Cg.evict (cg : Cg) (s : State) (part sid va : Nat) : Cg :=
  match cg.msc.find? fun l => l.sid == sid && l.line == va / 256 with
  | none => cg
  | some l =>
    let cg := cg.leave l
    let rest := cg.msc
    let shared := s.parts.any fun p => p.1 != part && p.2.wayMasks.any fun (m : BitVec 16) => m.getLsbD l.way
    { cg with msc := if shared then { l with pin := none, cls := 2, dirty := 0 } :: rest else rest }

def State.evictLane (s : State) (k : Nat) (a : Agent) (b : Int) : State :=
  let va := firstByte b
  if b < 0 then s
  else match s.spaceOf a.ctx va with
    | none => s
    | some sid =>
      let s := s.setQuad (quadOf k) ((s.quad (quadOf k)).dropLine sid (vaPrime va / 128))
      match s.space? sid with
      | none => s
      | some sp =>
        let c := s.homeCg sp (vaPrime va)
        s.setCg c ((s.cg c).evict s (a.ctx / 16) sid (vaPrime va))

def execEvict (p : Pred) (_nr : Bool) (addr : Operand) (base : SReg) (ew : BitVec 5) (s : State) : Res :=
  vectorWord p (operandCodeOf addr :: baseReads base 0) [] (namedOf addr) s fun s k a act =>
    let b := a.pair base.toNat
    .done ((lanesOf act).foldl (fun s i => s.evictLane k a (elemBit b (ew.toNat + 1) (a.lane addr i).toInt)) s)

/-! Atomics (R291 to R295). -/

def awidthBits : AWidth → Nat
  | .a16 => 16
  | .a32 => 32
  | .a64 => 64
  | .a128 => 128
def awidthEw : AWidth → Nat
  | .a16 => 0x0F
  | .a32 => 0x1F
  | .a64 => 0x1E
  | .a128 => 0x1D

/-- The value n registers of lane i hold from register r upwards, least significant word first. -/
def regsValue (a : Agent) (r n i : Nat) : Nat :=
  (List.range n).foldl (fun acc j => acc + (lane (a.v (r + j)) i).toNat * 2 ^ (32 * j)) 0
def atomRegs (w : AWidth) : Nat := (awidthBits w + 31) / 32

def aordAcq (o : AOrd) : Option Nat := if o.acq then some o.sc.toNat else none

/-- ATOM and ACAS enter as a load does, without the L1: the line they target leaves it (R282). -/
def State.issueAtomic (s : State) (k : Nat) (a : Agent) (x : Access) : Verdict :=
  .done (s.issueWrite k { a with rewindable := false } x)

/-- An atomic word of DATA registers d to d + n - 1, the operand in b of them from c upwards (R291). -/
def atomicWord (p : Pred) (kind : AccKind) (w : AWidth) (d regs : Nat) (data cmp : Agent → Nat → Nat) (addr : Operand) (base pol : SReg)
    (ord : AOrd) (cm : Bool) (s : State) : Res :=
  let ds := (List.range regs).map (d + ·)
  vectorWord p (ds.map vCode ++ operandCodeOf addr :: baseReads base pol) (ds.map vCode) (ds ++ namedOf addr) s fun s k a act =>
    let b := a.pair base.toNat
    let po := policyOf a pol
    let a := a.warnPol po
    let n := awidthBits w
    let ls := (lanesOf act).map fun i => mkLane i (elemBit b n (a.lane addr i).toInt) (data a i) (cmp a i)
    match s.preciseFault a (spaceCode cm) b n true ls with
    | some v => v
    | none =>
      let x := newAccess a kind 7 (spaceCode cm) (awidthEw w) b po ls (some (vCode d)) (aordAcq ord)
      afterRelease (if ord.rel then some ord.sc.toNat else none) s a fun s => poolWait s k a x (s.issueAtomic k a x)

def execAtom (p : Pred) (_nr : Bool) (op : BitVec 4) (w : AWidth) (d : BitVec 8) (addr : Operand) (base pol : SReg) (ord : AOrd) (cm : Bool) (s : State) : Res :=
  atomicWord p (.atom op.toNat (awidthBits w) true) w d.toNat (atomRegs w)
    (fun a i => field (regsValue a d.toNat (atomRegs w) i) 0 (awidthBits w)) (fun _ _ => 0) addr base pol ord cm s
def execAcas (p : Pred) (_nr : Bool) (w : AWidth) (d : BitVec 8) (addr : Operand) (base pol : SReg) (ord : AOrd) (cm : Bool) (s : State) : Res :=
  atomicWord p (.cas (awidthBits w)) w d.toNat (2 * atomRegs w)
    (fun a i => regsValue a (d.toNat + atomRegs w) (atomRegs w) i) (fun a i => regsValue a d.toNat (atomRegs w) i) addr base pol ord cm s

/-- The operand of ATOMN: a v, t or broadcast code, a pair for 64 bits (R33, R291). -/
def atomnData (a : Agent) (w : AWidth) (y : Operand) (i : Nat) : Nat :=
  let hi := if w = .a64 then (a.lane (Operand.succ y) i).toNat * 2 ^ 32 else 0
  field ((a.lane y i).toNat + hi) 0 (awidthBits w)

def execAtomn (p : Pred) (_nr : Bool) (op : BitVec 4) (w : AWidth) (y : Operand) (addr : Operand) (base pol : SReg) (rel : Option (BitVec 3)) (cm : Bool) (s : State) : Res :=
  let ys := if w = .a64 then [y, Operand.succ y] else [y]
  vectorWord p (ys.map operandCodeOf ++ operandCodeOf addr :: baseReads base pol) [] (ys.flatMap namedOf ++ namedOf addr) s fun s k a act =>
    let b := a.pair base.toNat
    let po := policyOf a pol
    let a := a.warnPol po
    let n := awidthBits w
    let ls := (lanesOf act).map fun i => mkLane i (elemBit b n (a.lane addr i).toInt) (atomnData a w y i) 0
    match s.preciseFault a (spaceCode cm) b n true ls with
    | some v => v
    | none => afterRelease (rel.map (·.toNat)) s a fun s => withRecord s a
        (.done (s.issueWrite k { a with rewindable := false }
          (newAccess a (.atom op.toNat n false) 3 (spaceCode cm) (awidthEw w) b po ls none none)))

end Sys2Proof.Machine
end

