-- ==== Sys2Proof/Machine/MemEvents.lean ====
section
/-! DEFINITION. The steps of an access after its issue: performed at the bank, the home CG or the hub, returned,
acknowledged, or trapped (R248 to R256, R272, R287, R376, R377), and the ends of leases and throttles (R253, R264). -/

namespace Sys2Proof.Machine

/-- A REPLAY performs its loads in issue order, then its records in theirs (R383, R421). -/
def Agent.replayAfter (a : Agent) (x y : Access) : Bool :=
  let redo := a.frame.redo
  a.block == .replay && redo.contains x.id && redo.contains y.id && y.todo != 0 &&
  (if x.isWrite == y.isWrite then (a.accs.takeWhile fun z => z.id != x.id).any (·.id == y.id) else x.isWrite)

/-- Whether a lane must wait for an earlier access of its lane, or a lower lane of its own word, to the same bits
(R244, R279, R293); the records of a resumed agent are replayed in their order (R287), as are those of a REPLAY. -/
def State.laneBlocked (s : State) (a : Agent) (x : Access) (l : LaneAcc) : Bool :=
  (a.accs.takeWhile fun y => y.id != x.id).any (fun y => s.blocks a y x l || (a.restoring && y.todo != 0)) ||
  a.accs.any (a.replayAfter x) ||
  (x.msOp != 0 && x.lanes.any fun m => decide (m.lane < l.lane) && x.todo.getLsbD m.lane && s.conflict a x m x l)

/-- The 4 KiB chunk of the routing hash an element's first byte lies in. -/
def chunkOf (s : State) (ctx : Nat) (va : Nat) : Nat := chunkKey ((s.spaceOf ctx va).getD 0) (vaPrime va)

/-- The chunks an element lies in, each with its number among them. -/
def State.elementChunks (s : State) (a : Agent) (l : LaneAcc) (w : Nat) : List (Nat × Nat) :=
  ((piecesOf (firstByte l.bit) (byteSpan l.bit w)).map fun p => chunkOf s a.ctx p.1).zipIdx
/-- The chunks at which a write's lane faulted: a lane across two says which in `value`, bit by bit; 0 says both. -/
def State.faultedChunks (s : State) (a : Agent) (l : LaneAcc) (w : Nat) : List Nat :=
  ((s.elementChunks a l w).filter fun c => l.value == 0 || bitAt l.value c.2).map (·.1)
/-- Faulted writes of the agent before its access of a number: the chunks where they were refused, and their codes. -/
def State.refused (s : State) (a : Agent) (id : Nat) : List (Nat × Nat) :=
  ((a.accs.takeWhile fun y => y.id != id).filter fun y => y.isWrite && y.space == 0).flatMap (fun y =>
    y.codes.flatMap fun p => (y.lanes.filter fun m => m.lane == p.1).flatMap fun m => (s.faultedChunks a m y.width).map fun c => (c, p.2)) ++
  a.cmds.flatMap fun k => match k.fault with
    | some f => k.bad.map fun va => (chunkOf s a.ctx va, f.1)
    | none => []
/-- The earlier faulted write of the agent to a chunk of this one's, which holds this one back (R377): its code, and which of the
element's chunks are held, bit by bit. -/
def State.heldBy (s : State) (a : Agent) (x : Access) (l : LaneAcc) : Option (Nat × Nat) :=
  if x.msOp = 0 || x.space != 0 then none
  else
    let bad := s.refused a x.id
    let cs := s.elementChunks a l x.width
    match bad.find? fun b => cs.any fun c => c.1 == b.1 with
    | some b => some (b.2, cs.foldl (fun n c => if bad.any fun b => b.1 == c.1 then n + 2 ^ c.2 else n) 0)
    | none => none
/-- The chunks of an element that would refuse it now, bit by bit; a second chunk that only the first's frame leaves none for. -/
def State.refuses (s : State) (k : Nat) (a : Agent) (x : Access) (l : LaneAcc) : Nat :=
  let bad (p : Nat × Nat) : Bool := match s.translate (quadOf k) a.ctx p.1 x.need with
    | .error _ => true
    | .ok (loc, s) => match s.frameFor loc none with | .error _ => true | .ok _ => false
  match piecesOf (firstByte l.bit) (byteSpan l.bit x.width) with
  | [p, q] => match bad p, bad q with | false, _ => 2 | true, false => 1 | true, true => 3
  | _ => 0

def Access.setValue (x : Access) (i v : Nat) : Access :=
  { x with lanes := x.lanes.map (fun l => if l.lane = i then { l with value := if x.kind = .probe then 0 else v } else l), todo := x.todo &&& ~~~ (1#32 <<< i) }
def Access.setFault (x : Access) (i code at_ : Nat) : Access :=
  { x with lanes := x.lanes.map (fun l => if l.lane = i && x.isWrite then { l with value := at_ } else l), todo := x.todo &&& ~~~ (1#32 <<< i), faulted := x.faulted ||| (1#32 <<< i), codes := x.codes ++ [(i, code)] }

def LaneAcc.addByte (l : LaneAcc) (j v : Nat) : LaneAcc := { l with got := l.got ++ [(j, v)] }
def Access.putLane (x : Access) (l : LaneAcc) : Access := { x with lanes := x.lanes.map fun m => if m.lane = l.lane then l else m }

/-- The packets that performing an access has sent are its own (R288). -/
def State.ownPackets (s : State) (n uid id : Nat) : State :=
  { s with hub := { s.hub with outbox := s.hub.outbox.zipIdx.map fun p => if n ≤ p.2 then { p.1 with owner := some (uid, id) } else p.1 } }

/-- Perform one lane of an access in flight (R248), or one byte of it ahead of the rest where it is no single access (R277). -/
def State.accessStep (s : State) (k id i : Nat) (byte : Option Nat) (hub : Bool) : Res :=
  match s.agent? k with
  | none => .fault .notEnabled
  | some a => match a.accs.find? fun x => x.id == id with
    | none => .fault .notEnabled
    | some x => match x.lanes.find? fun l => l.lane == i with
      | none => .fault .notEnabled
      | some l =>
        let far := x.space == 0 && !inLeafWindow (firstByte l.bit) &&
          (piecesOf (firstByte l.bit) (byteSpan l.bit x.width)).any fun p => s.atHub a.ctx p.1
        if !x.todo.getLsbD i || s.laneBlocked a x l || far != hub then .fault .notEnabled
        else match s.heldBy a x l with
          | some h => if byte.isSome then .fault .notEnabled else .next (s.setAgent k (a.putAccess (x.setFault i h.1 h.2)))
          | none => match (if x.space == 0 && !hub then s.sideGate a.ctx (a.uid, id, i) ((piecesOf (firstByte l.bit) (byteSpan l.bit x.width)).map (·.1)) else .pass s) with
            | .waits => .fault .notEnabled
            | .joins s => .next s
            | .pass s => match byte with
              | some j =>
                if x.whole l || l.done j || byteSpan l.bit x.width ≤ j then .fault .notEnabled
                else match s.performByte k a x l j with
                  | .ok v t => .next ((t.ownPackets s.hub.outbox.length a.uid id).modAgent k fun a => a.putAccess (x.putLane (l.addByte j v)))
                  | _ => .fault .notEnabled
              | none => match s.performElement k a x l with
                | .ok v t => .next ((t.ownPackets s.hub.outbox.length a.uid id).modAgent k fun a => a.putAccess (x.setValue i v))
                | .fault c t => .next (t.modAgent k fun a => a.putAccess (x.setFault i c (s.refuses k a x l)))
                | .poison s => .next (s.fatalStop k (a.putAccess (x.setValue i 0)) 0x10 0 a.wordAddr (1#32 <<< i) (firstByte l.bit))

def execCgAccess (ag id : Nat) (part : LanePart) (s : State) : Res := s.accessStep ag id part.lane part.byte false
/-- R252: the hub die performs what a home CG passes to it. -/
def execHubAccess (ag id : Nat) (part : LanePart) (s : State) : Res := s.accessStep ag id part.lane part.byte true

/-- A load or atomic whose lanes have all been performed returns: whole, or parked with its good lanes delivered
(R272, R376). An MREADV reads its bank now (R218). -/
def execLoadValueReturn (ag id : Nat) (s : State) : Res :=
  match s.agent? ag with
  | none => .fault .notEnabled
  | some a => match a.accs.find? fun x => x.id == id with
    | none => .fault .notEnabled
    | some x =>
      if !x.waiting || x.todo != 0 || s.sentBy a.uid id then .fault .notEnabled
      else if x.faulted = 0 then
        .next (s.completeLoad ag a (x.readBank (s.quad (quadOf ag))))
      else
        let good := maskFn fun i => x.lanes.any (fun l => l.lane == i) && !x.faulted.getLsbD i
        let a := { a with tokens := a.tokens.filter fun t => !x.dsts.contains t.2 }
        .next ((s.setAgent ag (a.putAccess { x with pend := 0, memo := none })).deliverTo ag a x good)

/-- A resumed agent's replay of its records ends when all are acknowledged (R287). -/
def Agent.restored (a : Agent) : Agent := { a with restoring := a.restoring && a.usc != 0 }

/-- A store or ATOMN is acknowledged (R287), one to a peer when the peer has (R288): USC falls; its record goes, or stays held with its faulted lanes; after
its agent has ended a fault goes to the grid's error record (R102). -/
def execStoreAck (ag id : Nat) (s : State) : Res :=
  match s.agent? ag with
  | none => .fault .notEnabled
  | some a => match a.accs.find? fun x => x.id == id with
    | none => .fault .notEnabled
    | some x =>
      if !x.isWrite || x.todo != 0 || x.pend = 0 || s.sentBy a.uid id then .fault .notEnabled
      else if x.faulted = 0 then
        let a' := (a.dropAccess id).restored
        .next (if orphanBase ≤ ag && a'.accs = [] && a'.cmds = [] then s.delAgent ag else s.setAgent ag a')
      else if a.ended then
        let a' := a.dropAccess id
        let s := s.gridError a.grid (ErrRec.first 2 a.gang (quadOf ag) a.tindex 9 (memDetail a' x.report.1 2) x.report.2.toNat 0 x.faultAddr 0)
        .next (if orphanBase ≤ ag && a'.accs = [] && a'.cmds = [] then s.delAgent ag else s.setAgent ag a')
      else .next (s.setAgent ag (a.putAccess { x with pend := 0 }).restored)

/-! Parked loads (R376). -/

/-- The lanes still in the gang. -/
def Agent.lanesLeft (a : Agent) : Mask :=
  let m (x : PcSlot) : Mask := match x.st with | .dead => 0#32 | _ => x.mask
  let stack := a.stack.foldl (fun acc d => match d with | .side e => acc ||| e.mask | .join .. => acc) 0#32
  m a.slot0 ||| m a.slot1 ||| stack ||| if a.sv then a.frame.tslot.mask ||| m a.frame.susp else 0#32

/-- The parked loads whose trap is due at a run boundary: those of the present mode (R376, R383). -/
def Agent.dueParked (a : Agent) : List Access := a.accs.filter fun x => x.parked && (!a.sv || x.sup)
/-- Loads all of whose faulting lanes have left are discarded. -/
def Agent.dropGone (k : Nat) (a : Agent) : Agent :=
  { a with accs := a.accs.filter fun x => !(x.parked && !isSeq k && !x.uniform && (x.faulted &&& a.lanesLeft) == 0) }

/-- The slot a gang would issue next: the one not selected last, if it runs (R86). -/
def Agent.nextWhich (a : Agent) : Bool := if (if a.last then a.slot0 else a.slot1).st = .run then !a.last else a.last

/-- The trap of the first parked load due at a run boundary, for the slot that is to issue. -/
def State.boundaryTrap (s : State) (k : Nat) (a : Agent) : Option State :=
  match a.dueParked with
  | [] => none
  | x :: _ =>
    let (code, m) := x.report
    some ((s.setAgent k a).takeTrap k a
      { cause := 0x09, detail := memDetail a code 1, epc := a.slot.pc, restart := a.slot.pc, fmask := m,
        faddr := x.faultAddr, report := some x.id, code })

def execParkedLoadTrap (ag : Nat) (s : State) : Res :=
  match s.agent? ag with
  | none => .fault .notEnabled
  | some a =>
    if a.run.isSome || !a.runsNow then .fault .notEnabled
    else match s.boundaryTrap ag ({ a with which := a.nextWhich, last := a.nextWhich }.dropGone ag) with
      | some s => .next s
      | none => .fault .notEnabled

/-! Leases and throttles (R253, R264). -/

/-- A lease ends at a CG, or at the hub (number 128). -/
def execLeaseExpiry (cg sid page : Nat) (s : State) : Res :=
  let hit (l : Lease) : Bool := l.sid == sid && l.page == page
  if cg = 128 then
    if s.hub.leases.any hit then .next { s with hub := { s.hub with leases := s.hub.leases.filter fun l => !hit l } }
    else .fault .notEnabled
  else
    let c := s.cg cg
    if c.leases.any hit then .next (s.setCg cg { c with leases := c.leases.filter fun l => !hit l }) else .fault .notEnabled

/-- A throttle ends; what waits in the side queue goes on in its order. -/
def execThrottleWindowEnd (cg part bank row : Nat) (s : State) : Res :=
  let c := s.cg cg
  if c.throttled.contains (part, bank, row) then
    .next (s.setCg cg { c with
      throttled := c.throttled.filter (fun t => t != (part, bank, row))
      acts := mapSet 0 c.acts (part * 2 ^ 64 + bank * 2 ^ 20 + row) 0 })
  else .fault .notEnabled

end Sys2Proof.Machine
end

