-- ==== Sys2Proof/Machine/Sync.lean ====
section
/-! DEFINITION. Fences, the team barrier and the rendezvous (R301 to R304), and barrier objects (R296 to R300). -/

namespace Sys2Proof.Machine

/-! Barrier objects. -/

def boExp (o : Nat) : Nat := field o 0 16
def boArr (o : Nat) : Nat := field o 16 16
def boPend (o : Nat) : Nat := field o 32 16
def boPhase (o : Nat) : Nat := field o 48 15
def boMake (exp arr pend phase : Nat) : Nat := exp + 2 ^ 16 * arr + 2 ^ 32 * pend + 2 ^ 48 * phase

/-- update(o, n, a, c) of R297. -/
def boUpdate (o n a c : Nat) : Nat :=
  let pend := (boPend o + a + 2 ^ 16 - c % 2 ^ 16) % 2 ^ 16
  let arr := min (boArr o + n) 0xFFFF
  if boExp o ≤ arr && pend = 0 then boMake (boExp o) 0 pend ((boPhase o + 1) % 2 ^ 15)
  else boMake (boExp o) arr pend (boPhase o)

/-- The bank's place of an object, or the fault of its address (R300). -/
def State.barrierAt (s : State) (a : Agent) (addr : Nat) : Except Nat Nat :=
  if addr % 8 ≠ 0 then .error 1
  else match s.clusterTeam a addr with
    | none => .error 3
    | some t =>
      let off := field addr 0 22
      if off + 8 ≤ t.csize then .ok (cmemKey t.quad (t.cbase + off)) else .error 3

def State.barrier (s : State) (key : Nat) : Nat := s.cmem.readNat key 8
def State.updateBarrier (s : State) (key n a c : Nat) : State :=
  { s with cmem := s.cmem.writeNat key 8 (boUpdate (s.barrier key) n a c) }
/-- An arrival of an engine command (R217, R318), if its object is still there. -/
def State.arriveAt (s : State) (a : Agent) (addr n u c : Nat) : State :=
  match s.barrierAt a addr with
  | .ok key => s.updateBarrier key n u c
  | .error _ => s

/-- A register value outside its limits is clamped into them, with WARN, in the lenient modes (R52, R300). -/
def clampTo (lo hi v : Nat) : Nat := max lo (min hi v)

/-- The agent's own stores to cluster memory by the path that executes the barrier words are out: a read of the object
follows them (R279). -/
def Agent.ownStoresOut (a : Agent) : Bool := a.accs.any fun x => x.uniform && x.space == 1 && x.isWrite && x.todo != 0

/-- BOINIT (R275, R299): one 8-byte store of the uniform path, counted in USC, indivisible. -/
def execBoinit (p : Pred) (desc cnt : SReg) (s : State) : Res :=
  valueWord .all false [] p [desc.toNat, cnt.toNat] [cnt.toNat] (fun a => (a.s cnt.toNat).toNat = 0 || 0xFFFF < (a.s cnt.toNat).toNat) s
    fun s k a =>
      let n := (a.s cnt.toNat).toNat
      let e := clampTo 1 0xFFFF n
      let a := if e = n then a else { a with warn := true }
      match s.barrierAt a (a.s desc.toNat).toNat with
      | .error c => memUniform c
      | .ok _ =>
        let base : Dword := (a.s desc.toNat).setWidth 64
        afterRelease none s a fun s => withRecord s a (.done (s.issueWrite k a
          (newAccess a (.atom 8 64 false) 9 1 0x1E base none [mkLane 0 (elemBit base 64 0) (boMake e 0 0 0) 0] none none)))

/-- BOARR (R299): s0 as the arrivals register means 1. -/
def execBoarr (p : Pred) (desc n u dsts : SReg) (scope : BitVec 3) (s : State) : Res :=
  let arr (a : Agent) : Nat := if n = 0 then 1 else (a.s n.toNat).toNat
  let units (a : Agent) : Nat := (a.s u.toNat).toNat
  valueWord .all false [dsts.toNat] p [desc.toNat, n.toNat, u.toNat] [n.toNat, u.toNat]
    (fun a => arr a = 0 || 0xFFFF < arr a || 0x7FFF < units a) s fun s k a =>
      let x := clampTo 1 0xFFFF (arr a)
      let y := clampTo 0 0x7FFF (units a)
      let a := if x = arr a && y = units a then a else { a with warn := true }
      match s.barrierAt a (a.s desc.toNat).toNat with
      | .error c => memUniform c
      | .ok key =>
        afterRelease (some scope.toNat) s a fun s =>
          let phase := boPhase (s.barrier key)
          .done ((s.updateBarrier key x y 0).setAgent k ({ a with rewindable := false }.setS dsts.toNat (word phase)))

def execBowait (p : Pred) (desc ph : SReg) (scope : BitVec 3) (s : State) : Res :=
  uniformWord .all false [] p [desc.toNat, ph.toNat] s fun s k a =>
    match s.barrierAt a (a.s desc.toNat).toNat with
    | .error c => memUniform c
    | .ok key => orderWait s a (
      if a.ownStoresOut then .wait false s
      else if boPhase (s.barrier key) = field (a.s ph.toNat).toNat 0 15 then
        .wait false (s.setAgent k { a with block := .bowait })
      else .done (s.acquire k a.ctx scope.toNat))

def execBotest (p : Pred) (desc ph dsts : SReg) (scope : BitVec 3) (s : State) : Res :=
  uniformWord .all false [dsts.toNat] p [desc.toNat, ph.toNat] s fun s k a =>
    match s.barrierAt a (a.s desc.toNat).toNat with
    | .error c => memUniform c
    | .ok key => orderWait s a (
      if a.ownStoresOut then .wait false s
      else
        let moved := boPhase (s.barrier key) != field (a.s ph.toNat).toNat 0 15
        let s := s.setAgent k (a.setS dsts.toNat (word moved.toNat))
        .done (if moved then s.acquire k a.ctx scope.toNat else s))

/-- A waiter whose phase has moved returns (R299): its BOWAIT is the word its run stands at. -/
def execBowaitWake (ag : Nat) (s : State) : Res :=
  match s.agent? ag with
  | none => .fault .notEnabled
  | some a =>
    match a.block, a.run.bind fun r => r.words[r.idx]? with
    | .bowait, some w =>
      match decodeWord true w with
      | .ok (.bowait p d ph sc) =>
        let r := execBowait p d ph sc { s with cur := ag }
        match r with
        | .next s' => if (s'.agent? ag).any (fun b => b.block = .bowait) then .fault .notEnabled else .next s'
        | r => r
      | _ => .fault .notEnabled
    | _, _ => .fault .notEnabled

/-! Fences (R302). -/

/-- FENCE. Its acquire follows the earlier loads, through which it may synchronise (R283): DEDUCED (log 71). Any fence
of cluster scope or wider ends the reuse of loads (R274). -/
def execFence (p : Pred) (acq rel : Bool) (scope : BitVec 3) (s : State) : Res :=
  uniformWord .all false [] p [] s fun s k a =>
    let fenced (s : State) : State := if acq then s.acquire k a.ctx scope.toNat else s.endLoadReuse k a.ctx scope.toNat
    afterRelease (if rel then some scope.toNat else none) s a fun s => if acq then loadsWait s a (.done (fenced s)) else .done (fenced s)

/-- WSTC waits until USC is zero and reports a held store fault (R287, R302). -/
def execWstc (p : Pred) (s : State) : Res :=
  uniformWord .all false [] p [] s fun s _ a =>
    match s.releaseSt a false with
    | .waits => .wait false s
    | .parked x => .behind x
    | .report x => reportHeld x
    | .ready => .done s

/-! The team barrier (R303). -/

def execTbar (p : Pred) (scope : BitVec 3) (s : State) : Res :=
  uniformWord .gang false [] p [] s fun s k a =>
    let gen (s : State) : Nat := match s.team? a.team with | some t => t.tbarGen | none => 0
    match a.block with
    | .tbar g => if g < gen s then .done (s.acquire k a.ctx scope.toNat) else .wait false s
    | _ => afterRelease (some scope.toNat) s a fun s =>
        let g := gen s
        let s := s.setAgent k { a with rewindable := false, block := .tbar g }
        let s := (s.modTeam a.team fun t => { t with tbarArr := t.tbarArr + 1 }).tbarCheck a.team
        if g < gen s then .done (s.acquire k a.ctx scope.toNat) else .wait false s

/-! The rendezvous (R304). -/

/-- Whether a sequencer's commands have completed: matrix commands of an MSEQ, engine commands of a DSEQ. -/
def State.seqIdle (s : State) (k : Nat) (a : Agent) : Bool :=
  if isMseq k then !(s.quad (quadOf k)).queue.any (fun c => c.agent == k) else a.cmds == []

/-- A sequencer that is not running counts as having executed every RDV. -/
def rdvMet (t : Team) (c : Nat) : Bool := (!t.mRun || decide (c ≤ t.cM)) && (!t.dRun || decide (c ≤ t.cD))

def execRdv (p : Pred) (scope : BitVec 3) (s : State) : Res :=
  let engines := match s.agent? s.cur with
    | some a => (match s.team? a.team with | some t => t.engines | none => false)
    | none => true
  if !engines then illegalWord 0x15 s
  else uniformWord .all false [] p [] s fun s k a =>
    if isSeq k then
      if !s.seqIdle k a then .wait false s
      else afterRelease (some scope.toNat) s a fun s => .done ((s.setAgent k { a with rewindable := false }).modTeam a.team fun t =>
        if isMseq k then { t with cM := t.cM + 1 } else { t with cD := t.cD + 1 })
    else
      let a := if a.block = .rdv then a else { a with cG := a.cG + 1, block := .rdv, rewindable := false }
      let s := s.setAgent k a
      match s.team? a.team with
      | none => .done s
      | some t => if rdvMet t a.cG then .done (s.acquire k a.ctx scope.toNat) else .wait false s

end Sys2Proof.Machine
end

