-- ==== Sys2Proof/Machine/Engine.lean ====
section
/-! DEFINITION. The copy and memory-engine commands of opcode 0x6C (R305 to R325) and the steps that complete or
fault them. -/

namespace Sys2Proof.Machine

/-! Sides. -/

/-- The lane store's bytes a lane address names (R308): the slice's first byte and its size. -/
def State.laneSide (s : State) (a : Agent) (addr : Nat) : Option (Nat × Nat) :=
  match s.teamOf a with
  | none => none
  | some t =>
    let g := field addr 19 4
    if field addr 23 41 != 0 || t.gangs ≤ g then none
    else some (lmemKey t.quad (sliceOf t g (field addr 14 5)).1, 256 * t.lsgran)

/-- The base bit of a side, in the terms of its allocation, slice or space. -/
def sideBit (space base : Nat) : Int :=
  if space = 2 then 8 * Int.ofNat (field base 0 14) else 8 * Int.ofNat base

/-- The fault of a side at issue: ALIGN, PAGE, PERM, or 0; an empty copy makes no check of its range. -/
def State.sideFault (s : State) (a : Agent) (d : List Byte) (dst : Bool) : Nat :=
  let sp := copySpace d dst
  let base := copyBase d dst
  if base % 4 ≠ 0 then 1
  else
    let (lo, hi) := copyRange d dst
    if sp = 0 then
      let a₀ := 8 * Int.ofNat base + lo
      let a₁ := 8 * Int.ofNat base + hi
      if copyEmpty d then 0
      else if a₀ < 0 || 8 * Int.ofNat vaLimit < a₁ || windowOf (firstByte a₀) != windowOf (firstByte (a₁ - 1)) then 2 else 0
    else if sp = 1 then
      match s.clusterTeam a base with
      | none => 3
      | some t =>
        let b := 8 * Int.ofNat (field base 0 22)
        if copyEmpty d || (decide (0 ≤ b + lo) && decide (b + hi ≤ 8 * Int.ofNat t.csize)) then 0 else 3
    else
      match s.laneSide a base with
      | none => 3
      | some (_, size) =>
        let b := sideBit 2 base
        if copyEmpty d || (decide (0 ≤ b + lo) && decide (b + hi ≤ 8 * Int.ofNat size)) then 0 else 3

/-- An engine's element access as an access of its agent, for performLane. -/
def engineAccess (a : Agent) (kind : AccKind) (space base w : Nat) (pol : Option Word) (l : LaneAcc) : Access :=
  { newAccess a kind 2 space (w - 1) (BitVec.ofNat 64 base) pol [l] none none with l1 := false, sup := false }

/-- What performing a part of a command comes to: done, with a result; a fault of R255 (100 for POISON), the first byte it was met
at and whether that was written; a place taken in a side queue (R264); or not yet. -/
inductive EngineEnd (α : Type) where
  | ok (x : α) (s : State)
  | fault (code va : Nat) (write : Bool) (s : State)
  | joins (s : State)
  | waits

/-- The bits of a side's element, byte by byte: where each lies, and which. -/
def State.sideBits (s : State) (a : Agent) (sp base w : Nat) (off : Int) : List ((Nat × Nat) × Byte) :=
  if sp = 2 then
    match s.laneSide a base with
    | none => []
    | some (key, _) =>
      let b := sideBit 2 base + off
      (elementMask b w 0).zipIdx.map fun m => ((0, key + firstByte b + m.2), m.1.1)
  else
    let l := mkLane 0 (8 * Int.ofNat base + off) 0 0
    s.elementBits a (engineAccess a .load sp base w none l) l
/-- Whether bits of two sides of a command are the same, by whatever addresses they are named. -/
def State.sidesShare (s : State) (a : Agent) (c : Cmd) (dst dst' : Bool) (off off' : Int) (w w' : Nat) : Bool :=
  match c.kind.side dst, c.kind.side dst' with
  | some (sp, b), some (sp', b') => sp == sp' && shareBits (s.sideBits a sp b w off) (s.sideBits a sp' b' w' off')
  | _, _ => false

/-- The elements whose writes one element may read, and in any order with its read: a copy's earlier ones (R314), every word of a
clone (R321). -/
def CmdKind.mixes (kind : CmdKind) (writer reader : Nat) : Bool :=
  match kind with
  | .clone .. => true
  | _ => decide (writer < reader)
/-- R314, R321: an element is read whole before or after each element that writes its bits. -/
def State.mayGet (s : State) (a : Agent) (c : Cmd) (i : Nat) (e : Elem) : Bool :=
  c.some_ false i e || !(c.kind.elems.zipIdx.any fun p =>
    c.some_ true p.2 p.1 && !c.all true p.2 p.1 && s.sidesShare a c true false p.1.dst e.src p.1.w e.w)
/-- R314, R321: bits are written after the element has been read, after every earlier element that writes them and every one that
reads them and may not read what is written, and never between the bytes of one that may. -/
def State.mayPut (s : State) (a : Agent) (c : Cmd) (i j : Nat) (e : Elem) : Bool :=
  let (b, w, _) := bytePart e.dst e.w j
  c.all false i e && c.kind.elems.zipIdx.all fun p =>
    (i ≤ p.2 || c.all true p.2 p.1 || !s.sidesShare a c true true p.1.dst b p.1.w w) &&
    (c.all false p.2 p.1 || (c.kind.mixes i p.2 && !c.some_ false p.2 p.1) || !s.sidesShare a c false true p.1.src b p.1.w w)

/-! The chunks of a fill or a clone (R322). -/

/-- A command covers the destination's chunk wholly. -/
def CmdKind.covers (kind : CmdKind) (va : Nat) : Bool :=
  match kind with
  | .fill a n _ | .clone a _ n => decide (a ≤ va / 4096 * 4096) && decide (va / 4096 * 4096 + 4096 ≤ a + n)
  | _ => false
/-- The source byte of a clone for a destination byte, where its chunks lie alike. -/
def CmdKind.cloned (kind : CmdKind) (va : Nat) : Option Nat :=
  match kind with
  | .clone a b _ => if a % 4096 = b % 4096 then some (b + (va - a)) else none
  | _ => none
/-- The frame of a device chunk, with its CG and its granule. -/
def State.frameOf (s : State) (k : Nat) (a : Agent) (va : Nat) (need : Need) : Option (Nat × Nat × Option Chunk) :=
  match s.translate (quadOf k) a.ctx va need with
  | .ok (.device c sid v e, _) => some (c, pteGran e, tabGet (s.cg c).chunks (chunkKey sid v))
  | _ => none
def State.noFrame (s : State) (k : Nat) (a : Agent) (va : Nat) (need : Need) : Bool :=
  match s.frameOf k a va need with
  | some (_, _, ch) => ch.isNone
  | none => false
/-- A zero written over a chunk that has no frame leaves it so: a zero fill's, and a clone's of a chunk with none. -/
def State.staysFree (s : State) (k : Nat) (a : Agent) (c : Cmd) (va v : Nat) : Bool :=
  v == 0 && c.kind.covers va && s.noFrame k a va .write &&
  match c.kind with
  | .fill _ _ pat => pat == 0
  | kind => match kind.cloned va with | some sv => s.noFrame k a sv .read | none => false
/-- The frame whose subarray a clone's destination is to share: the source's, of the same CG and granule. -/
def State.nearFrame (s : State) (k : Nat) (a : Agent) (c : Cmd) (va : Nat) : Option Nat :=
  match (if c.kind.covers va then c.kind.cloned va else none) with
  | none => none
  | some sv => match s.frameOf k a sv .read, s.frameOf k a va .write with
    | some (x, _, some ch), some (y, gran, none) => if x = y && ch.gran == gran then some ch.frame else none
    | _, _ => none
/-- The frame of a destination byte, taken near the source's. -/
def State.takeNear (s : State) (k : Nat) (a : Agent) (c : Cmd) (va : Nat) : Except Nat State :=
  match s.nearFrame k a c va with
  | none => .ok s
  | some f => match s.translate (quadOf k) a.ctx va .write with
    | .ok (loc, s) => s.frameFor loc (some f)
    | .error x => .error x

/-! One byte. -/

/-- The agent as the commands it issued later leave out: what a command comes after (R286, R377). -/
def Agent.before (a : Agent) (c : Cmd) : Agent :=
  { a with accs := a.accs.filter (fun x => decide (x.id < c.id)), cmds := a.cmds.filter fun d => d.fault.isSome && decide (d.id < c.id) }
/-- An earlier access of the agent to the same bits has not been performed (R279, R286). -/
def State.behindOwn (s : State) (a : Agent) (x : Access) (l : LaneAcc) : Bool :=
  a.accs.any fun y => y.lanes.any fun m => y.todo.getLsbD m.lane && s.conflict a y m x l

/-- A write of an engine to global memory: over a free chunk where it may stay free, else as a store; the quadrant's L1 lines
it overlaps are invalidated (R282, R305). -/
def State.enginePut (s : State) (k : Nat) (a : Agent) (c : Cmd) (x : Access) (l : LaneAcc) : Done :=
  let va := firstByte l.bit
  let done : Done :=
    if s.staysFree k a c va l.data then
      match s.translate (quadOf k) a.ctx va .write with
      | .ok (loc, s) => .ok 0 (s.markWrite loc a.ctx va)
      | .error e => .fault e s
    else match s.takeNear k a c va with
      | .error e => .fault e s
      | .ok s => s.performLane k a x l
  match done with
  | .ok v s => .ok v (s.setQuad (quadOf k) ((s.quad (quadOf k)).dropRange ((s.spaceOf a.ctx va).getD 0) (vaPrime va) 1))
  | r => r

/-- Perform the access of an engine to bits of one byte: `off` is their offset from the base of the side, `n` the number of
the part. -/
def State.engineByte (s : State) (k : Nat) (a : Agent) (c : Cmd) (write : Bool) (sp base n : Nat) (off : Int) (w v : Nat) : EngineEnd Nat :=
  if sp = 2 then
    match s.laneSide a base with
    | none => .ok 0 s
    | some (key, _) =>
      let b := sideBit 2 base + off
      if write then .ok 0 (storeLane s (key + firstByte b) b w v)
      else .ok (elementOf (s.lmem.readBytes (key + firstByte b) (byteSpan b w)) b w) s
  else
    let l := mkLane 0 (8 * Int.ofNat base + off) v 0
    let va := firstByte l.bit
    let x := { engineAccess a (if write then .store else .load) sp base w c.pol l with id := c.id }
    if s.behindOwn (a.before c) x l then .waits
    else match (if write then s.heldBy (a.before c) x l else none) with
      | some h => .fault h.1 va write s
      | none => match (if sp = 0 then s.sideGate a.ctx (a.uid, c.id, n) [va] else .pass s) with
        | .waits => .waits
        | .joins s => .joins s
        | .pass s => match (if write && sp == 0 then s.enginePut k a c x l else s.performLane k a x l) with
          | .ok v s => .ok v s
          | .fault code s => .fault code va write s
          | .poison s => .fault 100 va write s

/-! Commands, part by part (R286, R313 to R315). -/

/-- Every earlier load of the agent has returned, as an acquire of the command asks (R286). -/
def Agent.acqReady (a : Agent) (c : Cmd) : Bool := !(a.before c).accs.any fun x => x.waiting || x.parked
/-- The command's acquire, before its first access. -/
def State.cmdAcquire (s : State) (k : Nat) (a : Agent) (c : Cmd) : State :=
  if c.acq && c.got == [] && c.put == [] then s.acquire k a.ctx c.scope else s

/-- Read or write one byte of an element. -/
def State.cmdStep (s : State) (k : Nat) (a : Agent) (c : Cmd) (dst : Bool) (i j : Nat) : EngineEnd Cmd :=
  match c.kind.elems[i]?, c.kind.side dst with
  | some e, some (sp, base) =>
    if !(e.bytes dst).contains j || c.did dst i j || (c.acq && !a.acqReady c) || !(if dst then s.mayPut a c i j e else s.mayGet a c i e) then .waits
    else
      let (off, w, at_) := bytePart (e.off dst) e.w j
      match (s.cmdAcquire k a c).engineByte k a c dst sp base (16 * i + 2 * j + dst.toNat) off w (field (c.value i e) at_ w) with
      | .ok v s => .ok (c.mark dst i j (byte v)) s
      | .fault code va w s => .fault code va w s
      | .joins s => .joins s
      | .waits => .waits
  | _, _ => .waits
/-- The rest of a command's parts, in iteration order. -/
def State.cmdParts (k : Nat) (a : Agent) : List (Bool × Nat × Nat) → Cmd → State → EngineEnd Cmd
  | [], c, s => .ok c s
  | p :: ps, c, s => match s.cmdStep k a c p.1 p.2.1 p.2.2 with
    | .ok c s => State.cmdParts k a ps c s
    | r => r

/-! Purges (R323). -/

/-- Drop and unpin a CG's MSC lines of a range, written back. -/
def Cg.purgeRange (cg : Cg) (sid va n : Nat) : Cg :=
  (cg.msc.filter fun l => l.sid == sid && decide (va < 256 * l.line + 256) && decide (256 * l.line < va + n)).foldl Cg.leave cg

/-- The dies of a context's private space (R22). -/
def State.ctxDies (s : State) (ctx : Nat) : List Nat :=
  match s.ctx? ctx with
  | none => []
  | some c => match s.space? c.sid with | some sp => sp.dies | none => []

/-- The agent of a purge, which a save and a resume leave the same: its grid, its team, its place in the team (R325). -/
def Agent.purger (k : Nat) (a : Agent) : Nat × Nat × Nat := (a.grid, a.tindex, gangCode k a)

/-- XPURGE's effect; where the context has attached no space to the window there is nothing of the context's to purge. -/
def State.purgeStep (s : State) (k : Nat) (a : Agent) (c : Cmd) (start count : Nat) (free : Bool) : State :=
  match s.spaceOf a.ctx start with
  | none => s
  | some sid =>
    if count = 0 then s
    else
      let va := vaPrime start
      let s := { s with cgs := s.cgs.map (fun (p : Nat × Cg) => (p.1, p.2.purgeRange sid va (4096 * count))) }
      let dies := s.ldevDies a.ctx (quadOf k)
      let purge (p : Nat × Quad) : Nat × Quad :=
        if inScope c.scope (quadOf k) p.1 dies then (p.1, p.2.dropRange sid va (4096 * count)) else p
      let s := { s with quads := s.quads.map purge }
      { s with purges := s.purges ++ [({ agent := a.purger k, id := c.id + 1, sid := sid, start := va, count := count, free := free } : Purge)] }

/-! Leases waited out (R324). -/

/-- Free the chunks of a range at their homes: frames return, quota is released, the bytes read zero (R248, R324). -/
def State.freeChunk (s : State) (sid va : Nat) : State :=
  match s.space? sid with
  | none => s
  | some sp =>
    let c := s.homeCg sp va
    let cg := s.cg c
    let key := chunkKey sid va
    match tabGet cg.chunks key with
    | none => s
    | some ch =>
      let lo := devKey sid (va / 4096 * 4096)
      let inside (b : Nat) : Bool := decide (lo ≤ b) && decide (b < lo + 4096)
      let cg := { cg with
        chunks := mapDel cg.chunks key, freed := cg.freed ++ [ch.frame],
        charged := mapSet 0 cg.charged sp.owner (mapGet 0 cg.charged sp.owner + (sp.reserved va && ch.moved).toNat - (!sp.reserved va && !ch.moved).toNat),
        errors := cg.errors.filter (fun e => !inside e.1), poison := cg.poison.filter (fun u => !inside u) }
      { s.setCg c cg with dmem := s.dmem.filter fun b => !inside b.1 }

/-- The dies whose CGs an XLEASE asks: those of the spaces its purges covered, or the context's. -/
def State.leaseDies (s : State) (a : Agent) (ps : List Purge) : List Nat :=
  match ps with
  | [] => s.ctxDies a.ctx
  | ps => ps.flatMap fun p => match s.space? p.sid with | some sp => sp.dies | none => []

/-- Whether every lease granted before the request has expired. -/
def State.leasesOut (s : State) (dies : List Nat) (mark : Nat) : Bool :=
  !s.hub.leases.any (fun l => decide (l.num < mark)) &&
  s.cgs.all fun p => !dies.contains (p.1 / 32) || !p.2.leases.any fun l => decide (l.num < mark)

/-- Send the request of every XLEASE whose earlier purges have completed. -/
def Agent.sendLeases (a : Agent) (mark : Nat) : Agent :=
  { a with cmds := a.cmds.map fun c => match c.kind with
      | .lease 0 d => if a.cmds.any (fun x => decide (x.id < c.id) && match x.kind with | .purge .. => true | _ => false) then c
          else { c with kind := .lease (mark + 1) d }
      | _ => c }

/-! Completion. -/

/-- An agent's command has left its batch (R316). -/
def Agent.finishCmd (a : Agent) (id : Nat) : Agent :=
  { a with
    cmds := a.cmds.filter (fun c => c.id != id), open_ := a.open_.filter (· != id),
    closed := (a.closed.map fun b => (b.1, b.2.filter (· != id))).filter fun b => b.2 != [] }

/-- NOTIFY's increment (R319), numbered as the part after the last element's. -/
def State.notifyAt (s : State) (k : Nat) (a : Agent) (c : Cmd) (addr : Nat) : EngineEnd Cmd :=
  let l := mkLane 0 (8 * Int.ofNat addr) 1 0
  let x := { engineAccess a (.atom 0 32 false) 0 addr 32 none l with id := c.id }
  match s.heldBy (a.before c) x l with
  | some h => .fault h.1 addr true s
  | none => match s.sideGate a.ctx (a.uid, c.id, 16 * c.kind.elems.length + 1) [addr] with
    | .waits => .waits
    | .joins s => .joins s
    | .pass s => match s.performLane k a x l with
      | .ok _ s => .ok c s
      | .fault code s => .fault code addr true s
      | .poison s => .fault 100 addr true s

/-- A CHSEND on a capability of a host ring with an earlier number is still being read (R331). -/
def State.sendsBefore (s : State) (ctx cap num : Nat) : Bool :=
  s.agents.any fun p => p.2.ctx == ctx && p.2.cmds.any fun c => match c.kind with
    | .send _ _ _ i e m _ => i == cap && capKind e == 2 && m != num && decide ((num + 2 ^ 32 - m) % 2 ^ 32 < 2 ^ 31)
    | _ => false
/-- What a command's release waits for (R281, R286): the agent's earlier loads and writes that are out. -/
def State.earlierOut (s : State) (a : Agent) (c : Cmd) : Bool :=
  (c.rel || c.fin != .none) &&
  (a.before c).accs.any fun x => x.waiting || (x.isWrite && x.pend != 0 && !s.heldBack a x)
/-- What follows a command's last access: its release, its arrival or notification (R281, R318, R319); a message goes to the
transport (R337). -/
def State.cmdEnd (s : State) (k : Nat) (a : Agent) (c : Cmd) : EngineEnd Cmd :=
  let s := if c.rel || c.fin != .none then s.released a c.scope else s
  match c.kind, c.fin with
  | .send _ _ n cap e num _, _ => if s.sendsBefore a.ctx cap num then .waits else .ok c (s.sendMessage a.ctx cap e num (c.payload n))
  | _, .none => .ok c s
  | _, .arrive _ =>
    let units := match c.kind with | .copy d => copyUnits d | _ => 0
    .ok c (if units = 0 then s.arriveAt a c.aux.toNat 1 0 0 else s.arriveAt a c.aux.toNat 0 0 units)
  | _, .notify _ => s.notifyAt k a c c.aux.toNat

/-- The rest of a command: what is left of its elements, or its purge; then its end, if nothing it waits for is out: a peer's
acknowledgement (R288), the agent's earlier accesses. The result says whether it has ended. -/
def State.cmdRun (s : State) (k : Nat) (a : Agent) (c : Cmd) : EngineEnd (Cmd × Bool) :=
  if c.acq && !a.acqReady c then .waits
  else
    let rest : EngineEnd Cmd := match c.kind with
      | .purge start count free => .ok c ((s.cmdAcquire k a c).purgeStep k a c start count free)
      | _ => State.cmdParts k a c.left c (s.cmdAcquire k a c)
    match rest with
    | .ok c' t =>
      let t := t.ownPackets s.hub.outbox.length a.uid c.id
      if t.sentBy a.uid c.id || t.earlierOut a c then (if c' = c then .waits else .ok (c', false) t)
      else match t.cmdEnd k a c' with
        | .ok c'' u => .ok (c'', true) u
        | .fault code va w u => .fault code va w u
        | .joins u => .joins u
        | .waits => if c' = c then .waits else .ok (c', false) t
    | .fault code va w t => .fault code va w t
    | .joins t => .joins t
    | .waits => .waits

/-- After a command has gone: an ended agent may leave (R102). -/
def State.afterCmd (s : State) (k : Nat) : State :=
  match s.agent? k with
  | none => s
  | some a =>
    if orphanBase ≤ k then (if a.accs = [] && a.cmds = [] then s.delAgent k else s)
    else if a.ended then s.leaveGang k else s

def Agent.putCmd (a : Agent) (c : Cmd) : Agent := { a with cmds := a.cmds.map fun d => if d.id = c.id then c else d }
/-- A command has completed: CHSEND's status is delivered (R337); an XLEASE behind it may send its request. -/
def Agent.cmdDone (a : Agent) (c : Cmd) (mark : Nat) : Agent :=
  let b := (a.finishCmd c.id).sendLeases mark
  match c.kind with
  | .send _ _ _ _ _ _ dst => b.deliverS dst 0
  | _ => b

/-- A fault found after issue, kept for replay with no data of its own (R256). -/
def lateFault (a : Agent) (code va : Nat) (dst : Option Nat) : Access :=
  { newAccess a .probe 5 0 31 (BitVec.ofNat 64 (va / 4 * 4)) none [mkLane 0 (8 * Int.ofNat (va / 4 * 4)) 0 0] dst none with
    todo := 0, pend := 0, faulted := 1#32, codes := [(0, code)], l1 := false }
/-- A CHSEND whose source faults: its status is a parked load's, its message is lost (R337). -/
def State.sendFault (s : State) (k : Nat) (a : Agent) (c : Cmd) (cap e code va dst : Nat) : State :=
  let s := s.modCtx a.ctx fun x => x.setCap cap (satInc (x.cap cap) 224)
  let run := match a.pending.find? fun p => p.1 == sCode dst with | some p => p.2 | none => a.runs
  let b := { a.finishCmd c.id with pending := a.pending.filter (·.1 != sCode dst), tokens := a.tokens.filter fun t => t.2 != sCode dst }
  let b := if a.ended then b else { b with accs := b.accs ++ [{ lateFault a code va (some (sCode dst)) with id := c.id, run := run }] }
  let gap (x : Ctx) : Ctx := if capKind e = 2 && !x.gaps.contains (hostStream cap) then { x with gaps := hostStream cap :: x.gaps } else x
  ((s.modCtx a.ctx gap).setAgent k b).afterCmd k
/-- A part of a command, or the rest of it. -/
def State.cmdDo (s : State) (k : Nat) (a : Agent) (c : Cmd) (part : Option (Bool × Nat × Nat)) : EngineEnd (Cmd × Bool) :=
  match part with
  | none => s.cmdRun k a c
  | some (dst, i, j) => match s.cmdStep k a c dst i j with
    | .ok c' t => .ok (c', false) (t.ownPackets s.hub.outbox.length a.uid c.id)
    | .fault code va w t => .fault code va w t
    | .joins t => .joins t
    | .waits => .waits

/-- XLEASE's end (R324): every lease it waits for has expired. -/
def State.leaseEnd (s : State) (k : Nat) (a : Agent) (c : Cmd) (mark dst : Nat) : Res :=
  let mine (p : Purge) : Bool := p.agent == a.purger k && decide (p.id ≤ c.id)
  let ps := s.purges.filter mine
  if mark = 0 || !s.leasesOut (s.leaseDies a ps) (mark - 1) then .fault .notEnabled
  else
    let s := { s with purges := s.purges.filter fun p => !mine p }
    let s := (ps.filter (·.free)).foldl (fun s p =>
      (List.range p.count).foldl (fun s i => s.freeChunk p.sid (p.start + 4096 * i)) s) s
    .next ((s.setAgent k ((a.finishCmd c.id).deliverS dst 0)).afterCmd k)

/-- A command goes on by one byte, or completes with all that is left of it (R314, R318, R324). -/
def execCopyComplete (ag : Nat) (part : CmdPart) (s : State) : Res :=
  match s.agent? ag with
  | none => .fault .notEnabled
  | some a => match a.cmds.find? fun c => c.id == part.cmd with
    | none => .fault .notEnabled
    | some c =>
      if c.fault.isSome then .fault .notEnabled
      else match c.kind, part.part with
        | .lease mark dst, none => s.leaseEnd ag a c mark dst
        | .lease .., some _ => .fault .notEnabled
        | _, _ => match s.cmdDo ag a c part.part with
          | .ok (c', true) s => .next ((s.modAgent ag fun a => a.cmdDone c' s.hub.nextLease).afterCmd ag)
          | .ok (c', false) s => .next ((s.modAgent ag fun a => a.putCmd c').afterCmd ag)
          | .joins s => if part.part.isSome then .next s else .fault .notEnabled
          | _ => .fault .notEnabled

/-- A write refused at a place: its first byte, unless one of its chunk is there already. -/
def State.addBad (s : State) (a : Agent) (c : Cmd) (va : Nat) (write : Bool) : Cmd :=
  if write && !c.bad.any (fun b => chunkOf s a.ctx b == chunkOf s a.ctx va) then { c with bad := c.bad ++ [va] } else c

/-- R315: a part of a command finds a fault and the command stops, with those of its elements written that were; a poisoned
byte is fatal to the team. Further writes it had under way when it stopped may be refused too, before it is reported (R377). -/
def execCopyFault (ag : Nat) (part : CmdPart) (s : State) : Res :=
  match s.agent? ag with
  | none => .fault .notEnabled
  | some a => match a.cmds.find? fun c => c.id == part.cmd with
    | none => .fault .notEnabled
    | some c =>
      if c.fault.isSome then match part.part with
        | some (true, _, _) => match s.cmdDo ag a c part.part with
          | .fault code va true t =>
            if c.told || code = 100 || s.addBad a c va true = c then .fault .notEnabled else .next (t.modAgent ag fun a => a.putCmd (s.addBad a c va true))
          | _ => .fault .notEnabled
        | _ => .fault .notEnabled
      else match c.kind, s.cmdDo ag a c part.part with
        | .lease .., _ => .fault .notEnabled
        | _, .fault code va w s =>
          if code = 100 then .next (s.fatalStop ag a 0x10 0 a.wordAddr a.slot.mask va)
          else match c.kind with
          | .send _ _ _ cap e num dst =>
            if capKind e = 2 && (s.sendsBefore a.ctx cap num || s.hub.outbox.any (toHost a.ctx cap)) then .fault .notEnabled
            else .next (s.sendFault ag a c cap e code va dst)
          | _ => if a.ended then
            let s := s.gridError a.grid (ErrRec.first 3 (gangCode ag a) (quadOf ag) a.tindex 9 (code + 768) 0 0 va 0)
            .next ((s.modAgent ag fun a => a.finishCmd c.id).afterCmd ag)
          else .next (s.modAgent ag fun a => a.putCmd (s.addBad a { c with fault := some (code, va) } va w))
        | _, _ => .fault .notEnabled

/-! Issue (R305, R309, R310, R312). -/

/-- The commands a quadrant's engine holds: issued and not completed, faulted ones among them (R305). -/
def State.engineLoad (s : State) (q : Nat) : Nat :=
  (s.agents.filter fun p => quadOf p.1 == q).foldl (fun n p => n + (p.2.cmds.filter fun c => match c.kind with | .lease .. | .send .. => false | _ => true).length) 0

def Agent.addCmd (a : Agent) (c : Cmd) : Agent :=
  { a with cmds := a.cmds ++ [{ c with id := a.ids }], ids := a.ids + 1, open_ := a.open_ ++ [a.ids], rewindable := false }

def newCmd (kind : CmdKind) (ord : XOrd) (fin : XDone) (aux : Dword) (pol : Option Word) : Cmd :=
  { id := 0, kind, acq := ord.acq, rel := ord.rel, scope := ord.scope.toNat, fin, aux, pol, batch := none, fault := none, told := false, bad := [], got := [], put := [] }

/-- A command that moves nothing. -/
def CmdKind.empty (kind : CmdKind) : Bool :=
  match kind with
  | .copy _ | .fill .. | .clone .. => kind.elems == []
  | _ => false
/-- A command enters the engine; a full queue holds it back. One that moves nothing completes at once (R309), where the release
of its arrival need not wait. -/
def issueCmd (s : State) (k : Nat) (a : Agent) (c : Cmd) : Verdict :=
  orderWait s a (
    if 64 ≤ s.engineLoad (quadOf k) then .wait (!isSeq k) s
    else
      let c := { c with id := a.ids }
      let b := a.addCmd c
      let s := s.setAgent k b
      if !c.kind.empty then .done s
      else match s.cmdRun k b c with
        | .ok (c', true) t => .done (t.modAgent k fun a => a.cmdDone c' t.hub.nextLease)
        | _ => .done s)

/-- The fault of an arrival or counter address at issue (R318, R319), or 0. -/
def State.finFault (s : State) (a : Agent) (fin : XDone) : Nat :=
  match fin with
  | .none => 0
  | .arrive r => match s.barrierAt a (a.s r.toNat).toNat with | .ok _ => 0 | .error c => c
  | .notify r => if (a.pair r.toNat).toNat % 4 = 0 then 0 else 1
def finAux (a : Agent) (fin : XDone) : Dword :=
  match fin with
  | .none => 0
  | .arrive r => (a.s r.toNat).setWidth 64
  | .notify r => a.pair r.toNat
def finReads : XDone → List Nat
  | .none => []
  | .arrive r => [r.toNat]
  | .notify r => [r.toNat, r.toNat + 1]

/-- The register of an ARRIVE, which DSTS names. -/
def arriveRegs : XDone → List Nat
  | .arrive r => [r.toNat]
  | _ => []

/-- The lowest code that applies, 0 being none (R371: ALIGN, PAGE, PERM). -/
def firstCode (cs : List Nat) : Nat := cs.foldl (fun m c => if c = 0 then m else if m = 0 then c else min m c) 0

/-- A value outside its limits (R312, R52): in the lenient modes the command changes nothing, an ARRIVE arrives, and
WARN is set. -/
def outOfLimits (s : State) (k : Nat) (a : Agent) (fin : XDone) : Verdict :=
  if !s.lenient k then illegal 0x14
  else
    let s := s.setAgent k { a with warn := true }
    match fin with
    | .arrive r => .done (s.arriveAt a (a.s r.toNat).toNat 1 0 0)
    | _ => .done s

/-- Bytes at a cluster address of the agent's, or the fault of the address. -/
def State.clusterBytes (s : State) (a : Agent) (addr n : Nat) : Except Nat (List Byte) :=
  match s.clusterTeam a addr with
    | none => .error 3
    | some t =>
      let off := field addr 0 22
      if off + n ≤ t.csize then .ok (s.cmem.readBytes (cmemKey t.quad (t.cbase + off)) n) else .error 3
/-- A descriptor, aligned to 8 (R309, R343, R357). -/
def State.clusterDesc (s : State) (a : Agent) (addr n : Nat) : Except Nat (List Byte) :=
  if addr % 8 ≠ 0 then .error 1 else s.clusterBytes a addr n

/-- A descriptor is read after the agent's earlier cluster stores (R309). -/
def Agent.clusterBusy (a : Agent) : Bool := a.accs.any fun x => x.space == 1 && x.isWrite && x.todo != 0

/-- The values of a descriptor break a limit of R309; one that cannot be read has none. -/
def State.descBad (s : State) (desc : SReg) (a : Agent) : Bool :=
  match s.clusterDesc a (a.s desc.toNat).toNat 128 with
  | .ok d => copyBad d
  | .error _ => false

/-- XCOPY. Its descriptor's limits are held whatever its predicate, a uniform word counting as active (R50, R312), before the
higher codes of R51: so the descriptor is read first, after the accesses that its load follows. -/
def execXcopy (p : Pred) (desc pol : SReg) (ord : XOrd) (fin : XDone) (s : State) : Res :=
  if (s.agent? s.cur).any fun a => !s.lenient s.cur && (a.acquiring || a.clusterBusy) then
    uniformWord .all false [] always [] s fun s _ _ => .wait false s
  else
  valueWord .gangDseq false (arriveRegs fin) p (desc.toNat :: (if pol = 0 then [] else [pol.toNat]) ++ finReads fin) [desc.toNat] (s.descBad desc) s
    fun s k a => orderWait s a <|
    if a.clusterBusy then .wait false s
    else match s.clusterDesc a (a.s desc.toNat).toNat 128 with
      | .error c => memUniform c
      | .ok d =>
        if copyBad d then outOfLimits s k a fin
        else
          let c := firstCode [s.sideFault a d false, s.sideFault a d true, s.finFault a fin]
          if c != 0 then memUniform c
          else
            let po := policyOf a pol
            issueCmd s k (a.warnPol po) (newCmd (.copy d) ord fin (finAux a fin) po)

/-- XCLOSE (R316). -/
def execXclose (p : Pred) (dsts : SReg) (s : State) : Res :=
  uniformWord .gangDseq false [dsts.toNat] p [] s fun s k a =>
    if 32767 ≤ a.closed.length then .wait false s
    else
      let n := (a.batch + 1) % 2 ^ 16
      let a' := { a with
        batch := n, open_ := [], closed := if a.open_ = [] then a.closed else a.closed ++ [(n, a.open_)],
        cmds := a.cmds.map (fun (c : Cmd) => if a.open_.contains c.id then { c with batch := some n } else c) }
      .done (s.setAgent k (a'.setS dsts.toNat (word n)))

/-- The closed batches n covers that are not complete (R316): the commands each still has. -/
def Agent.covered (a : Agent) (n : Nat) : List (List Nat) :=
  (a.closed.filter fun b => decide ((n + 2 ^ 16 - b.1) % 2 ^ 16 < 2 ^ 15)).map (·.2)
/-- Of those, the earliest command in issue order that is faulted. -/
def Agent.coveredFault (a : Agent) (n : Nat) : Option Cmd :=
  a.cmds.find? fun c => c.fault.isSome && (a.covered n).any fun b => b.contains c.id
/-- A batch is faulted while any command in it is. -/
def Agent.batchFaulted (a : Agent) (b : List Nat) : Bool := a.cmds.any fun c => c.fault.isSome && b.contains c.id

/-- The report of a faulted command (R317): MEM kind 3, the earliest in issue order. -/
def reportCmd (c : Cmd) : Verdict :=
  match c.fault with
  | some (code, va) => .trap 0x09 (code + 768) none va (some c.id)
  | none => illegal 0x14

def execXwait (p : Pred) (n : SReg) (scope : BitVec 3) (s : State) : Res :=
  uniformWord .gangDseq false [] p [n.toNat] s fun s k a =>
    let m := field (a.s n.toNat).toNat 0 16
    if (a.covered m).any (fun b => !a.batchFaulted b) then .wait false (s.setAgent k { a with block := .xwait })
    else match a.coveredFault m with
      | some c => reportCmd c
      | none => loadsWait s a (.done (s.acquire k a.ctx scope.toNat))

def execXtest (p : Pred) (n dsts : SReg) (scope : BitVec 3) (s : State) : Res :=
  uniformWord .gangDseq false [dsts.toNat] p [n.toNat] s fun s k a =>
    let m := field (a.s n.toNat).toNat 0 16
    match a.coveredFault m with
    | some c => reportCmd c
    | none =>
      if a.covered m = [] then loadsWait s a (.done ((s.setAgent k (a.setS dsts.toNat 1)).acquire k a.ctx scope.toNat))
      else .done (s.setAgent k (a.setS dsts.toNat 0))

/-- The check of a global range at issue (R320): alignment, and one window. -/
def rangeFault (va len : Nat) : Nat :=
  if va % 4 ≠ 0 then 1
  else if len = 0 then 0
  else if vaLimit < va + len || windowOf va != windowOf (va + len - 1) then 2
  else 0

def finOf (arr : Option SReg) : XDone := match arr with | some r => .arrive r | none => .none

def execXfill (p : Pred) (dst len pat : SReg) (ord : XOrd) (arr : Option SReg) (s : State) : Res :=
  let fin := finOf arr
  valueWord .gangDseq false (arriveRegs fin) p ([dst.toNat, dst.toNat + 1, len.toNat, pat.toNat] ++ finReads fin) [len.toNat] (fun a => (a.s len.toNat).toNat % 4 != 0) s
    fun s k a =>
    let n := (a.s len.toNat).toNat
    let va := (a.pair dst.toNat).toNat
    if n % 4 ≠ 0 then outOfLimits s k a fin
    else
      let c := firstCode [rangeFault va n, s.finFault a fin]
      if c != 0 then memUniform c
      else issueCmd s k a (newCmd (.fill va n (a.s pat.toNat)) ord fin (finAux a fin) none)

def execXclone (p : Pred) (dst src len : SReg) (ord : XOrd) (arr : Option SReg) (s : State) : Res :=
  let fin := finOf arr
  valueWord .gangDseq false (arriveRegs fin) p ([dst.toNat, dst.toNat + 1, src.toNat, src.toNat + 1, len.toNat] ++ finReads fin) [len.toNat]
    (fun a => (a.s len.toNat).toNat % 4 != 0) s fun s k a =>
    let n := (a.s len.toNat).toNat
    let va := (a.pair dst.toNat).toNat
    let sa := (a.pair src.toNat).toNat
    if n % 4 ≠ 0 then outOfLimits s k a fin
    else
      let c := firstCode [rangeFault va n, rangeFault sa n, s.finFault a fin]
      if c != 0 then memUniform c
      else issueCmd s k a (newCmd (.clone va sa n) ord fin (finAux a fin) none)

/-- The values XPURGE refuses (R323): another option than FREE, a range of more than one window. -/
def purgeBad (start cnt opt : SReg) (a : Agent) : Bool :=
  let va := (a.pair start.toNat).toNat
  let n := (a.s cnt.toNat).toNat
  decide (2 ≤ (a.s opt.toNat).toNat) || (n != 0 && (decide (vaLimit < va + 4096 * n) || windowOf va != windowOf (va + 4096 * n - 1)))
/-- XPURGE (R323), supervisor only. -/
def execXpurge (p : Pred) (start cnt opt : SReg) (scope : BitVec 3) (s : State) : Res :=
  valueWord .gangDseq true [] p [start.toNat, start.toNat + 1, cnt.toNat, opt.toNat] [start.toNat, start.toNat + 1, cnt.toNat, opt.toNat] (purgeBad start cnt opt) s fun s k a =>
    let va := (a.pair start.toNat).toNat
    if purgeBad start cnt opt a then outOfLimits s k a .none
    else if va % 4096 ≠ 0 then memUniform 1
    else issueCmd s k a (newCmd (.purge va (a.s cnt.toNat).toNat (bitAt (a.s opt.toNat).toNat 0)) { acq := false, rel := false, scope } .none 0 none)

/-- XLEASE (R324): its status is delivered when every lease it waits for has expired. -/
def execXlease (p : Pred) (dsts : SReg) (s : State) : Res :=
  uniformWord .gangDseq true [dsts.toNat] p [] s fun s k a =>
    let c := newCmd (.lease 0 dsts.toNat) { acq := false, rel := false, scope := 0 } .none 0 none
    let a := { a with cmds := a.cmds ++ [{ c with id := a.ids }], ids := a.ids + 1, pending := (sCode dsts.toNat, a.runs) :: a.pending }
    .done (s.setAgent k (a.sendLeases s.hub.nextLease))

end Sys2Proof.Machine
end

