-- ==== Sys2Proof/Machine/Slots.lean ====
section
/-! DEFINITION. Format slots (R169 to R181): SLOAD, SFENCE and SDESC, and the steps that complete a load or reload a
physical slot. -/

namespace Sys2Proof.Machine

/-! Loading. -/

def execSload (p : Pred) (slot : BitVec 4) (desc dsts : SReg) (s : State) : Res :=
  uniformWord .gangMseq false [dsts.toNat] p [desc.toNat, desc.toNat + 1] s fun s k a =>
    orderWait s a (
      let q := s.quad (quadOf k)
      let job : LoadJob := { ctx := a.ctx, slot := slot.toNat, agent := a.uid, mark := a.ids, ref := a.pair desc.toNat, dst := dsts.toNat }
      .done ((s.setQuad (quadOf k) { q with jobs := q.jobs ++ [job] }).setAgent k
        { a with rewindable := false, pending := (sCode dsts.toNat, a.runs) :: a.pending }))

/-- What the format manager finds at an image reference (R170 to R176). -/
structure ImgRead where
  status : Nat
  image : Option Image
  digest : Nat
  fid : Nat
  key : Nat
  deriving DecidableEq, Repr

/-- A failure before a header is read: DIGEST and FID zero, KEY 0xFF (R173). -/
def ImgRead.fail (status : Nat) : ImgRead := { status, image := none, digest := 0, fid := 0, key := 0xFF }

/-- The bytes of an image in memory: header, body, signature and padding (R170). -/
def imageBytes (im : Image) : Nat := 256 + im.bodyLen + 4672

/-- The trust-list index of a key, or 0xFF (R173 KEY). -/
def Part.keyIndex (p : Part) (keyId : Nat) : Nat := match p.trust.find? fun t => t.2 == keyId with | some t => t.1 | none => 0xFF

/-- R172: the trust-list index of a key for a FID. -/
def Part.trusts (p : Part) (keyId fid : Nat) : Option Nat :=
  match p.trust.find? fun t => t.2 == keyId with
  | some t => if fid < 0x100 && t.1 != 0 then none else some t.1
  | none => none

/-- Whether a binding names an image, live or in a saved record (R169). -/
def State.imageHeld (s : State) (gen : Nat) : Bool :=
  s.quads.any (fun q => q.2.bind.any fun b => b.2.gen == gen) || s.grids.any (fun g => g.2.saved != [] || g.2.reload != []) ||
  s.parts.any fun p => p.2.hslots.any fun h => h.2.gen == gen

/-- Images of the cache no binding names may have been dropped at any time (R169). -/
def State.dropImages (s : State) : State :=
  let s' := { s with hub := { s.hub with cache := s.hub.cache.filter fun im => s.imageHeld im.gen } }
  { s' with parts := s.parts.map fun p => (p.1, { p.2 with verified := p.2.verified.filter fun v => s'.hub.cache.any fun im => im.gen == v.1 }) }

/-- Enter an image into the cache: the cached one, or a new generation (R149, R169). -/
def State.cacheImage (s : State) (im : Image) : Image × State :=
  match s.hub.cache.find? fun c => c.digest == im.digest with
  | some c => (c, s)
  | none =>
    let im := { im with gen := s.hub.nextGen % 2 ^ 32 }
    (im, { s with hub := { s.hub with cache := s.hub.cache ++ [im], nextGen := s.hub.nextGen + 1 } })

/-- What the images of the cache take of its 8 MiB (R169); factory images stand in ROM. -/
def cacheBytes : Nat := 2 ^ 23
def Image.factory (im : Image) : Bool := im.keyId == Config.dexsonKey.toNat && im.digest == (Config.factoryDigest (BitVec.ofNat 16 im.fid)).toNat
def State.cacheUsed (s : State) : Nat := (s.hub.cache.filter fun im => !im.factory).foldl (fun n im => n + imageBytes im) 0

/-- What a partition's images take of the cache (R169): DESIGN CHOICE (log 65), the header, body, signature and padding of
each image it has a verdict for. -/
def State.shareUsed (s : State) (p : Part) : Nat :=
  (s.hub.cache.filter fun im => p.verified.any fun v => v.1 == im.gen).foldl (fun n im => n + imageBytes im) 0

/-- A factory reference (R176). -/
def factoryRead (ref : Nat) : ImgRead :=
  if field ref 16 47 ≠ 0 then ImgRead.fail 2
  else match factoryRow (field ref 0 16) with
    | none => ImgRead.fail 1
    | some im =>
      let d := (Config.factoryDigest (BitVec.ofNat 16 im.fid)).toNat
      { status := 0, image := some { im with digest := d, keyId := Config.dexsonKey.toNat, bodyLen := 64 * (Config.factoryBody im.fid % 961) },
        digest := d, fid := im.fid, key := 0 }

/-- An image in memory: read, parsed, and either verified already or its signature checked (R170 to R172). Where
several statuses hold the first of this order is given: DESIGN CHOICE (log 65). -/
def State.memoryRead (s : State) (quad ctx ref : Nat) (p : Part) : ImgRead :=
  if ref % 64 ≠ 0 then ImgRead.fail 2
  else if !s.admits .msc 257 (ctx / 16) false || !s.admits .images 257 (ctx / 16) true then ImgRead.fail 1
  else match s.readGlobal quad ctx ref 256 .read none with
    | .error _ => ImgRead.fail 1
    | .ok (h, s1) =>
      let fid := natOfBytes ((h.drop 6).take 2)
      let key := p.keyIndex (natOfBytes ((h.drop 0x20).take 64))
      -- the digest covers header and body, whatever else the image is; one whose body cannot be told or read has none (R170, R173)
      let n := natOfBytes ((h.drop 0x1C).take 4)
      let body := if n % 64 = 0 && n ≤ 61440 then s1.readGlobal quad ctx (ref + 256) n .read none else .error (0, 0)
      let d := (match body with | .ok (b, _) => Config.sha3_512 (h ++ b) | .error _ => Config.unreadDigest h).toNat
      match parseHeader h, body with
      | none, _ => { ImgRead.fail 2 with fid, key, digest := d }
      | some _, .error _ => { ImgRead.fail 1 with fid, key, digest := d }
      | some im, .ok (b, s2) =>
        match s2.readGlobal quad ctx (ref + 256 + n) 4672 .read none with
        | .error _ => { ImgRead.fail 1 with fid, key, digest := d }
        | .ok (sig, _) =>
          let im := { im with digest := d }
          let cached := s.hub.cache.find? fun c => c.digest == d
          let verified := match cached with | some c => p.verified.any (fun v => v.1 == c.gen) | none => false
          if verified then { status := 0, image := some im, digest := d, fid, key }
          else match p.trusts im.keyId fid with
            | none => { status := 3, image := none, digest := d, fid, key }
            | some _ =>
              if Config.mlDsaVerify (BitVec.ofNat 512 im.keyId) (h ++ b) (sig.take 4627)
              then { status := 0, image := some im, digest := d, fid, key }
              else { status := 4, image := none, digest := d, fid, key }

/-- Admit an accepted image to the cache and give the partition its verdict; a full share is status 0x05. Where the
cache itself has no room, images no binding names leave it (R169). -/
def State.admitImage (s : State) (part : Nat) (p : Part) (r : ImgRead) : ImgRead × State :=
  match r.image with
  | none => (r, s)
  | some im =>
    let factory := im.factory
    let known := match s.hub.cache.find? fun c => c.digest == im.digest with
      | some c => p.verified.any fun v => v.1 == c.gen
      | none => false
    if !factory && !known && decide (p.imgShare < s.shareUsed p + imageBytes im) then ({ r with status := 5, image := none }, s)
    else
      let full (s : State) : Bool := !factory && !(s.hub.cache.any fun c => c.digest == im.digest) && decide (cacheBytes < s.cacheUsed + imageBytes im)
      let s := if full s then s.dropImages else s
      if full s then ({ r with status := 5, image := none }, s)
      else
        let (im, s) := s.cacheImage im
        if factory || known then ({ r with image := some im }, s)
        else
          let p := (s.part? part).getD p
          ({ r with image := some im }, s.setPart part { p with verified := p.verified ++ [(im.gen, r.key)] })

/-- The measurement record of R173. -/
def measureRecord (p : Part) (r : ImgRead) (slot quad ctx : Nat) : List Byte :=
  bytesOfNat 64 r.digest ++ bytesOfNat 2 r.fid ++ [byte slot, byte r.status, byte quad, byte (ctx % 16), byte r.key, 0] ++
  bytesOfNat 4 (match r.image with | some im => im.gen | none => 0) ++ bytesOfNat 4 p.log.length

/-- PMV := SHA3-512(PMV ‖ record), and the event log (R173). -/
def Part.measure (p : Part) (rec : List Byte) : Part :=
  { p with pmv := Config.sha3_512 (bytesOfNat 64 p.pmv.toNat ++ rec), log := p.log ++ [rec] }

/-- Bind an image (R174, R177): unless it is the bound one, the slot is configured and the context's reuse entries
that name it die. -/
def Quad.bindSlot (q : Quad) (ctx slot : Nat) (im : Image) : Quad :=
  match tabGet q.bind (16 * ctx + slot) with
  | some b =>
    if b.gen = im.gen && b.digest = im.digest then q
    else { q with bind := mapPut q.bind (16 * ctx + slot) im, phys := mapPut q.phys slot im, rt := q.rt.filter fun e => !(e.ctx == ctx && e.slots.contains slot) }
  | none =>
    { q with bind := mapPut q.bind (16 * ctx + slot) im, phys := mapPut q.phys slot im, rt := q.rt.filter fun e => !(e.ctx == ctx && e.slots.contains slot) }

/-- The slot a queued matrix command decodes or encodes through. -/
def MKind.slot? : MKind → Option Nat
  | .load n .. => some n
  | .stream n .. => some n
  | .drain n _ .. => some n
  | _ => none

/-- A matrix command of the quadrant that names a slot has not completed (R177 step 1). -/
def Quad.matrixNames (q : Quad) (slot : Nat) : Bool := q.queue.any fun c => c.kind.slot? == some slot

/-- Gangs whose next run waits for a slot look again (R177 step 2). -/
def State.wakeSlots (s : State) (quad : Nat) : State :=
  { s with agents := s.agents.map fun (p : Nat × Agent) =>
      if quadOf p.1 == quad && p.2.block == .slot && p.2.run.isNone then (p.1, { p.2 with block := .none }) else p }

/-- The status of a load, after its image has been read and checked (R176, R177). -/
def execSloadComplete (quad ctx slot : Nat) (s : State) : Res :=
  let q := s.quad quad
  match q.jobs.find? fun j => j.ctx == ctx && j.slot == slot with
  | none => .fault .notEnabled
  | some j =>
    let stores := match s.agentByUid j.agent with
      | some (_, a) => a.accs.any fun x => x.isWrite && decide (x.id < j.mark) && x.pend != 0
      | none => false
    let held := !bitAt j.ref.toNat 63 && s.sideHeld ctx j.ref.toNat (256 + 61440 + 4672)
    match stores || held, s.part? (ctx / 16) with
    | true, _ => .fault .notEnabled
    | _, none => .fault .notEnabled
    | false, some p0 =>
      let (dropped, s) := s.choose
      let s := if dropped then s.dropImages else s
      let p := (s.part? (ctx / 16)).getD p0
      let r := if bitAt j.ref.toNat 63 then factoryRead j.ref.toNat else s.memoryRead quad ctx j.ref.toNat p
      let (r, s) := s.admitImage (ctx / 16) p r
      match r.image with
      | some im =>
        if q.matrixNames slot then .fault .notEnabled
        else
          let p := (s.part? (ctx / 16)).getD p
          let s := s.setPart (ctx / 16) (p.measure (measureRecord p r slot quad ctx))
          let q := { q.bindSlot ctx slot im with jobs := q.jobs.erase j }
          .next (((s.setQuad quad q).deliverUid j.agent j.dst (word r.status)).wakeSlots quad)
      | none =>
        let s := s.setPart (ctx / 16) (p.measure (measureRecord p r slot quad ctx))
        .next (((s.setQuad quad { q with jobs := q.jobs.erase j }).deliverUid j.agent j.dst (word r.status)).wakeSlots quad)

/-- A physical slot takes a context's image from the cache (R178): every entry that names the slot dies. -/
def execSlotReload (quad ctx slot : Nat) (s : State) : Res :=
  let q := s.quad quad
  if !q.reloading.contains (16 * ctx + slot) || q.matrixNames slot then .fault .notEnabled
  else match tabGet q.bind (16 * ctx + slot) with
    | none => .next ((s.setQuad quad { q with reloading := q.reloading.filter (· != 16 * ctx + slot) }).wakeSlots quad)
    | some im =>
      .next ((s.setQuad quad { q with
        phys := mapPut q.phys slot im, reloading := q.reloading.filter (· != 16 * ctx + slot),
        rt := q.rt.filter fun e => !e.slots.contains slot }).wakeSlots quad)

def execSfence (p : Pred) (s : State) : Res :=
  uniformWord .gangMseq false [] p [] s fun s k a =>
    let q := s.quad (quadOf k)
    if q.jobs.any (fun j => j.ctx == a.ctx || j.agent == a.uid) || q.reloading != [] then .wait false s else .done s

/-- SDESC's word (R181). -/
def State.slotWordAt (s : State) (quad ctx : Nat) (slot : BitVec 4) (i : Nat) : Nat :=
  match s.image quad ctx slot with
  | none => 0
  | some im =>
    if i < 64 then headerWord im i
    else if i = 64 then im.gen
    else if i = 65 then (if slot = 0 then 2 else 1)
    else 0

def execSdesc (p : Pred) (slot : BitVec 4) (idx dsts : SReg) (s : State) : Res :=
  uniformWord .gangMseq false [dsts.toNat] p [idx.toNat] s fun s k a =>
    if (s.quad (quadOf k)).jobs.any (fun j => j.ctx == a.ctx && j.slot == slot.toNat) then .wait false s
    else .done (s.setAgent k (a.setS dsts.toNat (word (s.slotWordAt (quadOf k) a.ctx slot (field (a.s idx.toNat).toNat 0 8)))))

end Sys2Proof.Machine
end

