-- ==== Sys2Proof/Machine/Channels.lean ====
section
/-! DEFINITION. Channels and collectives (R327 to R349): the words of opcodes 0x72 and 0x73, host rings, and the steps
of the span engines. -/

namespace Sys2Proof.Machine

/-! The frame of the channel words (R336). -/

/-- A register or descriptor value outside its limits: ILLEGAL, or WARN in the modes of R52, with status 0xFF where the word has
a status. -/
def badValue (s : State) (k : Nat) (a : Agent) (dsts : Option Nat) : Verdict :=
  if s.lenient k then
    let a := { a with warn := true }
    .done (s.setAgent k (match dsts with | some d => a.setS d 0xFF | none => a))
  else illegal 0x14

def channelWord (sv : Bool) (dsts : SReg) (p : Pred) (reads vals : List Nat) (bad : Agent → Bool) (s : State)
    (body : State → Nat → Agent → Verdict) : Res :=
  valueWord .gang sv [dsts.toNat] p reads vals bad s fun s k a =>
    let b := { a with rewindable := false }
    if bad a then badValue s k b (some dsts.toNat) else body s k b

def highBits (w : Word) (lo : Nat) : Bool := field w.toNat lo (32 - lo) != 0

/-! Memory as an engine of the gang reaches it (R286, R309). -/

/-- The check of a side at issue: space 0 or 1, its address and length. A code, or 0. -/
def State.rangeCode (s : State) (a : Agent) (space addr n : Nat) : Nat :=
  if space = 0 then
    (if addr % 4 ≠ 0 then 1
     else if vaLimit < addr + n || (s.spaceOf a.ctx addr).isNone || windowOf addr != windowOf (addr + n - 1) then 2
     else 0)
  else if addr % 4 ≠ 0 then 1
  else match s.clusterTeam a addr with
    | none => 3
    | some t => if field addr 0 22 + n ≤ t.csize then 0 else 3

def State.clusterKey (s : State) (a : Agent) (addr : Nat) : Nat :=
  match s.clusterTeam a addr with
  | some t => cmemKey t.quad (t.cbase + field addr 0 22)
  | none => 0

/-- Read a side, or the first fault: code and address. -/
def State.sideRead (s : State) (k : Nat) (a : Agent) (space addr n : Nat) : Except (Nat × Nat) (List Byte × State) :=
  if space = 0 then s.readGlobal (quadOf k) a.ctx addr n .read none
  else .ok (s.cmem.readBytes (s.clusterKey a addr) n, s)

/-- A held store of 32 words or fewer (R378). -/
def heldStore (a : Agent) (code addr : Nat) (bs : List Byte) : Access :=
  let ls := (List.range (bs.length / 4)).map fun i => mkLane i (8 * Int.ofNat (addr + 4 * i)) (natOfBytes ((bs.drop (4 * i)).take 4)) 0
  let m := maskFn fun i => decide (i < bs.length / 4)
  { newAccess a .store 2 0 31 (BitVec.ofNat 64 addr) none ls none none with
    todo := 0, pend := 0, faulted := m, codes := ls.map fun l => (l.lane, code) }

def chopBytes : Nat → Nat → List Byte → List (Nat × List Byte)
  | 0, _, _ => []
  | f + 1, addr, bs => if bs = [] then [] else (addr, bs.take 128) :: chopBytes f (addr + 128) (bs.drop 128)

/-- Drop the L1 lines of a quadrant that a range overlaps (R282). -/
def State.dropL1 (s : State) (quad ctx va n : Nat) : State :=
  match s.spaceOf ctx va with
  | some sid => s.setQuad quad ((s.quad quad).dropRange sid (vaPrime va) n)
  | none => s

/-- Accesses of the agent to a space that have not been performed: an engine's writes for it come after them (R279, R286). -/
def Agent.outTo (a : Agent) (space : Nat) : Bool := a.accs.any fun x => x.space == space && x.todo != 0

/-- A piece of an engine write for a context, within one page, whose chunk some earlier write of its agent was refused at or not
(R377): the state, or the code of the fault. -/
def State.putPiece (s : State) (quad ctx : Nat) (w : Writer) (refused : List (Nat × Nat)) (va : Nat) (bs : List Byte) : Except Nat State :=
  match refused.find? fun b => b.1 == chunkOf s ctx va with
  | some b => .error b.2
  | none => match s.performPiece quad ctx va bs.length .write 1 .store none (1 :: bs.map (·.toNat)) (fun _ => some bs) with
    | .ok (_, _, s) => .ok ((s.dropL1 quad ctx va bs.length).noteStore w ((s.spaceOf ctx va).getD 0) (vaPrime va) bs.length)
    | .error code => .error code
/-- The held records of a piece that faulted, 32 words each (R378), numbered from `id`. -/
def heldPiece (a : Agent) (code va : Nat) (bs : List Byte) : List Access :=
  (chopBytes (bs.length / 128 + 1) va bs).map fun c => heldStore a code c.1 c.2
def Agent.addAll (a : Agent) (xs : List Access) : Agent := xs.foldl (fun a x => a.addAccess { x with id := a.ids }) a

/-- An engine write of a gang to global memory: a page that faults becomes held records (R256), poison met there is fatal (R258). -/
def State.gangWrite (s : State) (k : Nat) (addr : Nat) (bs : List Byte) : State :=
  (piecesOf addr bs.length).foldl (init := s) fun s p => match s.agent? k with
    | none => s
    | some a =>
      let part := (bs.drop (p.1 - addr)).take p.2
      match s.putPiece (quadOf k) a.ctx (a.writer k) (s.refused a a.ids) p.1 part with
      | .ok s => s
      | .error 100 => s.fatalStop k a 0x10 0 a.wordAddr a.slot.mask p.1
      | .error code => s.setAgent k (a.addAll (heldPiece a code p.1 part))
def State.sideWrite (s : State) (k : Nat) (a : Agent) (space addr : Nat) (bs : List Byte) : State :=
  if space = 0 then s.gangWrite k addr bs else { s with cmem := s.cmem.writeBytes (s.clusterKey a addr) bs }

/-! CHSEND, CHRECV, CHPOLL, CHCAP (R337 to R340). -/

/-- CHSEND (R337): charged at issue, its payload read as an engine command of the gang; its status follows. -/
def execChsend (p : Pred) (src ctl len dsts : SReg) (rel : Option (BitVec 3)) (s : State) : Res :=
  let lenOf (a : Agent) : Nat := (a.s len.toNat).toNat
  channelWord false dsts p [src.toNat, src.toNat + 1, ctl.toNat, len.toNat] [ctl.toNat, len.toNat]
    (fun a => highBits (a.s ctl.toNat) 9 || lenOf a % 4 ≠ 0 || lenOf a < 4 || 1048576 < lenOf a) s fun s k a =>
      let n := lenOf a
      let i := field (a.s ctl.toNat).toNat 0 8
      let space := field (a.s ctl.toNat).toNat 8 1
      let addr := (a.pair src.toNat).toNat
      let e := s.cap a.ctx i
      let d := capDetail e (fun e => capKind e == 1 || capKind e == 2) capSend n
      let c := s.rangeCode a space addr n
      if d ≠ 0 then capTrap d
      else if c ≠ 0 then memUniform c
      else afterRelease (rel.map (·.toNat)) s a (fun s =>
        let s := s.modCtx a.ctx fun x => x.setCap i (chargeCap e n)
        let cmd := newCmd (.send space addr n i e (capSent e) dsts.toNat) { acq := false, rel := false, scope := rel.getD 0 } .none 0 none
        .done (s.setAgent k { a with
          cmds := a.cmds ++ [{ cmd with id := a.ids }], ids := a.ids + 1, pending := (sCode dsts.toNat, a.runs) :: a.pending }))

/-- The local receive queue of an entry (R328). -/
def capQueue (e : Nat) : Nat := field (capEndpt e) 20 4
def Ctx.queueOf (c : Ctx) (q : Nat) : List Msg := match tabGet c.rx q with | some l => l | none => []
def Ctx.setQueue (c : Ctx) (q : Nat) (l : List Msg) : Ctx := { c with rx := if l = [] then mapDel c.rx q else mapPut c.rx q l }

/-- A message as CHRECV writes it into a buffer of n bytes. -/
def Msg.received (m : Msg) (n : Nat) : List Byte :=
  let room := n - 16
  msgHeader m.bytes.length m.num m.peer m.ctx ((decide (room < m.bytes.length)).toNat + 2 * m.gap.toNat) ++ m.bytes.take room

/-- CHRECV (R338). One that waits keeps the entry it was checked against (R329). -/
def execChrecv (p : Pred) (dst ctl len dsts : SReg) (acq : Option (BitVec 3)) (s : State) : Res :=
  let lenOf (a : Agent) : Nat := (a.s len.toNat).toNat
  channelWord false dsts p [dst.toNat, dst.toNat + 1, ctl.toNat, len.toNat] [ctl.toNat, len.toNat]
    (fun a => highBits (a.s ctl.toNat) 9 || lenOf a % 4 ≠ 0 || lenOf a < 16 || 1048592 < lenOf a) s fun s k a =>
      let n := lenOf a
      let space := field (a.s ctl.toNat).toNat 8 1
      let addr := (a.pair dst.toNat).toNat
      let e := match a.block with | .chrecv e => e | _ => s.cap a.ctx (field (a.s ctl.toNat).toNat 0 8)
      let d := capDetail e (fun e => capKind e == 1) capRecv 0
      let c := s.rangeCode a space addr n
      if d ≠ 0 then capTrap d
      else if c ≠ 0 then memUniform c
      else orderWait s a (
        if a.outTo space || space = 0 && s.sideHeld a.ctx addr n then .wait false s
        else match s.ctx? a.ctx with
          | none => .wait false s
          | some x => match x.queueOf (capQueue e) with
            | [] => .wait false (s.modAgent k fun a => { a with block := .chrecv e })
            | m :: ms =>
              let bs := m.received n
              let s := (s.setCtx a.ctx (x.setQueue (capQueue e) ms)).setAgent k a
              let s := (s.sideWrite k a space addr bs).modAgent k fun a => a.setS dsts.toNat (word bs.length)
              .done (match acq with | some sc => s.acquire k a.ctx sc.toNat | none => s))

def execChpoll (p : Pred) (ctl dsts : SReg) (s : State) : Res :=
  channelWord false dsts p [ctl.toNat] [ctl.toNat] (fun a => highBits (a.s ctl.toNat) 8) s fun s k a =>
    let e := s.cap a.ctx (field (a.s ctl.toNat).toNat 0 8)
    let d := capDetail e (fun e => capKind e == 1) capRecv 0
    if d ≠ 0 then capTrap d
    else
      let q := match s.ctx? a.ctx with | some x => x.queueOf (capQueue e) | none => []
      .done (s.setAgent k (a.setS dsts.toNat (match q with | [] => 0 | m :: _ => word (16 + m.bytes.length))))

def execChcap (p : Pred) (idx widx dsts : SReg) (s : State) : Res :=
  channelWord false dsts p [idx.toNat, widx.toNat] [idx.toNat] (fun a => highBits (a.s idx.toNat) 8) s fun s k a =>
    let w := (a.s widx.toNat).toNat % 8
    let v := field (s.cap a.ctx (field (a.s idx.toNat).toNat 0 8)) (32 * w) 32
    .done (s.setAgent k (a.setS dsts.toNat (word (if w = 0 && !a.sv then v % 2 ^ 16 else v))))

/-! CHGRANT (R341). -/

/-- Operation 0: replace an entry, keeping its counts where KIND and ENDPT stay. -/
def grantWrite (old image : Nat) : Nat :=
  let keep := capKind old == capKind image && capEndpt old == capEndpt image
  setField image 192 64 (if keep then field old 192 64 else 0)

/-- Whether a collective of the partition that uses a hub slot is in flight. -/
def State.hubSlotBusy (s : State) (part n : Nat) : Bool :=
  s.ctxs.any fun c => c.1 / 16 == part && c.2.colls.any fun x => x.st == 0 && x.cmp && x.hslot == n

def State.bindHub (s : State) (k : Nat) (a : Agent) (n ref : Nat) : Nat × State :=
  let part := a.ctx / 16
  let (dropped, s) := s.choose
  let s := if dropped then s.dropImages else s
  match s.part? part with
  | none => (1, s)
  | some p =>
    let r := if bitAt ref 63 then factoryRead ref else s.memoryRead (quadOf k) a.ctx ref p
    let (r, s) := s.admitImage part p r
    let p := (s.part? part).getD p
    let p := p.measure (measureRecord p r n 0xFF a.ctx)
    (r.status, s.setPart part (match r.image with | some im => { p with hslots := mapPut p.hslots n im } | none => p))

/-- CHGRANT: the operation is that of its register; 3 is out of limits. -/
def chgrantWord (p : Pred) (desc op img dsts : SReg) (s : State) : Res :=
  let opOf (a : Agent) : Nat := field (a.s op.toNat).toNat 8 2
  channelWord true dsts p [desc.toNat, op.toNat, img.toNat, img.toNat + 1] [op.toNat] (fun a => highBits (a.s op.toNat) 10 || opOf a == 3) s fun s k a =>
    let i := field (a.s op.toNat).toNat 0 8
    let status (s : State) (n : Nat) : Verdict := .done ((s.setAgent k a).modAgent k fun a => a.setS dsts.toNat (word n))
    match opOf a with
    | 0 => orderWait s a <| if a.clusterBusy then .wait false s else match s.clusterBytes a (a.s desc.toNat).toNat 32 with
      | .error c => memUniform c
      | .ok bs =>
        let image := natOfBytes bs
        if !capImageOk image then status s 1 else status (s.modCtx a.ctx fun c => c.setCap i (grantWrite (c.cap i) image)) 0
    | 1 => status (s.modCtx a.ctx fun c => c.setCap i (setField (c.cap i) 0 4 0)) 0
    | _ =>
      orderWait s a (
        let ref := (a.pair img.toNat).toNat
        let held := !bitAt ref 63 && s.sideHeld a.ctx ref (256 + 61440 + 4672)
        if s.hubSlotBusy (a.ctx / 16) (i % 8) || a.usc != 0 || held then .wait false s
        else
          let (st, s) := s.bindHub k a (i % 8) ref
          status s st)

def execChgrantWrite (p : Pred) (desc op img dsts : SReg) (s : State) : Res := chgrantWord p desc op img dsts s
def execChgrantRevoke (p : Pred) (desc op img dsts : SReg) (s : State) : Res := chgrantWord p desc op img dsts s
def execChgrantBind (p : Pred) (desc op img dsts : SReg) (s : State) : Res := chgrantWord p desc op img dsts s

/-! CHKEY (R333, R342). -/

/-- The peers whose keys an entry's session holds: its endpoint's, or a group's devices, which the entry does not name. -/
def capPeers (e : Nat) : List Nat := if capKind e = 1 then [field (capEndpt e) 0 16] else []

def execChkey (p : Pred) (idx dsts : SReg) (s : State) : Res :=
  channelWord false dsts p [idx.toNat] [idx.toNat] (fun a => highBits (a.s idx.toNat) 8) s fun s k a =>
    let e := s.cap a.ctx (field (a.s idx.toNat).toNat 0 8)
    let d := capDetail e (fun e => capKind e == 1 || capKind e == 3) (fun e => capSend e || capRecv e || capColl e) 0
    if d ≠ 0 then capTrap d
    else match s.part? (a.ctx / 16) with
      | none => .wait false s
      | some pt =>
        if (pt.session (capSkey e)).agreed then .done (s.setAgent k (a.setS dsts.toNat 0))
        else
          let s := s.seek (sessionOf a.ctx (capSkey e)) (capPeers e)
          let pt := (s.part? (a.ctx / 16)).getD pt
          let x := pt.session (capSkey e)
          .done ((s.setPart (a.ctx / 16) (pt.setSession (capSkey e) { x with waiters := x.waiters ++ [(a.uid, dsts.toNat)] })).setAgent k
            { a with pending := (sCode dsts.toNat, a.runs) :: a.pending })

/-- A session's agreement ends: everyone who waits receives its status. -/
def State.endAgreement (s : State) (part skey : Nat) (status : Nat) : State :=
  match s.part? part with
  | none => s
  | some p =>
    let x := p.session skey
    let s := s.setPart part (p.setSession skey { noSession with agreed := status == 0 })
    x.waiters.foldl (fun s w => s.deliverUid w.1 w.2 (word status)) s

def execChkeyTimeout (part skey : Nat) (s : State) : Res :=
  match s.part? part with
  | none => .fault .notEnabled
  | some p => if !(p.session skey).asking then .fault .notEnabled else .next (s.endAgreement part skey 2)
/-- Keys are renewed and nothing waits on it: programs see no change (R333). -/
def execKeyRenewal (part skey : Nat) (s : State) : Res :=
  match s.part? part with
  | none => .fault .notEnabled
  | some p => if (p.session skey).agreed then .next s else .fault .notEnabled

/-! Collectives (R343 to R348). -/

/-- A contribution's words on the wire, or a result's: codes, one a word, or block records (R347). -/
def wireVals (im : Option Image) (count : Nat) (ws : List Word) : List Val :=
  match im with
  | none => ws.map fun w => decodeCode fp32 w.toNat
  | some im =>
    if im.blk = 0 then ws.map fun w => decodeCode im w.toNat
    else
      let n := natOfBytes (ws.flatMap fun w => bytesOfNat 4 w.toNat)
      (List.range count).map fun i => (blockDecode im (field n (8 * im.blkBytes * (i / 32)) (8 * im.blkBytes)) (i % 32)).1
def wordsOfNat (n k : Nat) : List Word := (List.range n).map fun i => word (field k (32 * i) 32)
def blocksOf : Nat → List Val → List (List Val)
  | 0, _ => []
  | f + 1, vs => if vs = [] then [] else (vs.take 32 ++ List.replicate (32 - (vs.take 32).length) (.num false 0 0)) :: blocksOf f (vs.drop 32)
def wireEncode (im : Image) (vs : List Val) : List Word :=
  if im.blk = 0 then vs.map fun v => word (encodeVal im 0 true v).1
  else (blocksOf (vs.length / 32 + 1) vs).flatMap fun b =>
    wordsOfNat (im.blkBytes / 4) (if im.blk = 2 then (fp4xEncode b).1 else (mxEncode im 0 b).1)

/-- The bytes a contribution puts on the wire (R347). -/
def wireBytes (im : Option Image) (count : Nat) : Nat :=
  match im with
  | none => 4 * count
  | some im => if im.blk = 0 then (count * im.ew + 7) / 8 else (count + 31) / 32 * im.blkBytes

structure CollDesc where
  src : Nat
  dst : Nat
  res : Nat
  resid : Nat
  count : Nat
  op : Nat
  cmp : Bool
  root : Nat
  quorum : Nat
  deadline : Nat
  bo : Nat
  deriving DecidableEq, Repr

/-- A descriptor, or none where a value is outside its limits (R343). -/
def parseColl (d : List Byte) (fn members : Nat) : Option CollDesc :=
  let n := descNum d
  let c : CollDesc := { src := n 0 8, dst := n 8 8, res := n 0x10 8, resid := n 0x18 8, count := n 0x20 4, op := field (n 0x24 2) 0 3,
                        cmp := bitAt (n 0x24 2) 3, root := n 0x26 2, quorum := n 0x28 2, deadline := n 0x2C 4, bo := n 0x30 8 }
  if c.res % 16 ≠ 0 || c.count = 0 || 2 ^ 24 < c.count || (if fn = 0 then 4 < c.op else c.op != 0) || field (n 0x24 2) 4 12 != 0 ||
     members ≤ c.root || c.quorum = 0 || members < c.quorum || n 0x2A 2 != 0 || c.deadline = 0 || 3600000 < c.deadline || n 0x38 8 != 0 ||
     (c.op = 4 && c.cmp) || (c.resid ≠ 0 && !c.cmp)
  then none else some c

/-- The members a descriptor may name: an entry of another kind has no group, which CAP reports (R329). -/
def membersOf (e : Nat) : Nat := if capKind e = 3 then field (capEndpt e) 42 11 + 1 else 2 ^ 16
def groupId (e : Nat) : Nat := field (capEndpt e) 0 32
def groupMember (e : Nat) : Nat := field (capEndpt e) 32 10
def groupCount (e : Nat) : Nat := field (capEndpt e) 42 11 + 1

def Coll.key (c : Coll) (digest : Nat) : List Nat := [c.fn, c.count, c.op, c.cmp.toNat, c.root, c.quorum, c.deadline, digest]
def State.collImage (s : State) (ctx : Nat) (c : Coll) : Option Image :=
  if c.cmp then (match s.part? (ctx / 16) with | some p => tabGet p.hslots c.hslot | none => none) else none
def State.collDigest (s : State) (ctx : Nat) (c : Coll) : Nat := match s.collImage ctx c with | some im => im.digest | none => 0

/-- Exact sum of values in order (R348). -/
def sumVals (vs : List Val) : Val × Flags :=
  match vs with
  | [] => (.num false 0 0, 0)
  | v :: vs => vs.foldl (fun a x => let (r, f) := addVal 0 a.1 x; (r, a.2 ||| f)) (v, flIf (isNan v) flIV)
def nanIv (r : Val × Flags) : Val × Flags := if isNan r.1 then (r.1, r.2 ||| flIV) else r
def meanVal (v : Val) (n : Nat) : Val :=
  match v with
  | .num s m e => if m = 0 then .num s 0 0 else let (q, f) := divNum m n; .num s q (e + f)
  | v => v

/-- One element of COLLR over the accepted values (R348): its FP32 code and flags. -/
def reduceElem (op : Nat) (vs : List Val) : Nat × Flags :=
  match op with
  | 2 => encodeVal fp32 0 false (match vs with | [] => .nan false | v :: r => r.foldl (pickVal false) v)
  | 3 => encodeVal fp32 0 false (match vs with | [] => .nan false | v :: r => r.foldl (pickVal true) v)
  | op =>
    let (v, f) := nanIv (sumVals vs)
    let (c, g) := encodeVal fp32 0 false (if op = 1 then meanVal v vs.length else v)
    (c, f ||| g)

def rflOf (f : Flags) : Nat := (f.getLsbD 0).toNat + 2 * (f.getLsbD 2).toNat + 4 * (f.getLsbD 4).toNat

/-- A closed collective's result as it travels: a block of words for each member named, and RFL. -/
def collResult (im : Option Image) (c : Coll) : List (Nat × List Word) × Nat :=
  if c.got = [] then ([], 0)
  else match c.fn with
    | 0 =>
      if c.op = 4 then
        ([(0, (List.range c.count).map fun i => c.got.foldl (fun a g => a + (g.2.drop i).headD 0) 0)], 0)
      else
        let vs := c.got.map fun g => wireVals im c.count g.2
        let rs := (List.range c.count).map fun i => reduceElem c.op (vs.map fun v => (v.drop i).headD (.num false 0 0))
        let fl := rs.foldl (fun f r => f ||| r.2) 0
        let ws := rs.map fun r => word r.1
        ([(0, match im with | none => ws | some im => wireEncode im (ws.map fun w => decodeCode fp32 w.toNat))], rflOf fl)
    | 1 => (c.got, 0)
    | _ => ((c.got.filter fun g => g.1 == c.root).map fun g => (0, g.2), 0)

/-- A block of a result as DST receives it. -/
def resultBytes (im : Option Image) (count : Nat) (ws : List Word) : List Byte :=
  match im with
  | none => ws.flatMap fun w => bytesOfNat 4 w.toNat
  | some _ => (wireVals im count ws).flatMap fun v => bytesOfNat 4 (encodeVal fp32 0 false v).1

def memberMask (ms : List Nat) : Nat := ms.foldl (fun a m => if bitAt a m then a else a + 2 ^ m) 0

/-- An engine write for a context, whether or not its gang is still there. -/
def State.ctxWrite (s : State) (quad ctx addr : Nat) (bs : List Byte) : Except (Nat × Nat) State :=
  match s.writeGlobal quad ctx addr bs none with
  | .ok s => .ok ((s.dropL1 quad ctx addr bs.length).noteStore outsider ((s.spaceOf ctx addr).getD 0) (vaPrime addr) bs.length)
  | .error e => .error e

/-- One collective of one member. -/
def Coll.same (c d : Coll) : Bool := c.group == d.group && c.index == d.index && c.member == d.member
def State.putColl (s : State) (ctx : Nat) (c : Coll) : State :=
  s.modCtx ctx fun x => { x with colls := x.colls.map fun y => if y.same c then c else y }

/-- The arrival of a completed collective, once the team of its object is resident (R346). -/
def State.collArrive (s : State) (ctx : Nat) (c : Coll) : Coll × State :=
  match c.arrive with
  | none => (c, s)
  | some (scope, addr) =>
    let index := if bitAt addr.toNat 31 then field addr.toNat 32 32 else c.tindex
    match s.teams.find? fun t => t.2.grid == c.grid && t.2.index == index with
    | none => (c, s)
    | some (id, t) =>
      if c.arrived then (c, s)
      else
        let s := s.releaseFor (fun w => w.uid == c.agent && w.quad != 2 ^ 32) scope
        ({ c with arrived := true }, s.arriveAt { Agent.start with ctx, team := id, grid := t.grid, tindex := t.index } addr.toNat 1 0 0)

/-- Arrivals of completed collectives whose team has become resident. -/
def State.flushArrivals (s : State) (ctx : Nat) : State :=
  match s.ctx? ctx with
  | none => s
  | some x => x.colls.foldl (init := s) fun s c =>
    if c.st = 0 then s
    else
      let (c, s) := s.collArrive ctx c
      s.putColl ctx c

/-- What a collective's gang has come to (R346): it is there, saved with its team, or ended. -/
inductive CollGang where
  | live (k : Nat) (a : Agent)
  | saved (g : Grid) (x : Kept)
  | gone

def State.collGang (s : State) (c : Coll) : CollGang :=
  match s.agentByUid c.agent with
  | some (k, a) => if a.ended then .gone else .live k a
  | none => match s.grid? c.grid with
    | none => .gone
    | some g => match g.kept.find? fun x => x.1 == c.tindex && x.2.uid == c.agent with
      | some x => .saved g x.2
      | none => .gone
/-- A saved gang's store records found since its save. -/
def Grid.addLate (g : Grid) (c : Coll) (xs : List Access) : Grid :=
  { g with kept := g.kept.map fun x => if x.1 == c.tindex && x.2.uid == c.agent then (x.1, { x.2 with late := x.2.late ++ xs }) else x }
/-- The chunks where a collective's gang has been refused a write (R377). -/
def State.collRefused (s : State) (ctx : Nat) (c : Coll) : List (Nat × Nat) :=
  match s.collGang c with
  | .live _ a => s.refused a a.ids
  | .saved _ x => x.refused ++ s.refused { Agent.start with ctx, accs := x.late } (2 ^ 32)
  | .gone => []
/-- A fault of a collective's side, found late: held records of its gang, which a saved one takes up when it resumes, or an error of
its grid once it has ended (R102, R346); poison is fatal to a team that is there (R258). -/
def State.collFault (s : State) (c : Coll) (code va : Nat) (xs : Agent → List Access) : State :=
  match s.collGang c with
  | .live k a => if code = 100 then s.fatalStop k a 0x10 0 a.wordAddr a.slot.mask va else s.setAgent k (a.addAll (xs a))
  | .saved g _ =>
    if code = 100 then s.gridError c.grid (ErrRec.first 1 c.gang c.quad c.tindex 0x10 0 0 0 va 0)
    else s.setGrid c.grid (g.addLate c (xs Agent.start))
  | .gone => s.gridError c.grid (ErrRec.first 2 c.gang c.quad c.tindex 9 (code + 512) 0 0 va 0)
/-- The record of a side that could not be read: an ATOMN that adds 0 there, so that its replay checks the page and leaves what it
holds. DESIGN CHOICE (log 85): R346 calls the fault a store's, and there is no data to store. -/
def heldRead (code va : Nat) (a : Agent) : List Access :=
  [{ newAccess a (.atom 0 32 false) 3 0 31 (BitVec.ofNat 64 (va / 4 * 4)) none [mkLane 0 (8 * Int.ofNat (va / 4 * 4)) 0 0] none none with
    todo := 0, pend := 0, faulted := 1#32, codes := [(0, code)] }]
/-- A write of a collective as an engine write of its gang (R286, R346), and whether a page of it faulted. -/
def State.collWrite (s : State) (ctx : Nat) (c : Coll) (addr : Nat) (bs : List Byte) : State × Bool :=
  (piecesOf addr bs.length).foldl (init := (s, false)) fun r p =>
    let part := (bs.drop (p.1 - addr)).take p.2
    let w : Writer := { quad := c.quad, uid := c.agent, team := 2 ^ 64, grid := c.grid, rel := none }
    match r.1.putPiece c.quad ctx w (r.1.collRefused ctx c) p.1 part with
    | .ok s => (s, r.2)
    | .error code => (r.1.collFault c code p.1 fun a => heldPiece a code p.1 part, true)

/-- The result record of R345. -/
def resRecord (mask : Nat) (cnt st rf handle : Nat) : List Byte :=
  bytesOfNat 128 mask ++ bytesOfNat 4 cnt ++ [byte st, byte rf] ++ bytesOfNat 2 handle ++ bytesOfNat 8 0

/-- The last 256 completed collectives, the latest last (R349). -/
def recentColls (cs : List Coll) : List Coll :=
  let done := cs.filter fun c => c.st != 0
  done.drop (done.length - 256)
/-- Keep every collective in flight, those last completed, and every root's, which still discards what comes late (R346). -/
def pruneColls (cs : List Coll) : List Coll :=
  let recent := recentColls cs
  cs.filter fun c => c.st == 0 || c.member == c.root || recent.any c.same

/-- A member completes: DST, RES, the arrival (R346). The blocks of `data` go to DST by member. -/
def State.completeColl (s : State) (ctx : Nat) (c : Coll) (mask : List Nat) (st rf : Nat) (data : List (Nat × List Word)) : State :=
  let im := s.collImage ctx c
  let (s, bad) := data.foldl (fun (r : State × Bool) d =>
    let (s, b) := r.1.collWrite ctx c (c.dst + 4 * c.count * d.1) (resultBytes im c.count d.2)
    (s, r.2 || b)) (s, false)
  let (mask, st, rf) := if bad then ([], 3, 0) else (mask, st, rf)
  let (s, bad) := s.collWrite ctx c c.res (resRecord (memberMask mask) mask.length st rf c.serial)
  let (c, s) := s.collArrive ctx { c with st := if bad then 3 else st, cnt := mask.length }
  s.modCtx ctx fun x => { x with colls := pruneColls ((x.colls.filter fun y => !y.same c) ++ [c]) }

/-- What the root sends, to every other member. -/
def State.toMembers (s : State) (c : Coll) (p : Nat → Packet) : State :=
  ((List.range c.members).filter (· != c.root)).foldl (fun s m => s.sendOn (some c.session) [] (p m)) s

/-- The root closes: the result goes to every member, itself included where it has not completed with a fault of its own. -/
def State.closeColl (s : State) (ctx : Nat) (c : Coll) : State :=
  let st := if c.got.length < c.quorum then 2 else 1
  let (data, rf) := collResult (s.collImage ctx c) c
  let mask := c.got.map (·.1)
  let c := { c with closed := true }
  let s := (s.putColl ctx c).toMembers c fun m => .result c.group c.index m mask st rf data c.rejected
  if c.st = 0 then s.completeColl ctx c mask st rf data else s
/-- The root closes at its quorum. -/
def State.atQuorum (s : State) (ctx : Nat) (c : Coll) : State :=
  if c.quorum ≤ c.got.length then s.closeColl ctx c else s.putColl ctx c

/-- The root meets a contribution (R344, R346). COLLB's root sends its data to the members, whose receipts it counts (R348). -/
def State.contribute (s : State) (ctx : Nat) (c : Coll) (m : Nat) (key : List Nat) (ws : List Word) : State :=
  if c.closed then s.modCtx ctx fun x => x.setCap c.cap (satInc (x.cap c.cap) 240)
  else if key ≠ c.key (s.collDigest ctx c) then
    s.putColl ctx { c with rejected := c.rejected ++ [m], got := c.got.filter fun g => g.1 != m }
  else if c.fn = 2 && m ≠ c.root || c.got.any fun g => g.1 == m then s
  else
    let c := { c with got := c.got ++ [(m, ws)] }
    (if c.fn = 2 then s.toMembers c fun m => .broadcast c.group c.index m ws else s).atQuorum ctx c
/-- COLLB's root meets a member's receipt. -/
def State.receive (s : State) (ctx : Nat) (c : Coll) (m : Nat) : State :=
  if c.closed || c.rejected.contains m || c.got.any fun g => g.1 == m then s else s.atQuorum ctx { c with got := c.got ++ [(m, [])] }

/-- A member's contribution, and its residual (R347). -/
def formWords (im : Option Image) (count : Nat) (src resid : List Word) (fb : Bool) : List Word × List Word :=
  match im with
  | none => (src, [])
  | some im =>
    let xs := (List.range count).map fun i =>
      (addVal 0 (decodeCode fp32 ((src.drop i).headD 0).toNat) (if fb then decodeCode fp32 ((resid.drop i).headD 0).toNat else .num false 0 0)).1
    let ws := wireEncode im xs
    let cs := wireVals (some im) count ws
    (ws, (xs.zip cs).map fun p => if isNum p.1 then word (encodeVal fp32 0 false (addVal 0 p.1 (negVal p.2)).1).1 else 0)

def wordsIn (bs : List Byte) : List Word := wordsOfNat (bs.length / 4) (natOfBytes bs)

/-- The member's send: its words and the residual it leaves, or the fault of a side it reads. -/
def State.formColl (s : State) (k : Nat) (a : Agent) (c : Coll) (im : Option Image) : Except (Nat × Nat) (List Word × List Byte × State) :=
  match s.readGlobal (quadOf k) a.ctx c.src (4 * c.count) .read none with
  | .error e => .error e
  | .ok (bs, s) =>
    match (if c.resid = 0 then .ok ([], s) else s.readGlobal (quadOf k) a.ctx c.resid (4 * c.count) .read none) with
    | .error e => .error e
    | .ok (rs, s) =>
      let (ws, out) := formWords im c.count (wordsIn bs) (wordsIn rs) (decide (c.resid ≠ 0))
      .ok (ws, if c.resid = 0 then [] else out.flatMap fun w => bytesOfNat 4 w.toNat, s)
/-- What a member's issue comes to, once it has read its sides: RESID is written, and its contribution sent; a fault there is late
(R346). -/
def State.sendColl (s : State) (ctx : Nat) (c : Coll) (ws : List Word) (resid : List Byte) : State :=
  let (s, bad) := if resid = [] then (s, false) else s.collWrite ctx c c.resid resid
  if bad then s.completeColl ctx c [] 3 0 []
  else
    let key := c.key (s.collDigest ctx c)
    if c.member = c.root then s.contribute ctx c c.member key ws
    else s.sendOn (some c.session) [] (.contribution c.group c.index c.member key ws)
/-- A side of a collective lies behind its partition's earlier requests to a throttled row (R264). -/
def State.collBehind (s : State) (ctx : Nat) (c : Coll) : Bool :=
  s.sideHeld ctx c.dst (4 * c.count * (if c.fn = 1 then c.members else 1)) || s.sideHeld ctx c.res 144 || s.sideHeld ctx c.src (4 * c.count) ||
  (c.resid != 0 && s.sideHeld ctx c.resid (4 * c.count))

/-- The check of a collective's global sides at issue, and of its object (R309, R300). -/
def State.collSides (s : State) (a : Agent) (d : CollDesc) (fn members : Nat) (arr : Bool) : Nat :=
  let side (addr n : Nat) : Nat := s.rangeCode a 0 addr n
  firstCode ([side d.src (4 * d.count), side d.dst (4 * d.count * (if fn = 1 then members else 1)), side d.res 144] ++
    (if d.resid = 0 then [] else [side d.resid (4 * d.count)]) ++
    (if arr then [match s.barrierAt a d.bo with | .ok _ => 0 | .error c => c] else []))

/-- The values of a collective's descriptor break a limit of R343; one that cannot be read has none. -/
def State.collBad (s : State) (fn : Nat) (desc idx : SReg) (a : Agent) : Bool :=
  match s.clusterDesc a (a.s desc.toNat).toNat 64 with
  | .ok bs => (parseColl bs fn (membersOf (s.cap a.ctx (field (a.s idx.toNat).toNat 0 8)))).isNone
  | .error _ => false

/-- COLLR, COLLG and COLLB. Their descriptor's limits are held as XCOPY's are: whatever the predicate, and before the higher codes of
R51 (R50, R343). -/
def collWord (fn : Nat) (p : Pred) (desc idx dsts : SReg) (ord : XOrd) (arr : Bool) (s : State) : Res :=
  if (s.agent? s.cur).any fun a => !isSeq s.cur && !s.lenient s.cur && (a.acquiring || a.clusterBusy) then
    uniformWord .gang false [] always [] s fun s _ _ => .wait false s
  else
  channelWord false dsts p [desc.toNat, idx.toNat] [desc.toNat, idx.toNat]
      (fun a => highBits (a.s idx.toNat) 8 || (!s.lenient s.cur && s.collBad fn desc idx a)) s fun s k a =>
    let i := field (a.s idx.toNat).toNat 0 8
    let e := s.cap a.ctx i
    orderWait s a <| if a.clusterBusy then .wait false s else match s.clusterDesc a (a.s desc.toNat).toNat 64 with
    | .error c => (let d := capDetail e (fun e => capKind e == 3) capColl 0; if d ≠ 0 then capTrap d else memUniform c)
    | .ok bs => match parseColl bs fn (membersOf e) with
      | none => badValue s k a (some dsts.toNat)
      | some d =>
        let hub := match s.part? (a.ctx / 16) with | some pt => tabGet pt.hslots (capHslot e) | none => none
        let im := if d.cmp then hub else none
        let code := capDetail e (fun e => capKind e == 3)
          (fun e => capColl e && (!d.cmp || (capComp e && capHslotOk e && hub.isSome))) (wireBytes im d.count)
        let c := s.collSides a d fn (groupCount e) arr
        if code ≠ 0 then capTrap code
        else if c ≠ 0 then memUniform c
        else match s.ctx? a.ctx with
          | none => .wait false s
          | some x =>
            let g := groupId e
            let who := g * 1024 + groupMember e
            let kth := mapGet 0 x.groupNext who
            let coll : Coll := {
              serial := x.serial, cap := i, session := sessionOf a.ctx (capSkey e), group := g, member := groupMember e, members := groupCount e, index := kth, agent := a.uid, gang := a.gang,
              grid := a.grid, tindex := a.tindex, quad := quadOf k, fn, op := d.op, cmp := d.cmp, hslot := capHslot e, count := d.count,
              root := d.root, quorum := d.quorum, deadline := d.deadline, src := d.src, dst := d.dst, res := d.res, resid := d.resid,
              arrive := if arr then some (ord.scope.toNat, BitVec.ofNat 64 d.bo) else none, rel := ord.rel, got := [], rejected := [],
              closed := false, st := 0, cnt := 0, arrived := false }
            if 64 ≤ (x.colls.filter fun c => c.st == 0).length || a.outTo 0 || s.collBehind a.ctx coll then .wait false s
            else afterRelease (if ord.rel then some ord.scope.toNat else none) s a (fun s =>
              let x := { x.setCap i (chargeCap e (wireBytes im d.count)) with
                serial := (x.serial + 1) % 2 ^ 16, groupNext := mapSet 0 x.groupNext who (kth + 1), colls := x.colls ++ [coll] }
              let s := (s.setCtx a.ctx x).setAgent k (a.setS dsts.toNat (word coll.serial))
              let s := if ord.acq then s.acquire k a.ctx ord.scope.toNat else s
              match s.formColl k a coll im with
              | .error (100, va) => .trap 0x10 0 none va none
              | .error (code, va) => .done ((s.collFault coll code va (heldRead code va)).completeColl a.ctx coll [] 3 0 [])
              | .ok (ws, resid, s) => .done (s.sendColl a.ctx coll ws resid))

def execCollr (p : Pred) (desc idx dsts : SReg) (ord : XOrd) (arr : Bool) (s : State) : Res := collWord 0 p desc idx dsts ord arr s
def execCollg (p : Pred) (desc idx dsts : SReg) (ord : XOrd) (arr : Bool) (s : State) : Res := collWord 1 p desc idx dsts ord arr s
def execCollb (p : Pred) (desc idx dsts : SReg) (ord : XOrd) (arr : Bool) (s : State) : Res := collWord 2 p desc idx dsts ord arr s

/-- COLLQ's result (R349). -/
def Ctx.collState (c : Ctx) (h : Nat) : Nat × Nat :=
  match (c.colls.filter (fun x => x.st == 0) ++ (recentColls c.colls).reverse).find? fun x => x.serial == h with
  | some x => (x.st, x.cnt)
  | none => (7, 0)
def execCollq (p : Pred) (h dsts : SReg) (acq : Option (BitVec 3)) (s : State) : Res :=
  channelWord false dsts p [h.toNat] [] (fun _ => false) s fun s k a =>
    let (st, cnt) := match s.ctx? a.ctx with | some c => c.collState (field (a.s h.toNat).toNat 0 16) | none => (7, 0)
    let s' := s.setAgent k (a.setS dsts.toNat (word (st + 65536 * cnt)))
    .done (match acq with | some sc => if st = 0 || st = 7 then s' else s'.acquire k a.ctx sc.toNat | none => s')

/-- The context's mailboxes, launch queues and span traffic are held (R396), or it has stopped (R397). -/
def Ctx.stilled (c : Ctx) : Bool := c.frozen || c.halted

def execCollDeadline (ctx h : Nat) (s : State) : Res :=
  match s.ctx? ctx with
  | none => .fault .notEnabled
  | some x => match x.colls.find? fun c => c.serial == h && c.member == c.root && !c.closed with
    | none => .fault .notEnabled
    | some c => if x.stilled || s.collBehind ctx c then .fault .notEnabled else .next (s.closeColl ctx c)
def execCollNoResultTimeout (ctx h : Nat) (s : State) : Res :=
  match s.ctx? ctx with
  | none => .fault .notEnabled
  | some x => match x.colls.find? fun c => c.serial == h && c.st == 0 && c.member != c.root with
    | none => .fault .notEnabled
    | some c => if x.stilled || s.collBehind ctx c then .fault .notEnabled else .next (s.completeColl ctx c [] 3 0 [])

/-! Packets (R330, R331, R346). -/

/-- Deliver the messages of a stream that are next in order, each where its queue has room for it; fuel counts them. -/
def deliverStream (room : Nat → Bool) : Nat → Nat → Nat → Ctx → Ctx
  | 0, _, _, c => c
  | f + 1, q, st, c =>
    let n := mapGet 0 c.expect st
    let held := match tabGet c.early st with | some l => l | none => []
    match (if room f then held.find? fun m => m.num == n else none) with
    | none => c
    | some m =>
      let rest := held.filter fun x => x.num != n
      deliverStream room f q st { c.setQueue q (c.queueOf q ++ [{ m with gap := c.gaps.contains st }]) with
        early := if rest = [] then mapDel c.early st else mapPut c.early st rest, expect := mapSet 0 c.expect st ((n + 1) % 2 ^ 32) }

/-- A message number is behind what a stream expects: it was delivered or skipped. -/
def behind (num expect : Nat) : Bool := decide (2 ^ 31 ≤ (num + 2 ^ 32 - expect % 2 ^ 32) % 2 ^ 32)

/-- A whole message reaches a context's queue, whose room is free at the time or not; one held for want of room is delivered
when it comes again to room (R331). -/
def Ctx.accept (c : Ctx) (room : Nat → Bool) (q st : Nat) (m : Msg) : Ctx :=
  if behind m.num (mapGet 0 c.expect st) then c
  else
    let held := match tabGet c.early st with | some l => l | none => []
    let all := if held.any fun x => x.num == m.num then held else held ++ [m]
    deliverStream room (all.length + 1) q st { c with early := mapPut c.early st all }
/-- Whether a queue has room for each of some messages, which is not predictable (R331): the state's next choices. -/
def State.rooms (s : State) (i : Nat) : Bool := Config.choice (s.fresh + i)
def Ctx.heldOf (c : Ctx) (st : Nat) : Nat := (match tabGet c.early st with | some l => l | none => []).length

/-- Take a packet out of those that wait to leave. -/
def State.take (s : State) (x : Sent) : State := { s with hub := { s.hub with outbox := s.hub.outbox.erase x } }
/-- A packet that this device sends to itself: taken from those that wait, once its keys are agreed. -/
def State.looped (s : State) (p : Packet) : Option State :=
  (s.hub.outbox.find? fun x => x.packet == p && s.mayLeave x).map s.take
/-- A packet from another device arrives as it is, by a port in span use; one that this device sends must be what it has sent. -/
def State.arrives (s : State) (own : Bool) (p : Packet) : Option State := if own then s.looped p else if s.spanOpen then some s else none

/-- The collective of a member, of all contexts at work: the context, and its entry. -/
def State.collOf (s : State) (group index member : Nat) : Option (Nat × Coll) :=
  s.ctxs.findSome? fun x => if x.2.stilled then none
    else (x.2.colls.find? fun c => c.group == group && c.index == index && c.member == member).map fun c => (x.1, c)
/-- The collective of a group's root on this device. -/
def State.rootOf (s : State) (group index : Nat) : Option (Nat × Coll) :=
  s.ctxs.findSome? fun x => if x.2.stilled then none
    else (x.2.colls.find? fun c => c.group == group && c.index == index && c.member == c.root).map fun c => (x.1, c)

/-- What a message of the outbox to a peer is to the context it names, where that peer is this device: the partition's own. -/
def State.isLoop (s : State) (ctx stream : Nat) (num : Word) (dest : Nat) (queue : BitVec 4) (payload : List Byte) (x : Sent) : Bool :=
  s.toSelf x.packet && match x.packet with
  | .message _ c st n d q b => c == ctx && st == stream && n == num && d == dest % 16 && ctx / 16 == dest / 16 && q == queue && decide (b = payload)
  | _ => false

/-- A whole message for a receive queue (R331): from a peer of the partition's table, or from this device. -/
def State.takeMessage (s : State) (peer ctx stream : Nat) (num : Word) (dest : Nat) (queue : BitVec 4) (payload : List Byte) : Option State :=
  match s.ctx? dest, s.part? (dest / 16) with
  | some c, some pt =>
    let loop := s.hub.outbox.find? fun x => s.isLoop ctx stream num dest queue payload x && s.mayLeave x
    let known := if peer = 0xFFFF then loop.isSome else (tabGet pt.peers peer).isSome && !s.isSelf (dest / 16) peer && s.spanOpen
    if c.stilled || payload.length % 4 ≠ 0 || payload.length < 4 || 1048576 < payload.length || !known then none
    else
      let st := streamKey queue.toNat peer ctx stream
      let m : Msg := { num := num.toNat, peer, ctx := ctx % 16, stream, gap := false, bytes := payload }
      let n := c.heldOf st + 2
      let c := c.accept s.rooms queue.toNat st m
      let s := { s with fresh := s.fresh + n }.setCtx dest c
      some (match peer == 0xFFFF && behind num.toNat (mapGet 0 c.expect st), loop with
        | true, some x => s.take x
        | _, _ => s)
  | _, _ => none

/-- What a peer's access writes for the bytes it meets (R252): the counterpart of Access.request. -/
def requestData (req : List Nat) (n : Nat) (bs : List Byte) : Option (List Byte) :=
  let element (w o v skip : Nat) : List Byte :=
    ((putElement (List.replicate skip 0 ++ bs ++ List.replicate (byteSpan (Int.ofNat o) w - skip - n) 0) (Int.ofNat o) w v).drop skip).take n
  match req with
  | [] => none
  | 1 :: xs => some (xs.map byte)
  | [2, w, o, v] => some (element w o v 0)
  | [2, w, o, v, skip] => some (element w o v skip)
  | [32, w, o, v, cmp] => if elementOf bs (Int.ofNat o) w = cmp then some (element w o v 0) else none
  | [op, w, o, v] => some (element w o (atomNew (op - 16) w (elementOf bs (Int.ofNat o) w) v) 0)
  | _ => none
def requestNeed (req : List Nat) : Need := match req with | [] => .read | k :: _ => if k < 16 then .write else .atomic
/-- A peer's access to a context's memory (R252): performed as the context's own, for the first quadrant of its partition, where a span
engine's entry admits it (R404); one that faults does nothing here. -/
def State.peerRequest (s : State) (ctx va n : Nat) (req : List Nat) : State :=
  let open_ := s.hub.ports.any fun p => p.2 && s.admits .msc (258 + p.1) (ctx / 16) (requestNeed req != .read)
  if !open_ then s else
  let q := match s.part? (ctx / 16) with | some p => p.quads.headD 0 | none => 0
  let need := requestNeed req
  let kind : AccKind := match need with | .read => .load | .write => .store | _ => .atom 0 32 false
  let op := match need with | .read => 0 | .write => 1 | _ => 2
  match s.performPiece q ctx va n need op kind none req (requestData req n) with
  | .ok (_, _, s) => if need == .read then s else s.noteStore outsider ((s.spaceOf ctx va).getD 0) (vaPrime va) n
  | .error _ => s

/-- A packet of the span transport (R330), or what a receiving engine of the device takes of what the device itself sent. -/
def execPacketReceive (k : Packet) (s : State) : Res :=
  let done (r : Option State) : Res := match r with | some s => .next s | none => .fault .notEnabled
  match k with
  | .badTag => if !s.spanOpen then .fault .notEnabled else .next { s with hub := { s.hub with badTags := s.hub.badTags + 1 } }
  | .acked n => match s.hub.outbox[n]? with
    | none => .fault .notEnabled
    | some x => if !s.mayLeave x || isPost x.packet || s.toSelf x.packet || !s.spanOpen then .fault .notEnabled else .next (s.take x)
  | .message peer ctx stream num dest queue payload =>
    if peer = hostPeer then
      -- a host ring has room for the first message of a capability that waits for it (R337)
      match s.vfOf ctx, s.hub.outbox.find? (toHost ctx stream) with
      | some vf, some x =>
        if x.packet == k && !(s.ctx? ctx).any Ctx.stilled then done ((s.postMessage vf ctx stream dest num.toNat payload).map fun s => s.take x) else .fault .notEnabled
      | _, _ => .fault .notEnabled
    else done (s.takeMessage peer ctx stream num dest queue payload)
  | .skipped ctx cap _ => match s.ctx? ctx with
    | none => .fault .notEnabled
    | some _ => done ((s.arrives (s.looped k).isSome k).map fun s => s.modCtx ctx fun c => c.setCap cap (satInc (c.cap cap) 224))
  | .contribution group index member key data => match s.rootOf group index with
    | none => .fault .notEnabled
    | some (ctx, c) => if member = c.root || c.members ≤ member || s.collBehind ctx c then .fault .notEnabled
      else done ((s.arrives (s.collOf group index member).isSome k).map fun s => s.contribute ctx c member key data)
  | .receipt group index member => match s.rootOf group index with
    | none => .fault .notEnabled
    | some (ctx, c) => if member = c.root || c.members ≤ member || c.fn ≠ 2 || s.collBehind ctx c then .fault .notEnabled
      else done ((s.arrives (s.collOf group index member).isSome k).map fun s => s.receive ctx c member)
  | .broadcast group index member _ => match s.collOf group index member with
    | none => .fault .notEnabled
    | some (_, c) => if c.member = c.root || c.fn ≠ 2 || c.st ≠ 0 then .fault .notEnabled
      else done ((s.arrives (s.rootOf group index).isSome k).map fun s => s.sendOn (some c.session) [] (.receipt group index member))
  | .result group index member mask st rf data rejected => match s.collOf group index member with
    | none => .fault .notEnabled
    | some (ctx, c) => if c.member = c.root || c.st ≠ 0 || s.collBehind ctx c then .fault .notEnabled
      else done ((s.arrives (s.rootOf group index).isSome k).map fun s =>
        if rejected.contains c.member then s.completeColl ctx c mask 4 rf [] else s.completeColl ctx c mask st rf (if mask = [] then [] else data))
  | .access peer ctx va n req => match s.ctx? ctx, s.part? (ctx / 16) with
    | some c, some pt => if c.stilled || (tabGet pt.peers peer).isNone || n = 0 || 4096 < va % 4096 + n || !s.spanOpen || s.sideHeld ctx va n then .fault .notEnabled
      else .next (s.peerRequest ctx va n req)
    | _, _ => .fault .notEnabled
  | .agreed part skey peer identity => match s.part? part with
    | none => .fault .notEnabled
    | some p =>
      let x := p.session skey
      if !x.asking || !(x.sought = [] || x.sought.contains peer) || !(s.spanOpen || s.isSelf part peer) then .fault .notEnabled
      else .next (s.endAgreement part skey (if (tabGet p.peers peer).map (·.2) == some identity then 0 else 1))

/-- The receiver gives up a missing message of a context's stream behind which a later one waits (R331); one held for want of
room is missing too. Every later one of the stream is marked (R338), and the sender told. -/
def execMessageSkip (part queue peer stream : Nat) (s : State) : Res :=
  -- `part` numbers the receiving context, or of a host ring (peer 0x10000) the sender; `stream` is 256 × the sender's context + its capability
  match s.ctx? part with
  | none => .fault .notEnabled
  | some c =>
    let gap (st : Nat) : List Nat := if c.gaps.contains st then c.gaps else c.gaps ++ [st]
    if peer = hostPeer then
      match s.hub.outbox.filter (toHost part (stream % 256)) with
      | x :: _ :: _ => .next ((s.setCtx part { c.setCap (stream % 256) (satInc (c.cap (stream % 256)) 224) with gaps := gap (hostStream (stream % 256)) }).take x)
      | _ => .fault .notEnabled
    else
      let st := streamKey queue peer (stream / 256) (stream % 256)
      let n := mapGet 0 c.expect st
      let held := match tabGet c.early st with | some l => l | none => []
      let later := held.filter fun m => m.num != n
      if later = [] then .fault .notEnabled
      else
        let c := { c with early := mapPut c.early st later, expect := mapSet 0 c.expect st ((n + 1) % 2 ^ 32), gaps := gap st }
        let c := deliverStream s.rooms (later.length + 1) queue st c
        let sender := if peer = 0xFFFF then part / 16 * 16 + stream / 256 % 16 else stream / 256
        .next (({ s with fresh := s.fresh + later.length + 2 }.setCtx part c).sendOn none [] (.skipped sender (stream % 256) (word n)))

end Sys2Proof.Machine
end

