-- ==== Sys2Proof/Machine/Control.lean ====
section
/-! DEFINITION. Control-flow instructions (R98 to R103), slots and reconvergence (R79 to R84), FLASH. -/

namespace Sys2Proof.Machine

/-! Slots (R82). -/

/-- A slot in state RUN at its reconvergence run waits. -/
def arriveSlot (x : PcSlot) : PcSlot :=
  match x.st, x.rcv with
  | .run, some r => if r = x.pc then { x with st := .wait } else x
  | _, _ => x

def waitMask (x : PcSlot) : Mask := match x.st with | .wait => x.mask | _ => 0#32

/-- Resolution: while neither slot runs, a JOIN is popped; none: no lane is left. Fuel counts stack entries. -/
def resolveSlots : Nat → Agent → Option Agent
  | 0, a => if a.runsNow then some a else none
  | f + 1, a =>
    if a.runsNow then some a
    else match a.stack with
      | [] => none
      | .side e :: rest => resolveSlots f { a with slot1 := e, stack := rest }
      | .join pc _ rcv :: rest =>
        let w := waitMask a.slot0 ||| waitMask a.slot1
        let x : PcSlot := if w = 0 then deadSlot
          else { pc := pc, mask := w, rcv := rcv, st := if rcv = some pc then .wait else .run }
        match rest with
        | .side e :: rest' => resolveSlots f { a with slot0 := x, slot1 := e, stack := rest' }
        | rest => resolveSlots f { a with slot0 := x, slot1 := deadSlot, stack := rest }

/-- After a slot has moved: it may wait at its reconvergence run, and the slots resolve. -/
def Agent.settle (a : Agent) : Option Agent :=
  resolveSlots (a.stack.length + 1) { a with slot0 := arriveSlot a.slot0, slot1 := arriveSlot a.slot1 }

/-! Opcode 0x10 (R98 to R100). -/

/-- The issuing slot continues at an address when its run has completed (R40). -/
def State.branchTo (s : State) (k : Nat) (a : Agent) (x : Dword) : State := s.setAgent k (a.setFlow (.goto x))

def execBra (tgt : BitVec 24) (s : State) : Res :=
  uniformWord .all false [] always [] s fun s k a => .done (s.branchTo k a (a.target tgt))
def execBrq (p : Pred) (tgt : BitVec 24) (s : State) : Res :=
  uniformWord .all false [] p [] s fun s k a => .done (s.branchTo k a (a.target tgt))

/-- BRV's split (R81), the slots set for what follows the run; none: DIVERGE. -/
def Agent.splitAt (a : Agent) (p : Pred) (tgt rcv : BitVec 24) : Option Agent :=
  let m := a.slot.mask
  let t := a.active p
  let n := m &&& ~~~ a.predMask p
  if t = m then some (a.setFlow (.goto (a.target tgt)))
  else if t = 0 then some (a.setFlow .fall)
  else
    let live := Agent.live a.other
    if a.stack.length + (if live then 2 else 1) > 256 then none
    else
      let st := if live then .side a.other :: a.stack else a.stack
      let join := a.target rcv
      let st := .join join m a.slot.rcv :: st
      some ((({ a with stack := st }.setSlot { pc := a.target tgt, mask := t, rcv := some join, st := .run }).setOther
        { pc := a.nextHeader, mask := n, rcv := some join, st := .run }).setFlow .stay)

/-- The address of entry i of a gang's divergence stack in its context area (R83, R391). -/
def divAddr (k i : Nat) : Nat := 0x01BFFF0000000000 + 0x17000 * (48 * quadOf k + k % 64) + 0x15000 + 32 * i

/-- The device's own writes of stack entries, the entry's index counted from the bottom; or the first fault. -/
def State.spillEntries (s : State) (k ctx : Nat) : List (Nat × Div) → Except (Nat × Nat) State
  | [] => .ok s
  | e :: es =>
    match s.writeGlobal (quadOf k) ctx (divAddr k e.1) (fieldBytes 32 (divFields e.2)) none with
    | .error x => .error x
    | .ok s => s.spillEntries k ctx es

/-- The entries a push moves to memory: those no longer among the newest four (R83). -/
def spilled (before after : List Div) : List (Nat × Div) :=
  ((List.range (after.length - 4)).drop (before.length - 4)).filterMap fun i => (after.reverse[i]?).map fun d => (i, d)

/-- What the device reads back of entries that return on chip (R83), index by index from the bottom: the entry as it was
pushed, or, where the bytes have been changed, either; or the first fault. -/
def State.refill (s : State) (k ctx : Nat) : List Nat → List Div → Except (Nat × Nat) (List Div × State)
  | [], st => .ok (st, s)
  | i :: is, st =>
    match s.readGlobal (quadOf k) ctx (divAddr k i) 32 .read none with
    | .error x => .error x
    | .ok (bs, s) => match st.reverse[i]? with
      | none => s.refill k ctx is st
      | some d =>
        if bs = fieldBytes 32 (divFields d) then s.refill k ctx is st
        else
          let c := s.choose
          let d' := if c.1 then divOf (fun o n => natOfBytes ((bs.drop o).take n)) 0 else d
          c.2.refill k ctx is (st.zipIdx.map fun p => if p.2 + i + 1 = st.length then d' else p.1)
/-- The entries that return on chip when a stack of n entries falls to m: those that become one of the newest four. -/
def refilled (n m : Nat) : List Nat := (List.range (n - 4)).drop (m - 4)
/-- The slots of a gang resolve (R82), with the reads of its context area (R83). -/
def State.settleArea (s : State) (k : Nat) (a : Agent) : Except (Nat × Nat) (Option Agent × State) :=
  let left := match a.settle with | some b => b.stack.length | none => 0
  match s.refill k a.ctx (refilled a.stack.length left) a.stack with
  | .error x => .error x
  | .ok (st, s) => .ok ({ a with stack := st }.settle, s)

/-- BRV (R81); a fault on the context area is fatal (R83). -/
def execBrv (p : Pred) (tgt rcv : BitVec 24) (s : State) : Res :=
  match s.agent? s.cur with
  | none => .fault .noIssuer
  | some a =>
    if isSeq s.cur then endWord s s.cur a 0 (illegal 0x15)
    else match a.splitAt p tgt rcv with
      | some a' => match s.spillEntries s.cur a.ctx (spilled a.stack a'.stack) with
        | .ok s' => endWord s s.cur a (a.active p) (.done (s'.setAgent s.cur a'))
        | .error _ => endWord s s.cur a (a.active p) (.trap 0x11 0 none 0 none)
      | none => endWord s s.cur a (a.active p) (.trap 0x04 0 none 0 none)

def execCall (p : Pred) (tgt : BitVec 24) (l : SReg) (s : State) : Res :=
  uniformWord .all false [l.toNat, l.toNat + 1] p [] s fun s k a =>
    .done (s.branchTo k (a.setPair l.toNat a.nextHeader) (a.target tgt))
/-- The link pair obeys the supervisor bank's rule for RET too (R99). -/
def execRet (p : Pred) (l : SReg) (s : State) : Res :=
  uniformWord .all false [l.toNat, l.toNat + 1] p [l.toNat, l.toNat + 1] s fun s k a =>
    .done (s.branchTo k a (a.pair l.toNat))
def execLoop (p : Pred) (tgt : BitVec 24) (c : SReg) (s : State) : Res :=
  uniformWord .all false [c.toNat] p [c.toNat] s fun s k a =>
    let n := a.s c.toNat - 1
    let a := a.setS c.toNat n
    .done (if n = 0 then s.setAgent k a else s.branchTo k a (a.target tgt))

/-! Opcode 0x11 (R101, R102). -/

/-- A sequencer that ends waits for its commands: the MSEQ for every matrix command, the DSEQ as a gang for its
copies (R102, R306). -/
def State.seqDrained (s : State) (k : Nat) (a : Agent) : Bool :=
  if isMseq k then !(s.quad (quadOf k)).queue.any (fun c => c.agent == k) else !a.cmds.any Cmd.keepsGang

/-- A sequencer stops (R102): the team counts it ended; its stores and commands go on. -/
def State.endSeq (s : State) (k : Nat) (a : Agent) : State :=
  let s := s.modTeam a.team fun t => if isMseq k then { t with mRun := false, edges := 0 } else { t with dRun := false }
  let s := if isMseq k && (s.quad (quadOf k)).fused != 0 then s.unfuse (quadOf k) else s
  (s.untold k a).leaveBehind k { a.orphan k with cmds := a.cmds.filter fun c => c.fault.isNone }

def endWordBody (s : State) (k : Nat) (a : Agent) : Verdict :=
  if isSeq k then (if s.seqDrained k a then .done (s.endSeq k a) else .wait false s)
  else .done (s.endGang k a)

/-- EXIT (R101): the slot's lanes leave; when none remains the gang ends. -/
def execExit (p : Pred) (s : State) : Res :=
  uniformWord .all false [] p [] s fun s k a =>
    if isSeq k then endWordBody s k a
    else
      let a' := (a.setSlot deadSlot).setFlow .stay
      match a'.settle with
      | none => .done (s.endGang k a)
      | some _ => .done (s.setAgent k a')
def execEndGang (p : Pred) (s : State) : Res := uniformWord .all false [] p [] s endWordBody
/-- YIELD (R101); a NOP on a sequencer (R105). -/
def execYield (p : Pred) (s : State) : Res :=
  uniformWord .all false [] p [] s fun s k a =>
    if isSeq k then .done s
    else
      let a := if a.which then { a with wait1 := 0 } else { a with wait0 := 0 }
      .done (s.setAgent k { a with block := .yield })
def execNop (p : Pred) (s : State) : Res := uniformWord .all false [] p [] s fun s _ _ => .done s

/-! FLASH (R38, R103). -/

/-- The recipe table of an agent's grid, as the dispatcher read it (R63, R65). -/
def State.recipes (s : State) (a : Agent) : List Nat := match s.grid? a.grid with | some g => g.shape.rcps | none => []

def flashAnchors (nv : BitVec 3) (a0 a1 a2 a3 : BitVec 8) : List Nat := [a0, a1, a2, a3].take nv.toNat |>.map (·.toNat)

/-- The rewind point of a FLASH, its anchors' values copied: a name keeps its value (R103, R110). -/
def rewindPoint (s : State) (a : Agent) (vs : List Nat) (sb4 : BitVec 7) (ns rcp : BitVec 5) : RewindPt :=
  { header := a.header, rcv := a.slot.rcv, mask := a.slot.mask,
    recipe := BitVec.ofNat 64 (((s.recipes a).drop rcp.toNat).headD 0),
    anchors := vs, names := [], vecs := vs.map a.v, sb := sb4.toNat,
    scalars := (List.range ns.toNat).map fun i => a.s (4 * sb4.toNat + i), blocks := a.blocks }

/-- FLASH. Of several anchors outside the blocks REGBLOCK reports the lowest: DESIGN CHOICE (log 66). -/
def execFlash (nv : BitVec 3) (a0 a1 a2 a3 : BitVec 8) (sb4 : BitVec 7) (ns rcp : BitVec 5) (s : State) : Res :=
  match s.agent? s.cur with
  | none => .fault .noIssuer
  | some a =>
    let vs := flashAnchors nv a0 a1 a2 a3
    if (s.recipes a).length ≤ rcp.toNat then endWord s s.cur a 0 (illegal 0x12)
    else if isSeq s.cur then endWord s s.cur a 0 (illegal 0x15)
    else match (vs.filter fun n => !a.hasV n).foldl (fun (m : Option Nat) n => match m with | none => some n | some x => some (min x n)) none with
      | some n => endWord s s.cur a 0 (regblock n)
      | none =>
        match readWait s s.cur a (vs.map vCode ++ (List.range ns.toNat).map fun i => sCode (4 * sb4.toNat + i)) [] with
        | some r => r
        | none =>
          let single := !Agent.live a.other && a.stack == []
          if single then
            let q := (s.quad (quadOf s.cur)).unpin a
            let (names, q) := q.pinAll a.ctx (vs.map a.name)
            let r := { rewindPoint s a vs sb4 ns rcp with names := names }
            endWord s s.cur a 0 (.done ((s.setQuad (quadOf s.cur) q).setAgent s.cur { a with rewindable := true, rwpt := some r }))
          else endWord s s.cur a 0 (.done (s.setAgent s.cur { a with rewindable := false }))

end Sys2Proof.Machine
end

