-- ==== Sys2Proof/Machine/Matrix.lean ====
section
/-! DEFINITION. The matrix sub-array (R205 to R238): the commands of opcode 0x4C, their queue, MREADV, fusion and the
lazy saving of the accumulators. -/

namespace Sys2Proof.Machine

/-! Planes and banks. -/

def Quad.activePlane (q : Quad) : Plane := if q.active then q.plane1 else q.plane0
def Quad.shadowPlane (q : Quad) : Plane := if q.active then q.plane0 else q.plane1
def Quad.setShadow (q : Quad) (p : Plane) : Quad := if q.active then { q with plane0 := p } else { q with plane1 := p }
def Quad.setBank (q : Quad) (vis : Bool) (r c : Nat) (w : Word) : Quad :=
  { q with banks := mapSet 0#32 q.banks (bankKey (q.bankNo vis) r c) w }
def tileOf (r c : Nat) : Nat := 4 * (r / 32) + c / 32
def Quad.markTile (q : Quad) (vis : Bool) (t : Nat) : Quad :=
  if vis then { q with dirtyV := q.dirtyV ||| (1#32 <<< t) } else { q with dirtyW := q.dirtyW ||| (1#32 <<< t) }

/-! Fusion's shape (R230, R231). -/

def fusedAxes (mask : Nat) : Nat × Nat :=
  (if mask = 4 || mask = 8 || mask = 15 then 2 else 1, if mask = 1 || mask = 2 || mask = 15 then 2 else 1)
/-- The output quadrants of a fusing quadrant, columns 0 to 127 first. -/
def outputsOf (q mask : Nat) : List Nat := (match mask with
  | 1 => [0, 1]
  | 2 => [2, 3]
  | 4 => [0]
  | 8 => [1]
  | 15 => [0, 1]
  | _ => [q % 4]).map (4 * (q / 4) + ·)
/-- Whether a quadrant is a member of another quadrant's fusion. -/
def State.inFusion (s : State) (q : Nat) : Bool :=
  (List.range 4).any fun i =>
    let f := 4 * (q / 4) + i
    f != q && (s.quad f).fused != 0 && (fusedMembers f (s.quad f).fused).contains q
/-- The members the commands of a quadrant's MSEQ use. -/
def State.membersOf (s : State) (q : Nat) : List Nat :=
  if (s.quad q).fused = 0 then [q] else fusedMembers q (s.quad q).fused
/-- The first k and n of the part of a joined plane that lies on member m of q's fusion (R231). -/
def partOf (q m : Nat) : Nat × Nat := (128 * ((m - q) / 2), 128 * ((m - q) % 2))
/-- The same for a quadrant by the fusion it stands in, if any. -/
def State.partHeld (s : State) (m : Nat) : Nat × Nat :=
  match (List.range 4).find? fun i => let f := 4 * (m / 4) + i
      (s.quad f).fused != 0 && (fusedMembers f (s.quad f).fused).contains m with
  | some i => partOf (4 * (m / 4) + i) m
  | none => (0, 0)

/-! Records (R207 to R209). -/

def recordSize (im : Image) (ns k : Nat) : Nat :=
  if ns != 128 then k / 128 * (16 + ns * im.ew / 8)
  else if im.blk != 0 then (k + 31) / 32 * im.blkBytes
  else (k * im.ew + 7) / 8

/-- Element k of a record, or none where a sparse column holds no weight. -/
def recordElem (im : Image) (ns rec k : Nat) : Option Val :=
  if ns != 128 then
    let lo := k / 128 * (8 * (16 + ns * im.ew / 8))
    let mask := field rec lo 128
    if bitAt mask (k % 128) then
      let j := ((List.range (k % 128)).filter fun i => bitAt mask i).length
      some (if j < ns then decodeCode im (field rec (lo + 128 + im.ew * j) im.ew) else .num false 0 0)
    else none
  else if im.blk != 0 then some (blockDecode im (field rec (8 * im.blkBytes * (k / 32)) (8 * im.blkBytes)) (k % 32)).1
  else some (decodeCode im (field rec (im.ew * k) im.ew))

/-! Accumulation (R210 to R212). -/

/-- c of a LOG6 value (R161). -/
def logCofVal (m : Nat) (e : Int) : Int :=
  4 * (e + 7) + (if m = 0x80 then 0 else if m = 0x98 then 1 else if m = 0xB5 then 2 else 3)
def prodVals (log : Bool) (x w : Val) : Val :=
  if log then
    match x, w with
    | .num s m e, .num t n f => if m = 0 || n = 0 then .num (s != t) 0 0 else logVal (s != t) (logCofVal m e + logCofVal n f)
    | _, _ => .nan false
  else (mulVal x w).1

/-- The integer R159 decodes, for a value of an integer kind: its signed significand, whatever scale an MX block gives it
(R163, R212). A block whose scale is 0xFF gives no integer, and the weight is free (log entry 7). -/
def intOfVal : Val → Int
  | .num s m _ => scaled s m 0 0
  | .inf s => Config.oddWeight s
  | .nan s => Config.oddWeight s

def fp32Code (v : Val) : Nat := (encodeVal fp32 0 false v).1

/-- One output element of a stream row: x gives the activations, w the column's weights. -/
def streamElem (log z i32 : Bool) (k : Nat) (x : Nat → Val) (w : Nat → Option Val) (old : Nat) : Nat :=
  if i32 then
    let t := (List.range k).foldl (fun t i => match w i with | some v => t + intOfVal (x i) * intOfVal v | none => t)
      (if z then 0 else Int.ofNat old)
    wrap 32 t
  else
    (List.range ((k + 31) / 32)).foldl (init := old) fun a g =>
      let ps := ((List.range 32).map (32 * g + ·)).filterMap fun i =>
        if i < k then (w i).map fun v => prodVals log (x i) v else none
      if ps = [] then (if z && g = 0 then 0 else a)
      else
        let r := (groupSum ps).1
        if z && g = 0 then fp32Code r else fp32Code (addVal 0 (decodeCode fp32 a) r).1

/-- A weight of the part of a plane that a quadrant holds. -/
def Plane.weight (p : Plane) (k n : Nat) : Option Val := tabGet p.cells (256 * n + k)
/-- A weight of the joined active plane of q's array: the member that holds its position gives it (R231). -/
def State.weightAt (s : State) (q k n : Nat) : Option Val :=
  match (s.membersOf q).find? fun m => partOf q m == (128 * (k / 128), 128 * (n / 128)) with
  | some m => (s.quad m).activePlane.weight (k % 128) (n % 128)
  | none => none

/-- A stream row into the working banks of the output quadrants. -/
def State.streamRow (s : State) (q : Nat) (p : Plane) (z i32 : Bool) (row : Nat) (x : Nat → Val) : State :=
  let outs := outputsOf q (s.quad q).fused
  (List.range (min p.n (128 * outs.length))).foldl (init := s) fun s n =>
    let o := (outs.drop (n / 128)).headD q
    let oq := s.quad o
    let v := streamElem (p.kind == 2) z i32 p.k x (fun k => s.weightAt q k n) (oq.bank false row (n % 128)).toNat
    s.setQuad o ((oq.setBank false row (n % 128) (word v)).markTile false (tileOf row (n % 128)))

/-! The queue (R214 to R217). -/

/-- The planes' descriptors as the queued commands will leave them: active, shadow. -/
def Quad.planesAfter (q : Quad) : Plane × Plane :=
  q.queue.foldl (fun p c => match c.kind with
    | .load _ im ns _ _ k n => (p.1, { Plane.empty with loaded := true, k, n, kind := im.kind, cls := im.cls, ns })
    | .flip => (p.2, p.1)
    | _ => p) ({ q.activePlane with cells := [], masks := [] }, { q.shadowPlane with cells := [], masks := [] })

/-- The place of a cluster address in its allocation's bank, where it lies in the agent's own (R207). -/
def State.ownCluster (s : State) (a : Agent) (addr : Nat) : Option (Team × Nat) :=
  match s.clusterTeam a addr, s.teamOf a with
  | some t, some u => if t.grid = u.grid && t.index = u.index then some (t, field addr 0 22) else none
  | _, _ => none

/-- The alignment and place of a command's records, and of its barrier object (R214 steps 5 and 6): a code or 0.
`last` is one past the highest byte accessed, from the base; 0 where nothing is. -/
def State.recordsFault (s : State) (a : Agent) (base stride last : Nat) (arr : Option Arrive) : Nat :=
  let bar := match arr with
    | some r => (match s.barrierAt a (a.s r.bar.toNat).toNat with | .ok _ => 0 | .error c => c)
    | none => 0
  let rec_ :=
    if base % 8 ≠ 0 || stride % 8 ≠ 0 then 1
    else if last = 0 then 0
    else match s.ownCluster a base with
      | some (t, off) => if off + last ≤ t.csize then 0 else 3
      | none => 3
  firstCode [rec_, bar]

def accownOf (q : Quad) : Nat := match q.accown with | some c => 512 + c | none => 0
/-- ACCFIRST (R233): the quadrant in the cluster and its ACCOWN. -/
def accFirst (q own : Nat) : Verdict := .trap 0x07 (q % 4 + 4 * own) none 0 none
/-- The lowest quadrant of a list that another context owns. -/
def State.notOwned (s : State) (ctx : Nat) (qs : List Nat) : Option Nat :=
  qs.find? fun q => (s.quad q).accown != some ctx

/-- The team has used the array (R390 FL [2]). -/
def State.usesMatrix (s : State) (a : Agent) : State := s.modTeam a.team fun t => { t with matrix := true }

/-- The MREADVs outstanding on some quadrants: their gangs' uids and numbers (R218). -/
def State.bankReaders (s : State) (qs : List Nat) : List (Nat × Nat) :=
  qs.flatMap fun q => (s.gangsOn q).flatMap fun p => (p.2.accs.filter fun x => x.ofBank && x.waiting).map (fun x => (p.2.uid, x.id))

/-- Queue a command (R214). -/
def queueCmd (s : State) (k : Nat) (a : Agent) (kind : MKind) (arr : Option Arrive) : Verdict :=
  let q := s.quad (quadOf k)
  let c : MCmd := {
    agent := k, team := a.team, mark := a.ids, kind, arrive := arr.map fun r => (r.scope.toNat, (a.s r.bar.toNat).setWidth 64)
    readers := s.bankReaders (outputsOf (quadOf k) q.fused), got := [] }
  .done ((((s.setQuad (quadOf k) { q with queue := q.queue ++ [c] }).setAgent k { a with rewindable := false })).usesMatrix a)

/-- The frame of a command: it waits for a slot, a fusion or a place in the queue, then makes the checks of R214. In the modes
of R52 a word with such a value, or too small a stride, is queued as a command of no effect that still arrives, and neither
ACCFIRST nor its barrier's checks are made at issue: DESIGN CHOICE (log 84), the spec does not say which of them remain.
`bad` is a value of the registers `vals` outside its limits; `rest` makes the checks after ACCFIRST. -/
def matrixWord (p : Pred) (reads vals : List Nat) (slots : List (BitVec 4)) (arr : Option Arrive) (bad : State → Agent → Bool) (s : State)
    (rest : State → Nat → Agent → Verdict) : Res :=
  valueWord .mseq false [] p (reads ++ (match arr with | some r => [r.bar.toNat] | none => [])) vals (bad s) s fun s k a => orderWait s a <|
    match s.slotsWait k a slots with
    | some s => .wait false s
    | none =>
      if s.inFusion (quadOf k) || 8 ≤ (s.quad (quadOf k)).queue.length then .wait false s
      else if bad s a then
        if s.lenient k then queueCmd s k { a with warn := true } .nothing arr else illegal 0x14
      else match s.notOwned a.ctx (s.membersOf (quadOf k)) with
        | some q => accFirst q (accownOf (s.quad q))
        | none => rest s k a

/-- The slot of a command (R154), or none for raw. -/
def State.cmdFormat (s : State) (k : Nat) (a : Agent) (slot : BitVec 4) (b : BlockNeed) : Except Nat Image :=
  s.formatOf (quadOf k) a.ctx slot b true

/-- R207's record size, R214's last checks, then the queue. -/
def finishCheck (s : State) (k : Nat) (a : Agent) (base stride size last : Nat) (arr : Option Arrive) (kind : MKind) : Verdict :=
  if stride < size then (if s.lenient k then queueCmd s k { a with warn := true } .nothing arr else illegal 0x14)
  else
    let c := s.recordsFault a base stride last arr
    if c != 0 then memUniform c else queueCmd s k a kind arr

/-- MLOADW and MLOADWS (R222): ns is 128 for a dense plane. -/
def loadPlane (ns : Nat) (p : Pred) (slot : BitVec 4) (desc shape : SReg) (arr : Option Arrive) (s : State) : Res :=
  let kn (a : Agent) : Nat × Nat := let w := (a.s shape.toNat).toNat; (field w 0 8 + 1, field w 8 8 + 1)
  matrixWord p [desc.toNat, desc.toNat + 1, shape.toNat] [shape.toNat] [slot] arr
    (fun s a =>
      let (kf, nf) := fusedAxes (s.quad (quadOf s.cur)).fused
      let (k, n) := kn a
      field (a.s shape.toNat).toNat 16 16 != 0 || decide (128 * kf < k) || decide (128 * nf < n) || (ns != 128 && k != 128 * kf)) s
    fun s key a =>
      let (k, n) := kn a
      match s.cmdFormat key a slot (if ns = 128 then .any else .none) with
      | .error d => format d
      | .ok im =>
        let base := (a.s desc.toNat).toNat
        let stride := (a.s (desc.toNat + 1)).toNat
        let size := recordSize im ns k
        finishCheck s key a base stride size ((n - 1) * stride + size) arr (.load slot.toNat im ns base stride k n)

def execMloadw (p : Pred) (slot : BitVec 4) (desc shape : SReg) (arr : Option Arrive) (s : State) : Res :=
  loadPlane 128 p slot desc shape arr s
def nsCode (ns : BitVec 2) : Nat := match ns.toNat with | 0 => 16 | 1 => 32 | 2 => 64 | _ => 96
def execMloadws (p : Pred) (slot : BitVec 4) (ns : BitVec 2) (desc shape : SReg) (arr : Option Arrive) (s : State) : Res :=
  loadPlane (nsCode ns) p slot desc shape arr s

def execMflip (p : Pred) (s : State) : Res :=
  matrixWord p [] [] [] none (fun _ _ => false) s fun s k a => queueCmd s k a .flip none

/-- FORMATPAIR's detail for a stream against a plane, or 0 (R206). -/
def pairDetail (im : Image) (pl : Plane) (i32 : Bool) : Nat :=
  if !pl.loaded then 0
  else if (im.kind == 2) != (pl.kind == 2) then 1
  else if i32 && (im.kind != 1 || pl.kind != 1 || im.blk != 0) then 2
  else 0

def execMstream (p : Pred) (slot : BitVec 4) (z i32 : Bool) (desc shape : SReg) (arr : Option Arrive) (s : State) : Res :=
  let mb (a : Agent) : Nat × Nat := let w := (a.s shape.toNat).toNat; (field w 0 8 + 1, field w 8 3)
  matrixWord p [desc.toNat, desc.toNat + 1, shape.toNat] [shape.toNat] [slot] arr
    (fun _ a => let (m, b) := mb a; field (a.s shape.toNat).toNat 11 21 != 0 || decide (256 < 32 * b + m)) s
    fun s k a =>
      let (m, b) := mb a
      match s.cmdFormat k a slot .any with
      | .error d => format d
      | .ok im =>
        let pl := (s.quad (quadOf k)).planesAfter.1
        let d := pairDetail im pl i32
        if d != 0 then .trap 0x06 d none 0 none
        else
          let base := (a.s desc.toNat).toNat
          let stride := (a.s (desc.toNat + 1)).toNat
          let size := if pl.loaded then recordSize im 128 pl.k else 0
          finishCheck s k a base stride size (if pl.loaded then (m - 1) * stride + size else 0) arr
            (.stream slot.toNat im z i32 base stride m b)

def execMswap (p : Pred) (arr : Option Arrive) (s : State) : Res :=
  matrixWord p [] [] [] arr (fun _ _ => false) s fun s k a =>
    let c := s.recordsFault a 0 0 0 arr
    if c != 0 then memUniform c else queueCmd s k a .swap arr

/-- The bytes of a drained row segment of 32 columns: their place in the record and their number (R226). -/
def drainSeg (im : Option Image) (c0 : Nat) : Nat × Nat :=
  match im with
  | none => (4 * c0, 128)
  | some im => if im.blk != 0 then (im.blkBytes * (c0 / 32), im.blkBytes) else (im.ew * (c0 / 8), 4 * im.ew)
def drainRecord (im : Option Image) (nf : Nat) : Nat :=
  match im with
  | none => 512 * nf
  | some im => if im.blk != 0 then 4 * nf * im.blkBytes else (128 * nf * im.ew + 7) / 8

def tilesOf (w : Word) : List Nat := lanesOf w

/-- One past the highest byte a drain writes, from its base. -/
def drainLast (im : Option Image) (nf stride : Nat) (tiles : Word) : Nat :=
  (tilesOf tiles).foldl (fun m t =>
    let (o, n) := drainSeg im (128 * (nf - 1) + 32 * (t % 4))
    max m ((32 * (t / 4) + 31) * stride + o + n)) 0

def execMdrain (p : Pred) (slot : BitVec 4) (rm : BitVec 2) (sat i32 : Bool) (desc mask : SReg) (arr : Option Arrive) (s : State) : Res :=
  matrixWord p [desc.toNat, desc.toNat + 1, mask.toNat] [] (if slot = 0 then [] else [slot]) arr (fun _ _ => false) s fun s k a =>
    match (if slot = 0 then .ok none else match s.cmdFormat k a slot .any with | .ok im => .ok (some im) | .error d => .error d : Except Nat (Option Image)) with
    | .error d => format d
    | .ok im =>
      let base := (a.s desc.toNat).toNat
      let stride := (a.s (desc.toNat + 1)).toNat
      let nf := (fusedAxes (s.quad (quadOf k)).fused).2
      let tiles := a.s mask.toNat
      finishCheck s k a base stride (drainRecord im nf) (drainLast im nf stride tiles) arr
        (.drain slot.toNat im rm.toNat sat i32 base stride tiles)

def execMclear (p : Pred) (vis : Bool) (mask : SReg) (s : State) : Res :=
  matrixWord p [mask.toNat] [] [] none (fun _ _ => false) s fun s k a => queueCmd s k a (.clear vis (a.s mask.toNat)) none

/-- MWAIT (R228). In a fused member's own MSEQ it does not wait for the fusion's end, for it queues nothing: DESIGN CHOICE (log 84),
R232 does not say. -/
def execMwait (p : Pred) (s : State) : Res :=
  uniformWord .mseq false [] p [] s fun s k _ =>
    if (s.quad (quadOf k)).queue.any fun c => c.agent == k then .wait false s else .done s

/-! The effects (R222 to R227). -/

/-- The bytes of a record as the command reads them: those it has read already, the others as they stand (R215). -/
def State.recordAt (s : State) (t : Team) (off : Nat) (got : List (Nat × Byte)) (place size : Nat) : Nat :=
  natOfBytes ((s.cmem.readBytes (cmemKey t.quad (t.cbase + off + place)) size).zipIdx.map fun b => (tabGet got (place + b.2)).getD b.1)

/-- MLOADW and MLOADWS: each member takes its part of the shadow plane, with the descriptor (R222, R231). -/
def State.runLoad (s : State) (q : Nat) (t : Team) (im : Image) (ns off stride k n : Nat) (got : List (Nat × Byte)) : State :=
  let recs := (List.range n).map fun j => s.recordAt t off got (j * stride) (recordSize im ns k)
  (s.membersOf q).foldl (init := s) fun s m =>
    let (k₀, n₀) := partOf q m
    let mine := (recs.drop n₀).take 128
    let cells := mine.zipIdx.flatMap fun r => (List.range (min 128 (k - k₀))).filterMap fun i =>
      (recordElem im ns r.1 (k₀ + i)).map fun v => (256 * r.2 + i, v)
    let masks := if ns = 128 then [] else mine.zipIdx.map fun r => (r.2, field r.1 (k₀ / 128 * (8 * (16 + ns * im.ew / 8))) 128)
    let x := s.quad m
    s.setQuad m (x.setShadow { x.shadowPlane with loaded := true, k, n, kind := im.kind, cls := im.cls, ns, psaved := false, cells, masks })

def State.runStream (s : State) (q : Nat) (t : Team) (im : Image) (z i32 : Bool) (off stride m b : Nat) (got : List (Nat × Byte)) : State :=
  let p := (s.quad q).activePlane
  if !p.loaded then s
  else (List.range m).foldl (init := s) fun s j =>
    let rec_ := s.recordAt t off got (j * stride) (recordSize im 128 p.k)
    s.streamRow q p z i32 (32 * b + j) fun k => (recordElem im 128 rec_ k).getD (.num false 0 0)

def Quad.swapBanks (q : Quad) : Quad :=
  { q with work := !q.work, dirtyW := q.dirtyV, dirtyV := q.dirtyW, tagW := q.tagV, tagV := q.tagW }

/-- A row segment of the visible bank as bytes, with its flags. -/
def drainBytes (im : Option Image) (rm : Nat) (sat i32 : Bool) (ws : List Word) : List Byte × Flags :=
  match im with
  | none => (ws.flatMap fun w => bytesOfNat 4 w.toNat, 0)
  | some im =>
    let vs := ws.map fun w => if i32 then intVal 32 false w.toNat else decodeCode fp32 w.toNat
    let (n, f) := if im.blk = 2 then fp4xEncode vs
      else if im.blk = 1 then mxEncode im rm vs
      else
        let cs := vs.map fun v => encodeVal im rm sat v
        (packCodes im.ew (cs.map (·.1)), cs.foldl (fun f c => f ||| c.2) 0)
    (bytesOfNat (drainSeg (some im) 0).2 n, f)

/-- A drain's row segments: the offset of each, its bytes and its flags. -/
def State.drainSegs (s : State) (q : Nat) (im : Option Image) (rm : Nat) (sat i32 : Bool) (stride : Nat) (tiles : Word) : List (Nat × List Byte × Flags) :=
  (outputsOf q (s.quad q).fused).zipIdx.flatMap fun o => (tilesOf tiles).flatMap fun ti => (List.range 32).map fun j =>
    let r := 32 * (ti / 4) + j
    let c := 32 * (ti % 4)
    (r * stride + (drainSeg im (128 * o.2 + c)).1, drainBytes im rm sat i32 ((List.range 32).map fun i => (s.quad o.1).bank true r (c + i)))

/-- The bytes not written yet are written. -/
def State.runDrain (s : State) (k : Nat) (t : Team) (segs : List (Nat × List Byte × Flags)) (off : Nat) (got : List (Nat × Byte)) : State :=
  segs.foldl (init := s) fun s g =>
    let key := cmemKey t.quad (t.cbase + off + g.1)
    let bs := (g.2.1.zip (s.cmem.readBytes key g.2.1.length)).zipIdx.map fun b => if (tabGet got (g.1 + b.2)).isSome then b.1.2 else b.1.1
    ({ s with cmem := s.cmem.writeBytes key bs } : State).modAgent k fun a => { a with flags := a.flags ||| g.2.2 }

def Quad.clearTiles (q : Quad) (vis : Bool) (tiles : Word) : Quad :=
  let b := q.bankNo vis
  let hit (key : Nat) : Bool := key / 32768 == b && tiles.getLsbD (tileOf (key % 32768 / 128) (key % 128))
  let q := { q with banks := q.banks.filter fun p => !hit p.1 }
  if vis then { q with dirtyV := q.dirtyV ||| tiles } else { q with dirtyW := q.dirtyW ||| tiles }

def State.onOutputs (s : State) (q : Nat) (f : Quad → Quad) : State :=
  (outputsOf q (s.quad q).fused).foldl (fun s o => s.setQuad o (f (s.quad o))) s

/-- A command's effect on planes, banks and memory (R215): what of its records it has not read or written yet is now. -/
def State.matrixEffect (s : State) (k q : Nat) (a : Agent) (kind : MKind) (got : List (Nat × Byte)) : State :=
  match kind with
  | .load _ im ns addr stride ke n => (match s.ownCluster a addr with | some (t, off) => s.runLoad q t im ns off stride ke n got | none => s)
  | .flip => (s.membersOf q).foldl (fun s m => s.setQuad m { s.quad m with active := !(s.quad m).active }) s
  | .stream _ im z i32 addr stride m b => (match s.ownCluster a addr with | some (t, off) => s.runStream q t im z i32 off stride m b got | none => s)
  | .swap => s.onOutputs q Quad.swapBanks
  | .drain _ im rm sat i32 addr stride tiles =>
    (match s.ownCluster a addr with | some (t, off) => s.runDrain k t (s.drainSegs q im rm sat i32 stride tiles) off got | none => s)
  | .clear vis tiles => s.onOutputs q fun x => x.clearTiles vis tiles
  | .nothing => s

/-- The pairs of commands the device overlaps (R215). -/
def MKind.overlaps : MKind → MKind → Bool
  | .load .., .stream .. => true
  | .stream .., .load .. => true
  | .drain .., .stream .. => true
  | .stream .., .drain .. => true
  | .clear true _, .stream .. => true
  | .stream .., .clear true _ => true
  | _, _ => false

/-- Read or write one byte of a command's records now (R215, R277): its place from the command's address. -/
def State.matrixByte (s : State) (quad : Nat) (a : Agent) (c : MCmd) (o : Nat) : Option (State × Byte) :=
  let reads (im : Image) (ns k n addr stride : Nat) : Option (State × Byte) :=
    match s.ownCluster a addr with
    | some (t, off) =>
      if o / stride < n && o % stride < recordSize im ns k then some (s, s.cmem.read (cmemKey t.quad (t.cbase + off + o))) else none
    | none => none
  match c.kind with
  | .load _ im ns addr stride k n => reads im ns k n addr stride
  | .stream _ im _ _ addr stride m _ =>
    let p := (s.quad quad).activePlane
    if p.loaded then reads im 128 p.k m addr stride else none
  | .drain _ im rm sat i32 addr stride tiles =>
    match s.ownCluster a addr, (s.drainSegs quad im rm sat i32 stride tiles).find? fun g => decide (g.1 ≤ o) && decide (o < g.1 + g.2.1.length) with
    | some (t, off), some g =>
      let b := (g.2.1.drop (o - g.1)).headD 0
      some ({ s with cmem := s.cmem.write (cmemKey t.quad (t.cbase + off + o)) b }, b)
    | _, _ => none
  | _ => none

/-- The places of a command's bytes that it may still read or write ahead of its end. -/
def State.matrixPlaces (s : State) (quad : Nat) (c : MCmd) : List Nat :=
  let records (stride n size : Nat) : List Nat := (List.range n).flatMap fun j => (List.range size).map (j * stride + ·)
  (match c.kind with
    | .load _ im ns _ stride k n => records stride n (recordSize im ns k)
    | .stream _ im _ _ _ stride m _ =>
      let p := (s.quad quad).activePlane
      if p.loaded then records stride m (recordSize im 128 p.k) else []
    | .drain _ im rm sat i32 _ stride tiles =>
      (s.drainSegs quad im rm sat i32 stride tiles).flatMap fun (g : Nat × List Byte × Flags) => (List.range g.2.1.length).map (g.1 + ·)
    | _ => []).filter fun o => (tabGet c.got o).isNone

/-- A command of the queue may act: every earlier one overlaps with it (R215), the MREADVs an MSWAP waits for have read
(R218), and the MSEQ's earlier accesses are performed (R216) and, before an arrival, returned, with those of the earlier commands
(R217). -/
def State.matrixMayAct (s : State) (quad cmd : Nat) (a : Agent) (c : MCmd) (ends : Bool) : Bool :=
  ((s.quad quad).queue.take cmd).all (fun e => e.kind.overlaps c.kind) &&
  (!ends || c.arrive.isNone || ((s.quad quad).queue.take cmd).all fun e => s.matrixPlaces quad e = []) &&
  (c.kind != .swap || !(s.bankReaders (outputsOf quad (s.quad quad).fused)).any c.readers.contains) &&
  !a.accs.any fun x => decide (x.id < c.mark) && (x.todo != 0 || (ends && c.arrive.isSome && x.pend != 0))

/-- A command of a quadrant's queue makes an access of one byte ahead of its end, or ends: what is left of its effect
takes place, then its arrival (R215 to R217). -/
def execMatrixCmdComplete (part : MatrixPart) (s : State) : Res :=
  let quad := part.quad
  let cmd := part.cmd
  match (s.quad quad).queue[cmd]? with
  | none => .fault .notEnabled
  | some c => match s.agent? c.agent with
    | none => .next (s.setQuad quad { s.quad quad with queue := (s.quad quad).queue.eraseIdx cmd })
    | some a =>
      if !s.matrixMayAct quad cmd a c part.byte.isNone then .fault .notEnabled
      else match part.byte with
        | some o =>
          if (tabGet c.got o).isSome then .fault .notEnabled
          else match s.matrixByte quad a c o with
            | none => .fault .notEnabled
            | some (s, b) => .next (s.setQuad quad { s.quad quad with queue := (s.quad quad).queue.set cmd { c with got := mapPut c.got o b } })
        | none =>
          let s := s.setQuad quad { s.quad quad with queue := (s.quad quad).queue.eraseIdx cmd }
          let s := s.matrixEffect c.agent quad a c.kind c.got
          .next (match c.arrive with | some (scope, addr) => (s.released a scope).arriveAt a addr.toNat 1 0 0 | none => s)

/-! MREADV (R218, R229): the owner check is made at issue, even with no active lane and before a parked load it reads (R371); the
bank is read when the values return. -/

def execMreadv (p : Pred) (_nr : Bool) (d : VDst) (sa : BitVec 7) (s : State) : Res :=
  match s.agent? s.cur with
  | none => .fault .noIssuer
  | some a =>
    let q := s.quad (quadOf s.cur)
    let issues := a.active p = 0 || (busyWait s s.cur a [sCode sa.toNat] [vdstCodeOf d]).isNone
    if !isSeq s.cur && (namedDst d).all a.hasV && issues && q.accown != some a.ctx then
      endWord s s.cur a (a.active p) (accFirst (quadOf s.cur) (accownOf q))
    else vectorWord p [sCode sa.toNat] [vdstCodeOf d] (namedDst d) s fun s k a act =>
      let w := (a.s sa.toNat).toNat
      let ls := (lanesOf act).map fun i => mkLane i (Int.ofNat (128 * field w 0 8 + 32 * field w 8 2 + i)) 0 0
      let x := { newAccess a .load 8 2 31 0 none ls (some (vdstCodeOf d)) none with id := a.ids, todo := 0 }
      poolWait s k a x (.done ((s.usesMatrix a).setAgent k (a.addAccess x)))

/-! Fusion (R230 to R232). -/

def State.mseqRuns (s : State) (q : Nat) : Bool := (s.agent? (mseqOf q)).isSome

/-- MFUSE's status; 0 where the members may join. -/
def State.fuseStatus (s : State) (q ctx mask : Nat) : Nat :=
  let ms := fusedMembers q mask
  if ms = [] || ms.head? != some q then 3
  else if ms.any (fun m => (s.quad m).retired || !(match s.part? (ctx / 16) with | some p => p.quads.contains m | none => false)) then 1
  else if (s.quad q).fused != 0 || ms.any (fun m => m != q && (s.mseqRuns m || (s.quad m).fused != 0 || s.inFusion m)) then 2
  else 0

def execMfuse (p : Pred) (edge dsts : SReg) (s : State) : Res :=
  valueWord .mseq false [dsts.toNat] p [edge.toNat] [edge.toNat] (fun a => decide (16 ≤ (a.s edge.toNat).toNat)) s fun s k a => orderWait s a <|
    let q := quadOf k
    let e := (a.s edge.toNat).toNat
    if s.inFusion q then .wait false s
    else if 16 ≤ e then (if s.lenient k then .done (s.setAgent k { a with warn := true }) else illegal 0x14)
    else match s.notOwned a.ctx [q] with
      | some x => accFirst x (accownOf (s.quad x))
      | none =>
        if (s.quad q).queue != [] then .wait false s
        else
          let st := s.fuseStatus q a.ctx e
          if st != 0 then .done (s.setAgent k ({ a with rewindable := false }.setS dsts.toNat (word st)))
          else match s.notOwned a.ctx (fusedMembers q e) with
            | some x => accFirst x (accownOf (s.quad x))
            | none =>
              let s := (fusedMembers q e).foldl (fun s m => s.setQuad m { s.quad m with plane0 := Plane.empty, plane1 := Plane.empty }) s
              let s := s.setQuad q { s.quad q with fused := e }
              .done ((s.setAgent k ({ a with rewindable := false }.setS dsts.toNat 0)).modTeam a.team fun t => { t with edges := e, matrix := true })

def execMsplit (p : Pred) (s : State) : Res :=
  uniformWord .mseq false [] p [] s fun s k a =>
    let q := quadOf k
    if s.inFusion q then .wait false s
    else match s.notOwned a.ctx (s.membersOf q) with
      | some x => accFirst x (accownOf (s.quad x))
      | none =>
        if (s.quad q).queue != [] then .wait false s
        else if (s.quad q).fused = 0 then .done s
        else .done ((s.unfuse q).modTeam a.team fun t => { t with edges := 0 })

/-! Ownership and lazy saving (R233 to R237). -/

/-- The canonical plane word of a cell (R235). -/
def cellWord (kind : Nat) (v : Option Val) : Nat :=
  match v with
  | none => 0
  | some (.nan s) => s.toNat * 2 ^ 31 + 3 * 2 ^ 28
  | some (.inf s) => s.toNat * 2 ^ 31 + 2 * 2 ^ 28
  | some (.num s m e) =>
    if m = 0 then s.toNat * 2 ^ 31
    else if kind = 2 then s.toNat * 2 ^ 31 + 4 * 2 ^ 28 + wrap 5 (logCofVal m e)
    else s.toNat * 2 ^ 31 + 2 ^ 28 + wrap 10 e * 2 ^ 18 + field m 0 12
def wordCell (w : Nat) : Val :=
  let s := bitAt w 31
  match field w 28 3 with
  | 0 => .num s 0 0
  | 1 => .num s (field w 0 12) (signed 10 (field w 18 10))
  | 2 => .inf s
  | 3 => .nan s
  | _ => logVal s (signed 5 (field w 0 5))

def saveSlot (base q : Nat) : Nat := base + 0x62000 * q
def tileRegion (vis : Bool) : Nat := if vis then 0x20000 else 0

/-- A save area's memory: bytes of the owner's system space. -/
def State.saveKey (s : State) (ctx q : Nat) : Nat :=
  sysKey (ctx / 16) (saveSlot (match s.ctx? ctx with | some c => c.saveBase | none => 0) q)

def Quad.tileBytes (q : Quad) (vis : Bool) (t : Nat) : List Byte :=
  (List.range 1024).flatMap fun i => bytesOfNat 4 (q.bank vis (32 * (t / 4) + i / 32) (32 * (t % 4) + i % 32)).toNat

def planeDesc (p : Plane) : List Byte :=
  if !p.loaded then List.replicate 8 0
  else [1, byte (p.k - 1), byte (p.n - 1), byte p.cls, byte p.kind, byte p.ns, 0, 0]

/-- What ACCSPILL writes of a bank: the tiles, and its SAVED word (R236). -/
def Quad.spillMask (q : Quad) (vis : Bool) : Word × Word :=
  let (dirty, same, own, other) := if vis then (q.dirtyV, !q.tagV, q.retV, q.retW) else (q.dirtyW, q.tagW, q.retW, q.retV)
  if same then (dirty, own ||| dirty) else (dirty ||| other, dirty ||| other)

def State.spillBank (s : State) (key : Nat) (q : Quad) (vis : Bool) : State :=
  let (w, mask) := q.spillMask vis
  let m := (tilesOf w).foldl (fun (m : Memory) t => m.writeBytes (key + tileRegion vis + 0x1000 * t) (q.tileBytes vis t)) s.sysm
  { s with sysm := m.writeNat (key + (if vis then 0x61004 else 0x61000)) 4 mask.toNat }

def State.spillPlane (s : State) (key : Nat) (p : Plane) (shadow : Bool) : State :=
  if !p.loaded || (p.psaved && p.preg == shadow) then s
  else
    let m := (List.range 128).foldl (fun (m : Memory) n => (List.range 128).foldl (fun (m : Memory) k =>
      m.writeNat (key + (if shadow then 0x50000 else 0x40000) + 4 * (128 * n + k)) 4 (cellWord p.kind (p.weight k n))) m) s.sysm
    let m := if p.ns = 128 then m else (List.range 128).foldl (fun (m : Memory) n =>
      m.writeNat (key + (if shadow then 0x60800 else 0x60000) + 16 * n) 16 (mapGet 0 p.masks n)) m
    { s with sysm := m }

/-- ACCSPILL's effect on an owned target (R236). -/
def State.spill (s : State) (q ctx : Nat) : State :=
  let x := s.quad q
  let key := s.saveKey ctx q
  let s := (s.spillBank key x false).spillBank key x true
  let s := (s.spillPlane key x.activePlane false).spillPlane key x.shadowPlane true
  let s := { s with sysm := (s.sysm.writeBytes (key + 0x61008) (planeDesc x.activePlane)).writeBytes (key + 0x61010) (planeDesc x.shadowPlane) }
  s.setQuad q { s.quad q with dirtyW := 0, dirtyV := 0, plane0 := Plane.empty, plane1 := Plane.empty, accown := none }

/-- A plane rebuilt from its descriptor (R237): the part of it whose first k and n are `part_` (R231). -/
def State.fillPlane (s : State) (key : Nat) (part_ : Nat × Nat) (shadow : Bool) : Plane :=
  let d := s.sysm.readBytes (key + (if shadow then 0x61010 else 0x61008)) 8
  let b (i : Nat) : Nat := natOfBytes ((d.drop i).take 1)
  if b 0 = 0 then { Plane.empty with preg := shadow }
  else
    let k := b 1 + 1
    let n := b 2 + 1
    let ns := b 5
    let mask (j : Nat) : Nat := s.sysm.readNat (key + (if shadow then 0x60800 else 0x60000) + 16 * j) 16
    let ks := min (k - part_.1) 128
    let cols := min (n - part_.2) 128
    let cells := (List.range cols).flatMap fun j => (List.range ks).filterMap fun i =>
      if ns = 128 || bitAt (mask j) i then
        some (256 * j + i, wordCell (s.sysm.readNat (key + (if shadow then 0x50000 else 0x40000) + 4 * (128 * j + i)) 4))
      else none
    { loaded := true, k, n, kind := b 4, cls := b 3, ns, psaved := true, preg := shadow, cells,
      masks := if ns = 128 then [] else (List.range cols).map fun j => (j, mask j) }

/-- ACCFILL's effect on an unowned target (R237). -/
def State.fill (s : State) (q ctx : Nat) : State :=
  let x := s.quad q
  let key := s.saveKey ctx q
  let saved (vis : Bool) : Word := word (s.sysm.readNat (key + (if vis then 0x61004 else 0x61000)) 4)
  let cell (vis : Bool) (r c : Nat) : Word :=
    if (saved vis).getLsbD (tileOf r c) then
      word (s.sysm.readNat (key + tileRegion vis + 0x1000 * tileOf r c + 4 * (32 * (r % 32) + c % 32)) 4)
    else 0#32
  let banks := (List.range 65536).filterMap fun i =>
    let w := cell (decide (i / 32768 ≠ x.bankNo false)) (i % 32768 / 128) (i % 128)
    if w = 0#32 then none else some (i, w)
  s.setQuad q { x with
    banks, dirtyW := 0, dirtyV := 0, tagW := true, tagV := false, retW := saved false, retV := saved true,
    plane0 := s.fillPlane key (s.partHeld q) x.active, plane1 := s.fillPlane key (s.partHeld q) (!x.active), accown := some ctx }

/-- Whether ACCSPILL and ACCFILL refuse a target (R236). -/
def State.targetRefused (s : State) (own target ctx : Nat) : Bool :=
  !(match s.part? (ctx / 16) with | some p => p.quads.contains target | none => false) ||
  (target != own && (s.mseqRuns target ||
    (((s.quad target).fused != 0 || s.inFusion target) && !(s.membersOf own).contains target)))

/-- Whether a command, MREADV or slot reload on a target's array has not completed: in its queue, or its fusion's. -/
def State.arrayBusy (s : State) (target : Nat) : Bool :=
  s.bankReaders [target] != [] ||
  (List.range 4).any fun i =>
    let f := 4 * (target / 4) + i
    (f == target || (fusedMembers f (s.quad f).fused).contains target) && (s.quad f).queue != []

def execAccspill (p : Pred) (tq : BitVec 2) (dsts : SReg) (s : State) : Res :=
  uniformWord .mseq true [dsts.toNat] p [] s fun s k a =>
    let target := 4 * clusterOf (quadOf k) + tq.toNat
    let status (s : State) (n : Nat) : Verdict :=
      .done ((s.usesMatrix a).modAgent k fun a => { a with rewindable := false }.setS dsts.toNat (word n))
    if s.inFusion (quadOf k) then .wait false s
    else if s.targetRefused (quadOf k) target a.ctx then status s 1
    else match (s.quad target).accown with
      | none => status s 2
      | some o => if s.arrayBusy target then .wait false s else status (s.spill target o) 0

def execAccfill (p : Pred) (tq : BitVec 2) (dsts : SReg) (s : State) : Res :=
  uniformWord .mseq true [dsts.toNat] p [] s fun s k a =>
    let target := 4 * clusterOf (quadOf k) + tq.toNat
    let status (s : State) (n : Nat) : Verdict :=
      .done ((s.usesMatrix a).modAgent k fun a => { a with rewindable := false }.setS dsts.toNat (word n))
    if s.inFusion (quadOf k) then .wait false s
    else if s.targetRefused (quadOf k) target a.ctx then status s 1
    else match (s.quad target).accown with
      | some _ => status s 2
      | none => if s.arrayBusy target then .wait false s else status (s.fill target a.ctx) 0

end Sys2Proof.Machine
end

