-- ==== Sys2Proof/Machine/Teams.lean ====
section
/-! DEFINITION. Teams (R63, R65, R364, R365, R387 to R392): what a kernel record asks, whether a team fits, its
admission, its save and its resume. -/

namespace Sys2Proof.Machine

/-! Kernel records (R63, R65). -/

/-- A team's cluster-memory allocation (R65). -/
def KRec.alloc (k : KRec) : Nat := (8 * k.bars + k.cmem + 4095) / 4096 * 4096
def KRec.lane (k : KRec) : Nat := 32 * 256 * k.lsgran

/-- A record from its first 128 bytes and its recipe table, or none where it breaks a limit (R65). -/
def parseKRec (b tab : List Byte) : Option KRec :=
  let n (o k : Nat) : Nat := natOfBytes ((b.drop o).take k)
  let nrcp := n 0x12 1
  let r : KRec := { entry := n 8 8, gangs := n 0x10 1, regs := n 0x11 1, engines := bitAt (n 0x13 1) 0, lsgran := n 0x14 2,
                    bars := n 0x16 2, cmem := n 0x18 4, rcps := (List.range nrcp).map fun i => natOfBytes ((tab.drop (8 * i)).take 8) }
  if n 0 2 = 1 && n 2 2 = 0x80 + 8 * nrcp && nrcp ≤ 32 && n 0x13 1 < 2 && 1 ≤ r.gangs && r.gangs ≤ 16 && 8 ≤ r.regs && r.regs ≤ 64 &&
     r.regs % 8 = 0 && r.lsgran ≤ 64 && r.bars ≤ 512 && r.cmem ≤ 4194304 && !bitAt (n 0x1C 2) 0 && n 0x1E 2 = 0 && n 0x5C 36 = 0
  then some r else none

def State.readKRec (s : State) (quad ctx addr : Nat) : Option KRec :=
  match s.readGlobal quad ctx addr 128 .read none with
  | .error _ => none
  | .ok (b, _) => match s.readGlobal quad ctx (addr + 128) (8 * natOfBytes ((b.drop 0x12).take 1)) .read none with
    | .ok (tab, _) => parseKRec b tab
    | .error _ => none

/-! Fit and placement (R364). -/

def State.teamsOn (s : State) (q : Nat) : List (Nat × Team) := s.teams.filter fun p => p.2.quad == q
def State.teamsIn (s : State) (cluster : Nat) : List (Nat × Team) := s.teams.filter fun p => clusterOf p.2.quad == cluster
def State.clusterUsed (s : State) (cluster : Nat) : Nat := (s.teamsIn cluster).foldl (fun n p => n + p.2.csize) 0
def Team.laneBytes (t : Team) : Nat := t.gangs * 32 * 256 * t.lsgran
def State.laneUsed (s : State) (q : Nat) : Nat := (s.teamsOn q).foldl (fun n p => n + p.2.laneBytes) 0

def State.fits (s : State) (q : Nat) (k : KRec) (entries : Nat) : Bool :=
  decide ((s.gangsOn q).length + k.gangs ≤ 48) && decide (entries ≤ s.freeEntries q) &&
  decide (s.laneUsed q + k.gangs * k.lane ≤ 2 ^ 19) && decide (s.clusterUsed (clusterOf q) + k.alloc ≤ 2 ^ 22) &&
  !(k.engines && (s.teamsOn q).any fun p => p.2.engines)
def KRec.entries (k : KRec) : Nat := k.gangs * (k.regs + 4)

/-- Whether one team fits an empty quadrant. -/
def KRec.fitsEmpty (k : KRec) : Bool :=
  decide (k.gangs ≤ 48) && decide (k.entries ≤ 3902) && decide (k.gangs * k.lane ≤ 2 ^ 19) && decide (k.alloc ≤ 2 ^ 22)
/-- The teams an empty quadrant holds. -/
def KRec.perQuad (k : KRec) : Nat :=
  let a := min (48 / k.gangs) (3902 / k.entries)
  let a := if k.lane = 0 then a else min a (2 ^ 19 / (k.gangs * k.lane))
  if k.engines then min a 1 else a
/-- The teams a set of empty quadrants holds. -/
def KRec.capacity (k : KRec) (qs : List Nat) : Nat :=
  ((qs.map clusterOf).eraseDups).foldl (fun n c =>
    let here := (qs.filter fun q => clusterOf q == c).length * k.perQuad
    n + (if k.alloc = 0 then here else min here (2 ^ 22 / k.alloc))) 0

/-- The lowest base at which size bytes meet none of the ranges in use. -/
def placeGap (used : List (Nat × Nat)) (size : Nat) : Nat :=
  let free (b : Nat) : Bool := !used.any fun u => decide (b < u.1 + u.2) && decide (u.1 < b + size)
  let ends := (0 :: used.map fun u => u.1 + u.2).filter free
  ends.foldl min (ends.headD 0)

def State.freeCount (s : State) (q sch : Nat) : Nat := 12 - ((s.gangsOn q).filter fun p => schedOf p.1 == sch).length
/-- A gang's position: the scheduler with most free positions, its lowest free one. -/
def State.freePosition (s : State) (q : Nat) : Option Nat :=
  let sch := (List.range 4).foldl (fun b c => if s.freeCount q b < s.freeCount q c then c else b) 0
  ((List.range 12).map fun p => 64 * q + 12 * sch + p).find? fun k => (s.agent? k).isNone

/-! Admission (R65, R72, R79, R365). -/

def zeroRange (m : Memory) (lo n : Nat) : Memory := m.filter fun c => !(decide (lo ≤ c.1) && decide (c.1 < lo + n))

/-- An agent put on its quadrant: its uid, the age its team's agents share (R86), its names placed afresh (R113). -/
def State.placeAgent (s : State) (key : Nat) (a : Agent) : State :=
  let bare := { a with uid := s.nextAgent, age := s.nextTeam, vreg := [], names := [] }
  let s := { s with nextAgent := s.nextAgent + 1 }.setAgent key bare
  let s := a.vreg.foldl (fun s p => match s.agent? key with | some b => s.writeV key b p.1 p.2 | none => s) s
  match s.agent? key, a.rwpt with
  | some b, some r =>
    let (es, q) := (s.quad (quadOf key)).placeAll b.ctx r.vecs
    (s.setQuad (quadOf key) q).setAgent key { b with rwpt := some { r with names := es } }
  | _, _ => s

/-- s2 to s6 of a gang (R365). -/
def Agent.launchArgs (a : Agent) (g : Grid) (team : Nat) : Agent :=
  (((a.setPair 2 g.args).setS 4 (word g.nteams)).setS 5 (word team)).setS 6 (word g.depth)

/-- Put a list of gangs on a quadrant one by one: their keys, and the state. -/
def placeGangs (q : Nat) : List Agent → State → List Nat × State
  | [], s => ([], s)
  | a :: as, s =>
    match s.freePosition q with
    | none => ([], s)
    | some key =>
      let (ks, s) := placeGangs q as (s.placeAgent key a)
      (key :: ks, s)

/-- A resumed gang's stack entries beyond its newest four are written to the context area of its place; a fault there is AREA,
fatal to the team (R83). -/
def State.spillStack (s : State) (key : Nat) : State :=
  match s.agent? key with
  | none => s
  | some a => match s.spillEntries key a.ctx (spilled [] a.stack) with
    | .ok s => s
    | .error _ => s.fatalStop key a 0x11 0 a.slot.pc a.slot.mask 0

/-- The bases of a team's resources on a quadrant: cluster memory, and the slices of its gangs. -/
def State.teamBases (s : State) (q : Nat) (k : KRec) : Nat × List Nat :=
  let cused := (s.teamsIn (clusterOf q)).map fun p => (p.2.cbase, p.2.csize)
  let lused := (s.teamsOn q).flatMap fun p => p.2.lbase.map fun b => (b, 32 * 256 * p.2.lsgran)
  let base := placeGap lused (k.gangs * k.lane)
  (placeGap cused k.alloc, (List.range k.gangs).map fun g => base + g * k.lane)

/-- A context's team has come to hold a quadrant in this period (R367), and no team of its grid is kept out (R361). -/
def State.holds (s : State) (h q : Nat) (g : Grid) : State :=
  let s := s.setGrid h { g with stuck := 0 }
  match s.ctx? g.ctx with
  | some c => s.setCtx g.ctx { c with used := if c.used.contains q then c.used else c.used ++ [q], active := true }
  | none => s

def newTeam (g : Grid) (h idx q : Nat) (k : KRec) (cbase : Nat) (lbase : List Nat) : Team :=
  { grid := h, index := idx, quad := q, gangs := k.gangs, regs := k.regs, lsgran := k.lsgran, engines := k.engines, bars := k.bars,
    cbase, csize := k.alloc, lbase, krec := g.krec, keys := [], live := k.gangs, tbarGen := 0, tbarArr := 0, cM := 0, cD := 0,
    mRun := false, dRun := false, edges := 0, matrix := false, saving := none }

/-- Zero a team's cluster memory and slices (R65). -/
def State.zeroTeam (s : State) (t : Team) : State :=
  { s with cmem := zeroRange s.cmem (cmemKey t.quad t.cbase) t.csize,
           lmem := t.lbase.foldl (fun m b => zeroRange m (lmemKey t.quad b) (32 * 256 * t.lsgran)) s.lmem }

/-- Admit team idx of grid h onto quadrant q; its gangs acquire before their first runs (R360). -/
def State.admitFresh (s : State) (h : Nat) (g : Grid) (idx q : Nat) (k : KRec) : State :=
  let (cbase, lbase) := s.teamBases q k
  let t := newTeam g h idx q k cbase lbase
  let s := s.zeroTeam t
  let s := { s with cmem := (List.range k.bars).foldl (fun (m : Memory) i => m.writeNat (cmemKey q (cbase + 8 * i)) 8 (boMake k.gangs 0 0 0)) s.cmem }
  let id := s.nextTeam
  let gang (j : Nat) : Agent :=
    { Agent.start with team := id, grid := h, tindex := idx, gang := j, ctx := g.ctx, regs := k.regs,
                       slot0 := { pc := BitVec.ofNat 64 k.entry, mask := BitVec.allOnes 32, rcv := none, st := .run } }.launchArgs g idx
  let s := s.acquireOn q g.ctx 5
  let (keys, s) := placeGangs q ((List.range k.gangs).map gang) { s with nextTeam := id + 1 }
  (s.setTeam id { t with keys }).holds h q { g with st := .running }

/-! Saving (R384, R387, R389). -/

/-- An agent stopped for a save ends its wait, and its run restarts (R44, R122, R179); an RDV not met is undone. -/
def Agent.stopNow (a : Agent) : Agent :=
  { a with cG := if a.block = .rdv then a.cG - 1 else a.cG, run := none, temps := [], tokens := [], block := .stopped, stopped := true }

/-- Whether a stopped agent's loads have all come back. -/
def Agent.loadsIn (a : Agent) : Bool := !a.accs.any Access.waiting

/-- The context has an SLOAD in progress on a quadrant (R179). -/
def State.slotsLoading (s : State) (q ctx : Nat) : Bool := (s.quad q).jobs.any fun j => j.ctx == ctx
def State.teamCtx (s : State) (t : Team) : Nat := match s.grid? t.grid with | some g => g.ctx | none => 0

/-- Every condition of R387 for writing a team's record, beyond the issuer of a CTXSAVE; what its agents have sent to peers is
acknowledged first. -/
def State.readyToSave (s : State) (id : Nat) (t : Team) (issuer : Option Nat) : Bool :=
  (s.teamAgents t).all (fun p => (issuer == some p.1 || p.2.stopped || p.2.ended) && p.2.loadsIn &&
    !p.2.cmds.any (fun c => c.fault.isNone) && !p.2.accs.any (fun x => s.sentBy p.2.uid x.id)) &&
  !(s.slotsLoading t.quad (s.teamCtx t)) &&
  !(s.quad t.quad).queue.any (fun c => c.team == id) &&
  !(s.teamAgents t).any (fun p => p.2.stopped && p.2.rewindable && p.2.usc != 0)

/-- The team leaves its quadrant without retiring: what its record holds goes with it. -/
def State.unloadTeam (s : State) (id : Nat) (t : Team) : State :=
  let s := (s.teamAgents t).foldl (fun s p =>
    let s := if isSeq p.1 then s else s.setQuad t.quad ((s.quad t.quad).releaseAll p.2)
    let s := s.delAgent p.1
    if isSeq p.1 then s else s.freedCapacity t.quad p.2.reservation) s
  let s := if t.edges = 0 then s else s.unfuse t.quad
  { s with teams := mapDel s.teams id }

/-- The team leaves with its record at a place, queued for admission or not; what the record has no field for stays with the
grid. -/
def State.saveTeam (s : State) (id : Nat) (t : Team) (at_ : SaveAt) (queued : Bool) : State :=
  let ks := (s.teamAgents t).map fun p => (t.index, p.2.kept (gangCode p.1 p.2) (s.refused p.2 p.2.ids))
  let s := s.unloadTeam id t
  match s.grid? t.grid with
  | none => s
  | some g =>
    let g := { g with kept := g.kept.filter (fun (x : Nat × Kept) => x.1 != t.index) ++ ks }
    s.setGrid t.grid (if queued then { g with reload := g.reload ++ [(t.index, at_)] } else { g with saved := g.saved ++ [(t.index, at_)] })

/-- The bytes of a team's record; `full` forces the full form. -/
def State.teamRecord (s : State) (t : Team) (full : Bool) : List Byte := fieldBytes t.recordBytes (teamFields s t full)

/-! Resuming (R388, R392). -/

/-- Read access to a record's bytes: n bytes at an offset. -/
def byteReader (b : List Byte) (o n : Nat) : Nat := natOfBytes ((b.drop o).take n)

/-- The record at an address, as far as its SIZE. -/
def State.recordFrom (s : State) (quad ctx addr : Nat) : Option (List Byte) :=
  match s.readGlobal quad ctx addr 4096 .read none with
  | .error _ => none
  | .ok (h, _) => match s.readGlobal quad ctx addr (natOfBytes ((h.drop 8).take 8)) .read none with
    | .ok (b, _) => some b
    | .error _ => none

/-- A team's record; of one queued and changed since, each byte as it was or as it is (R385). -/
def State.recordBytes? (s : State) (quad ctx : Nat) (at_ : SaveAt) : Option (List Byte) :=
  match at_ with
  | .anew => none
  | .device n => some (s.savm.readBytes (2 ^ 32 * n) (s.savm.readNat (2 ^ 32 * n + 8) 8))
  | .space addr => s.recordFrom quad ctx addr
  | .queued addr old => (s.recordFrom quad ctx addr).map (mixBytes s.fresh old)

/-- The gangs a record holds: those with a live slot. -/
def recordGangs (rd : Nat → Nat → Nat) (n : Nat) : List Agent :=
  ((List.range n).map fun g => agentOf fun o k => rd (0x1000 + gangRecBytes * g + o) k).filter fun a => Agent.live a.slot0 || Agent.live a.slot1

def recordRewind (rd : Nat → Nat → Nat) (g : Nat) : Bool := bitAt (rd (0x1000 + gangRecBytes * g) 4) 21

/-- Whether a record may resume on a quadrant (R392). An SLOAD of the context in progress to a slot the record names
completes first, so that the restored team uses the images its record names (R175). -/
def State.mayResume (s : State) (q ctx : Nat) (k : KRec) (rd : Nat → Nat → Nat) : Bool :=
  let fl := rd 7 1
  let loading (i : Nat) : Bool := rd (0x106 + 80 * i) 1 == 1 && (s.quad q).jobs.any fun j => j.ctx == ctx && j.slot == i + 1
  let entries := (recordGangs rd k.gangs).foldl (fun n a => n + a.reservation) 0
  s.fits q k (max entries k.entries) && !(List.range 15).any loading && (!bitAt fl 2 || rd 0x22 2 == q) &&
  (!bitAt fl 1 || (rd 0x22 2 % 4 == q % 4 && !s.inFusion q && s.fuseStatus q ctx (rd 0x21 1) == 0))

/-- The slot bindings a record names (R175). -/
def State.restoreSlots (s : State) (q ctx : Nat) (rd : Nat → Nat → Nat) : State :=
  (List.range 15).foldl (init := s) fun s i =>
    let o := 0x100 + 80 * i
    if rd (o + 6) 1 = 1 then
      match s.hub.cache.find? fun im => im.gen == rd o 4 && im.digest == rd (o + 16) 64 with
      | some im => s.setQuad q ((s.quad q).bindSlot ctx (i + 1) im)
      | none => s
    else s

/-- A gang or sequencer is the agent it was before its save: what still names it finds it (R346). -/
def State.sameAgents (s : State) (team : Nat) (ks : List Kept) : State :=
  { s with agents := s.agents.map fun p => if p.2.team != team then p else
      (p.1, match ks.find? fun x => x.gang == gangCode p.1 p.2 with | some x => { p.2 with uid := x.uid } | none => p.2) }

def State.admitSaved (s : State) (h : Nat) (g : Grid) (idx q : Nat) (k : KRec) (rd : Nat → Nat → Nat) : State :=
  let (cbase, lbase) := s.teamBases q k
  let t := newTeam g h idx q k cbase lbase
  let fl := rd 7 1
  let cm := 0x1000 + gangRecBytes * (k.gangs + 2)
  let s := s.zeroTeam t
  let s := { s with
    cmem := (List.range t.csize).foldl (fun (m : Memory) i => m.write (cmemKey q (cbase + i)) (byte (rd (cm + i) 1))) s.cmem,
    lmem := t.lbase.zipIdx.foldl (fun (m : Memory) (p : Nat × Nat) => (List.range k.lane).foldl (fun (m : Memory) i =>
      m.write (lmemKey q (p.1 + i)) (byte (rd (cm + t.csize + k.lane * p.2 + i) 1))) m) s.lmem }
  let s := s.restoreSlots q g.ctx rd
  -- the marks of its agents' purges are of commands issued before any it issues now (R325)
  let s := { s with purges := s.purges.map fun (p : Purge) => if p.agent.1 = h ∧ p.agent.2.1 = idx then { p with id := 0 } else p }
  let id := s.nextTeam
  let own (code : Nat) (a : Agent) : Agent :=
    let a := { a with team := id, grid := h, tindex := idx, ctx := g.ctx }
    match g.kept.find? fun x => x.1 == idx && x.2.gang == code with
    | some x => a.keep x.2
    | none => a
  let gangs := (recordGangs rd k.gangs).map fun a => if recordRewind rd a.gang then (own a.gang a).launchArgs g idx else own a.gang a
  let s := s.acquireOn q g.ctx 5
  let (keys, s) := placeGangs q gangs { s with nextTeam := id + 1 }
  let seq (n : Nat) : Agent := own (0x10 + n) (seqOf fun o j => rd (0x1000 + gangRecBytes * (k.gangs + n) + o) j)
  let s := if bitAt fl 3 then s.placeAgent (mseqOf q) (seq 0) else s
  let s := if bitAt fl 4 then s.placeAgent (dseqOf q) (seq 1) else s
  let s := if bitAt fl 1 then s.setQuad q { s.quad q with fused := rd 0x21 1 } else s
  let s := (s.setTeam id { t with
    keys, live := keys.length, cM := rd 0x30 4, cD := rd 0x34 4, mRun := bitAt fl 3, dRun := bitAt fl 4,
    edges := if bitAt fl 1 then rd 0x21 1 else 0, matrix := bitAt fl 2 }).holds h q { g with
      st := .running, reload := g.reload.filter (fun r => r.1 != idx), kept := g.kept.filter (fun r => r.1 != idx)
      held := g.held.filter fun r => r.1 != idx }
  keys.foldl State.spillStack (s.sameAgents id ((g.kept.filter fun r => r.1 == idx).map (·.2)))

end Sys2Proof.Machine
end

