-- ==== Sys2Proof/Machine/Traps.lean ====
section
/-! DEFINITION. Opcode 0x79 (R380 to R385): TRAP, ERET, REPLAY, CTXSAVE and CTXLOAD. -/

namespace Sys2Proof.Machine

/-- The token assignments of a run's trailer (R36, R37): each used one adds its register where a word of
this run awaits a result in it. -/
def Agent.assignTokens (a : Agent) (na : BitVec 3) (as : List (BitVec 12)) : Agent :=
  { a with tokens := a.tokens ++ ((as.take na.toNat).filterMap fun x =>
      let code := x.toNat / 8
      if a.awaits code then some (x.toNat % 8, code) else none) }
def Agent.takeTrailer (a : Agent) : Agent :=
  match a.run.bind fun r => r.words.getLast? with
  | some w => match decodeWord true w with
    | .ok (.trail na a0 a1 a2 a3) => a.assignTokens na [a0, a1, a2, a3]
    | _ => a
  | none => a

/-- TRAP (R381): precise after its run, with EPC the header that follows. -/
def execTrap (p : Pred) (code : BitVec 8) (s : State) : Res :=
  match s.agent? s.cur with
  | none => .fault .noIssuer
  | some a =>
    if !a.holds p then uniformWord .all false [] p [] s fun s _ _ => .done s
    else
      let next := a.nextHeader
      let a := { a.takeTrailer with warn := a.warn || a.fallback }
      .next (s.takeTrap s.cur a
        { cause := 0x0A, detail := code.toNat, epc := next, restart := next, fmask := a.slot.mask, faddr := 0, report := none, code := 0 })

/-! Replaying (R383). -/

/-- The faulted lanes of an access that are reissued: for the reported one, those of its code only where FMASK keeps them. -/
def Agent.replayLanes (a : Agent) (x : Access) : Mask :=
  maskFn fun i => x.codes.any fun c => c.1 == i &&
    (a.frame.report != some x.id || c.2 != a.frame.code || a.frame.fmask.getLsbD i)
def Agent.reissue (a : Agent) (x : Access) : Access :=
  let m := a.replayLanes x
  { x with lanes := x.lanes.filter (fun l => m.getLsbD l.lane), todo := m, pend := m, faulted := 0, codes := [], told := false, l1 := false }
/-- Whether an access is one that REPLAY reissues: a parked load or a held record. -/
def Access.replays (x : Access) : Bool := x.parked || x.heldRec

/-- Reissue every parked load, held store record and command; abandoned ones go. -/
def Agent.startReplay (a : Agent) : Agent :=
  let redo := (a.accs.filter Access.replays).map (·.id)
  let drop := (a.cmds.filter fun c => c.fault.isSome && a.frame.report == some c.id && a.frame.fmask == 0).map (·.id)
  let cmds := (a.cmds.filter fun c => c.fault.isSome && !drop.contains c.id).map (·.id)
  let b := { a with
    accs := (a.accs.map fun x => if x.replays then a.reissue x else x).filter fun x => !(redo.contains x.id && x.pend == 0),
    cmds := a.cmds.map fun c => if cmds.contains c.id then { c with fault := none, told := false, bad := [], got := [], put := [] } else c,
    frame := { a.frame with replayed := true, redo := redo ++ cmds }, block := .replay }
  drop.foldl Agent.finishCmd b

/-- Whether every reissued access has returned, been acknowledged, completed or faulted again. -/
def Agent.replayDone (a : Agent) : Bool :=
  !a.accs.any (fun x => a.frame.redo.contains x.id && x.pend != 0) && !a.cmds.any fun c => a.frame.redo.contains c.id && c.fault.isNone
/-- The loads and records that faulted again. -/
def Agent.replayCount (a : Agent) : Nat :=
  (a.accs.filter fun x => a.frame.redo.contains x.id && x.faulted != 0).length +
  (a.cmds.filter fun c => a.frame.redo.contains c.id && c.fault.isSome).length

def execReplay (p : Pred) (dsts : SReg) (s : State) : Res :=
  uniformWord .gang true [dsts.toNat] p [] s fun s k a =>
    let a := if a.block = .replay then a else a.startReplay
    if a.replayDone then
      .done (s.setAgent k ({ a with frame := { a.frame with redo := [] } }.setS dsts.toNat (word a.replayCount)))
    else .wait false (s.setAgent k a)

/-! ERET (R382). -/

/-- A sequencer leaves its handler. -/
def Agent.leaveSeqHandler (a : Agent) : Agent :=
  { a with sv := false, run := none, temps := [], warn := a.warn || a.fallback, frame := { a.frame with redo := [] },
           slot0 := { pc := a.pair 506, mask := BitVec.allOnes 32, rcv := none, st := .run } }

def execEret (p : Pred) (s : State) : Res :=
  uniformWord .all true [] p [] s fun s k a =>
    if isSeq k then
      let a := if a.block = .replay then a else a.startReplay
      if a.replayDone then .done (s.setAgent k a.leaveSeqHandler) else .wait false (s.setAgent k a)
    else if (Agent.live a.slot0 && Agent.live a.slot1) || a.stack.length ≠ a.frame.depth then .trap 0x12 0 none 0 none
    else match s.settleArea k a.leaveHandler with
      | .error _ => .trap 0x11 0 none 0 none
      | .ok (some a, s) => .done (s.setAgent k a)
      | .ok (none, s) => .done (s.endGang k a.leaveHandler)

/-! CTXSAVE and CTXLOAD (R384, R385). -/

/-- Whether every page of a range may be written in the context's space. -/
def State.writable (s : State) (quad ctx addr n : Nat) : Bool :=
  (piecesOf addr n).all fun p => match s.translate quad ctx p.1 .write with | .ok _ => true | .error _ => false

/-- The issuing gang's state in the record: its status is 1, and it goes on after the CTXSAVE run. -/
def Agent.savedBy (a : Agent) (dsts : Nat) : Agent :=
  let a := { a with retired := a.retired + 1, warn := a.warn || a.fallback }.setS dsts 1
  let x := a.slot
  (a.setSlot { x with pc := a.nextHeader }).stopNow

def execCtxsave (p : Pred) (desc dsts : SReg) (s : State) : Res :=
  uniformWord .gang true [dsts.toNat] p [desc.toNat, desc.toNat + 1] s fun s k a =>
    let addr := (a.pair desc.toNat).toNat
    match s.team? a.team with
    | none => .done s
    | some t =>
      if addr % 4096 ≠ 0 || !s.writable t.quad a.ctx addr t.recordBytes then .done (s.setAgent k (a.setS dsts.toNat 2))
      else if t.saving.isSome && t.saving != some k then .wait false (s.setAgent k { a with block := .bowait })
      else
        let s := s.setAgent k { a with block := .save }
        let s := s.setTeam a.team { t with saving := some k }
        let s := (s.teamAgents t).foldl (fun s p => if p.1 = k then s else s.setAgent p.1 { p.2 with sliceEnd := true, mustStop := true }) s
        if !s.readyToSave a.team t (some k) then .wait false s
        else
          let s := (s.setAgent k (a.savedBy dsts.toNat)).settleTeam t
          match s.writeGlobal t.quad a.ctx addr (s.teamRecord t true) none with
          | .error _ => .trap 0x11 0 none 0 none
          | .ok s => .done (s.saveTeam a.team t (.space addr) false)

/-- CTXLOAD's status for a record's header: a limit is that of the kernel record of its grid (DEDUCED, log 41). -/
def State.loadStatus (s : State) (ctx : Nat) (rd : Nat → Nat → Nat) : Nat :=
  let gangs := rd 6 1
  let size := 0x1000 + gangRecBytes * (gangs + 2) + rd 0x24 4 + gangs * 32 * 256 * rd 0x28 2
  if rd 0 4 ≠ 0x5445414D || rd 4 2 ≠ 1 || gangs = 0 || 16 < gangs || 64 < rd 0x28 2 || rd 8 8 ≠ size then 1
  else
    let h := rd 0x18 4
    match s.grid? h with
    | none => 2
    | some g =>
      if g.ctx ≠ ctx then 2
      else if g.nteams ≤ rd 0x1C 4 || gangs ≠ g.shape.gangs || rd 0x24 4 ≠ g.shape.alloc || rd 0x28 2 ≠ g.shape.lsgran then 1
      else match g.st with
        | .retired _ => 2
        | _ => if s.teams.any (fun p => p.2.grid == h && p.2.index == rd 0x1C 4) || g.reload.any (fun r => r.1 == rd 0x1C 4) then 2 else 0

def execCtxload (p : Pred) (desc dsts : SReg) (s : State) : Res :=
  uniformWord .gang true [dsts.toNat] p [desc.toNat, desc.toNat + 1] s fun s k a =>
    let addr := (a.pair desc.toNat).toNat
    let status (s : State) (n : Nat) : Verdict := .done (s.modAgent k fun a => a.setS dsts.toNat (word n))
    if addr % 4096 ≠ 0 then status s 1
    else match s.readGlobal (quadOf k) a.ctx addr 4096 .read none with
      | .error _ => .trap 0x11 0 none 0 none
      | .ok (h, s) =>
        let rd := byteReader h
        let st := s.loadStatus a.ctx rd
        if st ≠ 0 then status s st
        else match s.grid? (rd 0x18 4) with
          | none => status s 2
          | some g =>
            let old := (s.recordFrom (quadOf k) a.ctx addr).getD []
            status (s.setGrid (rd 0x18 4) { g with
              saved := g.saved.filter (fun r => r.1 != rd 0x1C 4), reload := g.reload ++ [(rd 0x1C 4, .queued addr old)] }) 0

end Sys2Proof.Machine
end

