-- ==== Sys2Proof/Machine/Uses.lean ====
section
/-! DEFINITION. The registers and slots a word names (R41, R43, R177), which run decode checks before the run issues.
Codes are those of R37: R32's for v and t registers, 512 + n for s n, 1024 + n for p n and 1040 + n for q n. The
constants s0, p7 and q7 are left out. -/

namespace Sys2Proof.Machine

/-- What a word reads, writes, and the slots it names. -/
structure Uses where
  reads : List Nat
  writes : List Nat
  slots : List (BitVec 4)
  deriving DecidableEq, Repr

namespace U
def s (n : SReg) : List Nat := if n = 0 then [] else [sCode n.toNat]
/-- A pair s(n):s(n+1). -/
def sp (n : SReg) : List Nat := s n ++ [sCode (n.toNat + 1)]
def u : UOp → List Nat
  | .reg r => s r
  | .imm _ => []
def p (n : PNum) : List Nat := if n = 7 then [] else [1024 + n.toNat]
def q (n : PNum) : List Nat := if n = 7 then [] else [1040 + n.toNat]
def o (x : Operand) : List Nat := [operandCodeOf x].filter (· != 512)
def vd (x : VDst) : List Nat := [vdstCodeOf x]
/-- A register n of a broadcast code. -/
def bc (n : BitVec 7) : List Nat := s (n.setWidth 9)
def bcs : BcastSrc → List Nat
  | .sreg n => bc n
  | .first => []
def pf : PackForm → List Nat
  | .half => []
  | .byteLo c => o c
  | .byteHi c => o c
/-- The base pair and the policy word of an access. -/
def bp (base pol : SReg) : List Nat := sp base ++ s pol
def vn (d : BitVec 8) (n : Nat) : List Nat := (List.range n).map fun i => vCode (d.toNat + i)
def ar : Option Arrive → List Nat
  | some r => s r.bar
  | none => []
def os : Option SReg → List Nat
  | some r => s r
  | none => []
def fin : XDone → List Nat
  | .none => []
  | .arrive r => s r
  | .notify r => sp r
end U

def qopUses : QOp → Uses
  | .and d a b | .or d a b | .xor d a b | .andn d a b => ⟨U.q a ++ U.q b, U.q d, []⟩
  | .not d a | .mov d a => ⟨U.q a, U.q d, []⟩
  | .set d | .clr d => ⟨[], U.q d, []⟩
  | .tos d a => ⟨U.q a, U.s d, []⟩
  | .froms d a => ⟨U.s a, U.q d, []⟩
  | .any d a | .all d a => ⟨U.p a, U.q d, []⟩

def plopUses : POp → Uses
  | .and d a b | .or d a b | .xor d a b | .andn d a b => ⟨U.p a ++ U.p b, U.p d, []⟩
  | .not d a | .mov d a => ⟨U.p a, U.p d, []⟩
  | .set d | .clr d => ⟨[], U.p d, []⟩
  | .fromv d a => ⟨U.o a, U.p d, []⟩
  | .tov d a => ⟨U.p a, U.vd d, []⟩

/-- The registers and slots of an instruction, its predicate apart. The words left to the last line name none: the
branches BRA, BRQ and BRV, the words of opcode 0x11, TRAP, ERET and their like, and the part's other steps. -/
def usesOf (i : Instr) : Uses :=
  match i with
  | .sadd _ d a b => ⟨U.s a ++ U.u b, U.s d, []⟩
  | .ssub _ d a b => ⟨U.s a ++ U.u b, U.s d, []⟩
  | .smul _ d a b => ⟨U.s a ++ U.u b, U.s d, []⟩
  | .smulh _ _ d a b => ⟨U.s a ++ U.u b, U.s d, []⟩
  | .sdiv _ _ d a b => ⟨U.s a ++ U.u b, U.s d, []⟩
  | .smod _ _ d a b => ⟨U.s a ++ U.u b, U.s d, []⟩
  | .sand _ d a b => ⟨U.s a ++ U.u b, U.s d, []⟩
  | .sor _ d a b => ⟨U.s a ++ U.u b, U.s d, []⟩
  | .sxor _ d a b => ⟨U.s a ++ U.u b, U.s d, []⟩
  | .sandn _ d a b => ⟨U.s a ++ U.u b, U.s d, []⟩
  | .sshl _ d a b => ⟨U.s a ++ U.u b, U.s d, []⟩
  | .sshr _ d a b => ⟨U.s a ++ U.u b, U.s d, []⟩
  | .ssra _ d a b => ⟨U.s a ++ U.u b, U.s d, []⟩
  | .srot _ d a b => ⟨U.s a ++ U.u b, U.s d, []⟩
  | .smin _ _ d a b => ⟨U.s a ++ U.u b, U.s d, []⟩
  | .smax _ _ d a b => ⟨U.s a ++ U.u b, U.s d, []⟩
  | .scmp _ _ d a b => ⟨U.s a ++ U.u b, U.q d, []⟩
  | .ssel _ c d a b => ⟨U.q c ++ U.s a ++ U.u b, U.s d, []⟩
  | .smov _ d b => ⟨U.u b, U.s d, []⟩
  | .saddc _ _ d a b => ⟨U.s a ++ U.u b, U.s d, []⟩
  | .slea _ _ d a b => ⟨U.sp a ++ U.u b, U.sp d, []⟩
  | .sclz _ d a => ⟨U.s a, U.s d, []⟩
  | .spopc _ d a => ⟨U.s a, U.s d, []⟩
  | .sbfe _ _ d a b => ⟨U.s a ++ U.u b, U.s d, []⟩
  | .sbfi _ d a b => ⟨U.s d ++ U.s a ++ U.u b, U.s d, []⟩
  | .sli _ d _ => ⟨[], U.s d, []⟩
  | .slih _ d _ => ⟨[], U.sp d, []⟩
  | .qop _ op => qopUses op
  | .srd _ d _ => ⟨[], U.s d, []⟩
  | .swr _ _ a => ⟨U.s a, [], []⟩
  | .call _ _ l => ⟨[], U.sp l, []⟩
  | .ret _ l => ⟨U.sp l, [], []⟩
  | .loop _ _ c => ⟨U.s c, U.s c, []⟩
  | .flash nv a0 a1 a2 a3 sb4 ns _ => ⟨(flashAnchors nv a0 a1 a2 a3).map vCode ++ (List.range ns.toNat).map (fun i => sCode (4 * sb4.toNat + i)), [], []⟩
  | .growT _ d _ => ⟨[], U.q d, []⟩
  | .vrdi _ _ d a _ => ⟨U.bc a, U.vd d, []⟩
  | .vwri _ _ d a _ => ⟨U.bc a ++ U.vd d, [], []⟩
  | .vadd _ _ d a b => ⟨U.o a ++ U.o b, U.vd d, []⟩
  | .vsub _ _ d a b => ⟨U.o a ++ U.o b, U.vd d, []⟩
  | .vmul _ _ d a b => ⟨U.o a ++ U.o b, U.vd d, []⟩
  | .vmulh _ _ _ d a b => ⟨U.o a ++ U.o b, U.vd d, []⟩
  | .vmad _ _ d a b c => ⟨U.o a ++ U.o b ++ U.o c, U.vd d, []⟩
  | .vadds _ _ _ _ d a b => ⟨U.o a ++ U.o b, U.vd d, []⟩
  | .vsubs _ _ _ _ d a b => ⟨U.o a ++ U.o b, U.vd d, []⟩
  | .vabs _ _ _ d a => ⟨U.o a, U.vd d, []⟩
  | .vneg _ _ _ d a => ⟨U.o a, U.vd d, []⟩
  | .vmin _ _ _ d a b => ⟨U.o a ++ U.o b, U.vd d, []⟩
  | .vmax _ _ _ d a b => ⟨U.o a ++ U.o b, U.vd d, []⟩
  | .vdot4 _ _ _ _ _ d a b c => ⟨U.o a ++ U.o b ++ U.o c, U.vd d, []⟩
  | .vsad _ _ _ d a b c => ⟨U.o a ++ U.o b ++ U.o c, U.vd d, []⟩
  | .vand _ _ d a b => ⟨U.o a ++ U.o b, U.vd d, []⟩
  | .vor _ _ d a b => ⟨U.o a ++ U.o b, U.vd d, []⟩
  | .vxor _ _ d a b => ⟨U.o a ++ U.o b, U.vd d, []⟩
  | .vandn _ _ d a b => ⟨U.o a ++ U.o b, U.vd d, []⟩
  | .vnot _ _ d a => ⟨U.o a, U.vd d, []⟩
  | .vshl _ _ d a b => ⟨U.o a ++ U.o b, U.vd d, []⟩
  | .vshr _ _ d a b => ⟨U.o a ++ U.o b, U.vd d, []⟩
  | .vsra _ _ d a b => ⟨U.o a ++ U.o b, U.vd d, []⟩
  | .vrot _ _ d a b => ⟨U.o a ++ U.o b, U.vd d, []⟩
  | .vclz _ _ d a => ⟨U.o a, U.vd d, []⟩
  | .vpopc _ _ d a => ⟨U.o a, U.vd d, []⟩
  | .vbfe _ _ _ d a b => ⟨U.o a ++ U.o b, U.vd d, []⟩
  | .vbfi _ _ d a b c => ⟨U.o a ++ U.o b ++ U.o c, U.vd d, []⟩
  | .vbrev _ _ d a => ⟨U.o a, U.vd d, []⟩
  | .vcmp _ _ _ d a b => ⟨U.o a ++ U.o b, U.p d, []⟩
  | .vsel _ _ c d a b => ⟨U.p c ++ U.o a ++ U.o b, U.vd d, []⟩
  | .vmov _ _ d b => ⟨U.o b, U.vd d, []⟩
  | .vbcast _ _ d a src => ⟨U.o a ++ U.bcs src, U.vd d, []⟩
  | .vlane _ _ _ d => ⟨[], U.vd d, []⟩
  | .vext _ _ _ _ d a b => ⟨U.o a ++ U.o b, U.vd d, []⟩
  | .vpack _ _ _ form d a b => ⟨U.o a ++ U.o b ++ U.pf form, U.vd d, []⟩
  | .plop _ _ op => plopUses op
  | .pcnt _ _ d a => ⟨U.p a, U.o d, []⟩
  | .pfirst _ _ _ d a => ⟨U.p a, U.o d, []⟩
  | .vperm _ _ d a b => ⟨U.o a ++ U.o b, U.vd d, []⟩
  | .vpush _ _ d a b c => ⟨U.o a ++ U.o b ++ U.o c, U.vd d, []⟩
  | .vswz _ _ _ d a => ⟨U.o a, U.vd d, []⟩
  | .vmatch _ _ d a => ⟨U.o a, U.vd d, []⟩
  | .vred _ _ _ d a => ⟨U.o a, U.o d, []⟩
  | .vscan _ _ _ _ d a => ⟨U.o a, U.vd d, []⟩
  | .vvote _ _ _ d a => ⟨U.p a, U.p d, []⟩
  | .vballot _ _ d a => ⟨U.p a, U.o d, []⟩
  | .vaddImm _ _ d a _ => ⟨U.o a, U.vd d, []⟩
  | .vsubImm _ _ d a _ => ⟨U.o a, U.vd d, []⟩
  | .vmulImm _ _ d a _ => ⟨U.o a, U.vd d, []⟩
  | .vaddsImm _ _ _ _ d a _ => ⟨U.o a, U.vd d, []⟩
  | .vsubsImm _ _ _ _ d a _ => ⟨U.o a, U.vd d, []⟩
  | .vminImm _ _ _ d a _ => ⟨U.o a, U.vd d, []⟩
  | .vmaxImm _ _ _ d a _ => ⟨U.o a, U.vd d, []⟩
  | .vandImm _ _ d a _ => ⟨U.o a, U.vd d, []⟩
  | .vorImm _ _ d a _ => ⟨U.o a, U.vd d, []⟩
  | .vxorImm _ _ d a _ => ⟨U.o a, U.vd d, []⟩
  | .vandnImm _ _ d a _ => ⟨U.o a, U.vd d, []⟩
  | .vshlImm _ _ d a _ => ⟨U.o a, U.vd d, []⟩
  | .vshrImm _ _ d a _ => ⟨U.o a, U.vd d, []⟩
  | .vsraImm _ _ d a _ => ⟨U.o a, U.vd d, []⟩
  | .vrotImm _ _ d a _ => ⟨U.o a, U.vd d, []⟩
  | .vcmpImm _ _ _ d a _ => ⟨U.o a, U.p d, []⟩
  | .vmovImm _ _ d _ => ⟨[], U.vd d, []⟩
  | .fadd _ _ slot _ _ d a b => ⟨U.o a ++ U.o b, U.vd d, [slot]⟩
  | .fsub _ _ slot _ _ d a b => ⟨U.o a ++ U.o b, U.vd d, [slot]⟩
  | .fmul _ _ slot _ _ d a b => ⟨U.o a ++ U.o b, U.vd d, [slot]⟩
  | .ffma _ _ slot _ _ d a b c => ⟨U.o a ++ U.o b ++ U.o c, U.vd d, [slot]⟩
  | .fmin _ _ slot d a b => ⟨U.o a ++ U.o b, U.vd d, [slot]⟩
  | .fmax _ _ slot d a b => ⟨U.o a ++ U.o b, U.vd d, [slot]⟩
  | .fcmp _ _ slot _ d a b => ⟨U.o a ++ U.o b, U.p d, [slot]⟩
  | .fclass _ _ slot d a => ⟨U.o a, U.vd d, [slot]⟩
  | .frnd _ _ slot _ _ d a => ⟨U.o a, U.vd d, [slot]⟩
  | .fscale _ _ slot _ _ d a b => ⟨U.o a ++ U.o b, U.vd d, [slot]⟩
  | .fcvt _ _ slot src _ _ d a => ⟨U.o a, U.vd d, [slot, src]⟩
  | .fcvti _ _ slot _ _ _ d a => ⟨U.o a, U.vd d, [slot]⟩
  | .icvtf _ _ slot _ _ _ _ d a => ⟨U.o a, U.vd d, [slot]⟩
  | .frcp _ _ slot _ _ d a => ⟨U.o a, U.vd d, [slot]⟩
  | .frsq _ _ slot _ _ d a => ⟨U.o a, U.vd d, [slot]⟩
  | .fsqrt _ _ slot _ _ d a => ⟨U.o a, U.vd d, [slot]⟩
  | .fexp2 _ _ slot _ _ d a => ⟨U.o a, U.vd d, [slot]⟩
  | .flog2 _ _ slot _ _ d a => ⟨U.o a, U.vd d, [slot]⟩
  | .fsin _ _ slot _ _ d a => ⟨U.o a, U.vd d, [slot]⟩
  | .fcos _ _ slot _ _ d a => ⟨U.o a, U.vd d, [slot]⟩
  | .ftanh _ _ slot _ _ d a => ⟨U.o a, U.vd d, [slot]⟩
  | .fdot _ _ slot d a b c => ⟨U.o a ++ U.o b ++ U.o c, U.vd d, [slot]⟩
  | .fmxq _ _ slot src _ d a => ⟨U.o a, U.vd d, [slot, src]⟩
  | .fmxe _ _ slot dstSlot _ _ d a => ⟨U.o a, U.vd d, [slot, dstSlot]⟩
  | .sload _ slot desc dsts => ⟨U.sp desc, U.s dsts, [slot]⟩
  | .sdesc _ slot idx dsts => ⟨U.s idx, U.s dsts, [slot]⟩
  | .mloadw _ slot desc shape arr => ⟨U.sp desc ++ U.s shape ++ U.ar arr, [], [slot]⟩
  | .mloadws _ slot _ desc shape arr => ⟨U.sp desc ++ U.s shape ++ U.ar arr, [], [slot]⟩
  | .mstream _ slot _ _ desc shape arr => ⟨U.sp desc ++ U.s shape ++ U.ar arr, [], [slot]⟩
  | .mswap _ arr => ⟨U.ar arr, [], []⟩
  | .mdrain _ slot _ _ _ desc mask arr => ⟨U.sp desc ++ U.s mask ++ U.ar arr, [], if slot = 0 then [] else [slot]⟩
  | .mclear _ _ mask => ⟨U.s mask, [], []⟩
  | .mfuse _ edge dsts => ⟨U.s edge, U.s dsts, []⟩
  | .accspill _ _ dsts => ⟨[], U.s dsts, []⟩
  | .accfill _ _ dsts => ⟨[], U.s dsts, []⟩
  | .mreadv _ _ d a => ⟨U.bc a, U.vd d, []⟩
  | .ld _ _ d addr base pol _ _ _ => ⟨U.o addr ++ U.bp base pol, U.vd d, []⟩
  | .st _ _ y addr base pol _ _ _ => ⟨U.o y ++ U.o addr ++ U.bp base pol, [], []⟩
  | .ldc _ _ d base pol _ _ => ⟨U.bp base pol, U.vd d, []⟩
  | .stc _ _ y base pol _ _ => ⟨U.o y ++ U.bp base pol, [], []⟩
  | .ldl _ _ d addr base _ => ⟨U.o addr ++ U.sp base, U.vd d, []⟩
  | .stl _ _ y addr base _ => ⟨U.o y ++ U.o addr ++ U.sp base, [], []⟩
  | .sld _ _ d a base pol _ _ _ => ⟨U.s a ++ U.bp base pol, U.s d, []⟩
  | .sst _ _ y a base pol _ _ _ => ⟨U.s y ++ U.s a ++ U.bp base pol, [], []⟩
  | .pref _ _ addr base pol _ => ⟨U.o addr ++ U.bp base pol, [], []⟩
  | .evict _ _ addr base _ => ⟨U.o addr ++ U.sp base, [], []⟩
  | .atom _ _ _ w d addr base pol _ _ => ⟨U.vn d (atomRegs w) ++ U.o addr ++ U.bp base pol, U.vn d (atomRegs w), []⟩
  | .atomn _ _ _ w y addr base pol _ _ => ⟨U.o y ++ (if w = .a64 then U.o (Operand.succ y) else []) ++ U.o addr ++ U.bp base pol, [], []⟩
  | .acas _ _ w d addr base pol _ _ => ⟨U.vn d (2 * atomRegs w) ++ U.o addr ++ U.bp base pol, U.vn d (atomRegs w), []⟩
  | .boinit _ desc cnt => ⟨U.s desc ++ U.s cnt, [], []⟩
  | .boarr _ desc n u dsts _ => ⟨U.s desc ++ U.s n ++ U.s u, U.s dsts, []⟩
  | .bowait _ desc ph _ => ⟨U.s desc ++ U.s ph, [], []⟩
  | .botest _ desc ph dsts _ => ⟨U.s desc ++ U.s ph, U.s dsts, []⟩
  | .xcopy _ desc pol _ fin_ => ⟨U.s desc ++ U.s pol ++ U.fin fin_, [], []⟩
  | .xclose _ dsts => ⟨[], U.s dsts, []⟩
  | .xwait _ n _ => ⟨U.s n, [], []⟩
  | .xtest _ n dsts _ => ⟨U.s n, U.s dsts, []⟩
  | .xfill _ dst len pat _ arr => ⟨U.sp dst ++ U.s len ++ U.s pat ++ U.os arr, [], []⟩
  | .xclone _ dst src len _ arr => ⟨U.sp dst ++ U.sp src ++ U.s len ++ U.os arr, [], []⟩
  | .xpurge _ start cnt opt _ => ⟨U.sp start ++ U.s cnt ++ U.s opt, [], []⟩
  | .xlease _ dsts => ⟨[], U.s dsts, []⟩
  | .chsend _ src ctl len dsts _ => ⟨U.sp src ++ U.s ctl ++ U.s len, U.s dsts, []⟩
  | .chrecv _ dst ctl len dsts _ => ⟨U.sp dst ++ U.s ctl ++ U.s len, U.s dsts, []⟩
  | .chpoll _ ctl dsts => ⟨U.s ctl, U.s dsts, []⟩
  | .chcap _ idx widx dsts => ⟨U.s idx ++ U.s widx, U.s dsts, []⟩
  | .chgrantWrite _ desc op img dsts => ⟨U.s desc ++ U.s op ++ U.sp img, U.s dsts, []⟩
  | .chgrantRevoke _ desc op img dsts => ⟨U.s desc ++ U.s op ++ U.sp img, U.s dsts, []⟩
  | .chgrantBind _ desc op img dsts => ⟨U.s desc ++ U.s op ++ U.sp img, U.s dsts, []⟩
  | .chkey _ idx dsts => ⟨U.s idx, U.s dsts, []⟩
  | .collr _ desc idx dsts _ _ => ⟨U.s desc ++ U.s idx, U.s dsts, []⟩
  | .collg _ desc idx dsts _ _ => ⟨U.s desc ++ U.s idx, U.s dsts, []⟩
  | .collb _ desc idx dsts _ _ => ⟨U.s desc ++ U.s idx, U.s dsts, []⟩
  | .collq _ h dsts _ => ⟨U.s h, U.s dsts, []⟩
  | .launch _ desc ctl dsts => ⟨U.s desc ++ U.s ctl, U.sp dsts, []⟩
  | .ljoin _ h dsts => ⟨U.s h, U.s dsts, []⟩
  | .fork _ desc dsts => ⟨U.s desc, U.s dsts, []⟩
  | .mbrecv _ dst mask dsts => ⟨U.s dst ++ U.s mask, U.s dsts, []⟩
  | .mbsend _ src ring len dsts => ⟨U.s src ++ U.s ring ++ U.s len, U.s dsts, []⟩
  | .replay _ dsts => ⟨[], U.s dsts, []⟩
  | .ctxsave _ desc dsts => ⟨U.sp desc, U.s dsts, []⟩
  | .ctxload _ desc dsts => ⟨U.sp desc, U.s dsts, []⟩
  | _ => ⟨[], [], []⟩

/-- Whether PRED names a vector predicate (R46, R47): the opcode, the M-format FN and the B-format KIND. -/
def predIsP (w : Dword) : Bool :=
  let o := (Fields.opc w).toNat
  (o = 0x19) || (0x20 ≤ o && o ≤ 0x24) || (0x28 ≤ o && o ≤ 0x2A) || (0x38 ≤ o && o ≤ 0x3B) || (o = 0x4D) ||
  (o = 0x58 && Fields.fnM w != 6 && Fields.fnM w != 7) || (0x65 ≤ o && o ≤ 0x67) || (o = 0x10 && Fields.kind w == 2)
/-- The predicate a word reads (R41): none for FLASH. -/
def predReads (w : Dword) : List Nat :=
  if (Fields.opc w).toNat = 0x12 then []
  else if predIsP w then U.p (Fields.pred w).idx else U.q (Fields.pred w).idx

/-- The registers of a word; an encoding that stands for no instruction names its predicate alone. -/
def wordUses (w : Dword) : Uses :=
  match decodeWord true w with
  | .ok i => { usesOf i with reads := predReads w ++ (usesOf i).reads }
  | .error _ => ⟨predReads w, [], []⟩

end Sys2Proof.Machine
end

