-- ==== Sys2Proof/Machine/Fetch.lean ====
section
/-! DEFINITION. Runs (R34 to R45): fetching and checking one, its beginning and its trailer, and the word an agent
issues next, with the illegal words of R50 to R52. -/

namespace Sys2Proof.Machine

/-! Positions (R40, R42, R123). -/

def opcOf (w : Dword) : Nat := (Fields.opc w).toNat
def isControl (w : Dword) : Bool :=
  opcOf w = 0x10 || (opcOf w = 0x11 && Fields.fnU w < 3#6) || opcOf w = 0x79
def isFlash (w : Dword) : Bool := opcOf w = 0x12
/-- The effect words of R42. -/
def isEffect (w : Dword) : Bool :=
  match opcOf w with
  | 0x58 => [1, 3, 5, 7].contains (Fields.fnM w).toNat
  | 0x65 | 0x66 | 0x67 | 0x72 | 0x73 | 0x78 => true
  | 0x64 => Fields.fnX w == 2
  | 0x68 => Fields.fnX w < 2#6
  | 0x6C => [0, 1, 4, 5, 6].contains (Fields.fnX w).toNat
  | 0x48 => Fields.fnX w == 0
  | 0x4C => Fields.fnX w != 9
  | _ => false
/-- GROW, SHRINK and VWRI stand where an effect word would (R123). -/
def isClosing (w : Dword) : Bool :=
  (opcOf w = 0x18 && Fields.fnU w < 2#6) || (opcOf w = 0x19 && Fields.fnVI w == 1)

/-- The words of a body that stand last, or last before its control-transfer word. -/
def closingWords (ws : List Dword) : List Dword :=
  match ws.reverse with
  | x :: y :: _ => if isControl x then [x, y] else [x]
  | xs => xs
def beforeClosing (ws : List Dword) : List Dword := ws.take (ws.length - (closingWords ws).length)

/-! Registers (R41, R43). -/

def isTemp (c : Nat) : Bool := decide (256 ≤ c) && decide (c < 264)
/-- A word writes a register that an earlier one reads, or that it reads itself before the closing words (R41). -/
def restartBroken (last : Nat) : List Uses → List Nat → Nat → Bool
  | [], _, _ => false
  | u :: us, seen, i =>
    let ws := u.writes.filter fun c => !isTemp c
    ws.any seen.contains || (decide (i < last) && ws.any u.reads.contains) || restartBroken last us (seen ++ u.reads) (i + 1)
/-- A temporary is read that no earlier word writes (R43). -/
def tempUnwritten : List Uses → List Nat → Bool
  | [], _ => false
  | u :: us, seen => (u.reads.filter isTemp).any (fun c => !seen.contains c) || tempUnwritten us (seen ++ u.writes)

/-! The structural checks (R39, R51). -/

/-- The lowest code from 0x10 to 0x16 of a control-transfer word after an effect word, or 0 (R39, R44). -/
def controlCode (len seq sv : Bool) (w : Dword) : Nat :=
  match decodeWord len w with
  | .error c => c
  | .ok i =>
    let bank (l : List Nat) : Nat := if !sv && l.any bankReg then 0x16 else 0
    match i with
    | .brv .. => if seq then 0x15 else 0
    | .call _ _ l => bank [l.toNat, l.toNat + 1]
    | .ret _ l => bank [l.toNat, l.toNat + 1]
    | .loop _ _ c => bank [c.toNat]
    | .eret .. => if sv then 0 else 0x16
    | .replay .. | .ctxsave .. | .ctxload .. => if seq then 0x15 else if sv then 0 else 0x16
    | _ => 0

def lowestCode (cs : List (Bool × Nat)) : Nat :=
  cs.foldl (fun m c => if c.1 && (m = 0 || c.2 < m) then c.2 else m) 0

/-- The structural condition a run breaks, the lowest code first, or 0. -/
def structuralCode (len seq sv : Bool) (wait : BitVec 6) (fb : Bool) (body : List Dword) (trailer : Dword) : Nat :=
  let us := body.map wordUses
  let closing := closingWords body
  let firm (w : Dword) : Bool := isEffect w || isClosing w
  let after := match closing with
    | [x, y] => if isEffect y then controlCode len seq sv x else 0
    | _ => 0
  lowestCode [
    ((fb && !(body.take 1).any isFlash) || (!fb && body.any isFlash) || (seq && wait != 0), 0x01),
    (opcOf trailer != 0x7E || (match decodeTrail trailer with | .ok (.trail na ..) => seq && na != 0 | _ => true), 0x02),
    (body.any (fun w => opcOf w == 0x7E || opcOf w == 0x7F), 0x03),
    (body.dropLast.any isControl || (body.drop 1).any isFlash, 0x04),
    (restartBroken (beforeClosing body).length us [] 0, 0x05),
    ((beforeClosing body).any firm || decide (1 < (body.filter firm).length), 0x06),
    (tempUnwritten us [], 0x07),
    (after != 0, after)]

/-! Traps at a run's header. -/

/-- A fetch fault (R39, R373): fatal in a handler's first run, and where an uncorrectable error was read. -/
def State.fetchFault (s : State) (k : Nat) (a : Agent) (code : Nat) : State :=
  let pc := a.slot.pc
  if a.block = .handler then s.fatalStop k a 0x13 0 pc a.slot.mask 0
  else if code = 100 then s.fatalStop k a 0x10 0 pc a.slot.mask 0
  else s.takeTrap k a { cause := 0x09, detail := memDetail a code 0, epc := pc, restart := pc, fmask := a.slot.mask, faddr := 0, report := none, code }

def State.headerIllegal (s : State) (k : Nat) (a : Agent) (reason : Nat) : State :=
  let pc := a.slot.pc
  s.takeTrap k a { cause := 0x01, detail := reason, epc := pc, restart := pc, fmask := a.slot.mask, faddr := 0, report := none, code := 0 }

/-- ALIGNRUN (R40); a handler vector that names no header is fatal (R370). -/
def State.alignRun (s : State) (k : Nat) (a : Agent) : State :=
  let pc := a.slot.pc
  if a.block = .handler then s.fatalStop k a 0x13 0 pc a.slot.mask 0
  else s.takeTrap k a { cause := 0x03, detail := 0, epc := pc, restart := pc, fmask := a.slot.mask, faddr := 0, report := none, code := 0 }

/-! The header's and the trailer's steps (R37, R104). -/

/-- Whether the tokens a header names are complete: each register of one has had its result, or its load is parked. -/
def Agent.tokensDone (a : Agent) (wait : BitVec 6) : Bool :=
  !a.tokens.any fun t => wait.getLsbD t.1 && a.busy t.2
/-- A restored agent's store records are replayed before its first run (R392). -/
def Agent.replaying (a : Agent) : Bool := a.accs.any fun x => x.run == 0 && x.isWrite && x.pend != 0

/-- The words of a list of bytes. -/
def wordsFrom : Nat → List Byte → List Dword
  | 0, _ => []
  | n + 1, bs => wordOfBytes bs :: wordsFrom n (bs.drop 8)

/-- The runs an agent holds at an address since it fetched them, the one it executes next first (R45). -/
def Quad.heldRuns (q : Quad) (uid pc : Nat) : List HeldRun := q.fetched.filter fun f => f.uid == uid && f.pc == pc
def Quad.heldRun (q : Quad) (uid pc : Nat) : Option (List Dword) := (q.heldRuns uid pc).head?.map (·.words)
def Quad.dropRun (q : Quad) (uid pc : Nat) : Quad := { q with fetched := q.fetched.filter fun f => !(f.uid == uid && f.pc == pc) }
def HeldRun.same (f g : HeldRun) : Bool := f.uid == g.uid && f.pc == g.pc && f.words == g.words
def Quad.hold (q : Quad) (f : HeldRun) : Quad := { q with fetched := f :: q.fetched.filter fun g => !f.same g }
/-- A run an agent has just fetched, or holds already with what has been stored to it since. -/
def State.heldAs (s : State) (k : Nat) (a : Agent) (pc : Nat) (words : List Dword) : HeldRun :=
  let new : HeldRun := { uid := a.uid, pc, sid := (s.spaceOf a.ctx pc).getD 0, va := vaPrime pc, words, wrote := [] }
  ((s.quad (quadOf k)).fetched.find? new.same).getD new
def State.holdRun (s : State) (k : Nat) (a : Agent) (pc : Nat) (words : List Dword) : State :=
  s.setQuad (quadOf k) ((s.quad (quadOf k)).hold (s.heldAs k a pc words))

/-- The words after a header: those of the run the agent holds, or of memory (R39, R45). -/
def State.runWords (s : State) (k : Nat) (a : Agent) (len : Nat) : Except Nat (List Dword × State) :=
  match (s.quad (quadOf k)).heldRun a.uid a.slot.pc.toNat with
  | some (_ :: ws) => if ws.length = len + 1 then .ok (ws, s) else fetch s
  | _ => fetch s
where
  fetch (s : State) : Except Nat (List Dword × State) :=
    match s.readGlobal (quadOf k) a.ctx (a.slot.pc.toNat + 8) (8 * (len + 1)) .fetch none with
    | .error e => .error e.1
    | .ok (bs, s) => .ok (wordsFrom (len + 1) bs, s)
/-- A run's words wait behind the partition's earlier requests to a throttled row (R264). -/
def State.fetchHeld (s : State) (a : Agent) (len : Nat) : Bool := s.sideHeld a.ctx a.slot.pc.toNat (8 * (len + 2))

def Agent.beginRun (a : Agent) (words : List Dword) : Agent :=
  { a with
    run := some { header := a.slot.pc, words, idx := 0, flow := .fall, noreuse := a.noreuse, stalled := false, fallback := false }
    temps := [], runs := a.runs + 1, block := .none }

/-- RUN: the run whose header the issuing slot stands at is fetched and checked, and begins once its WAIT is met and
no slot it names is loading (R39, R177). -/
def execRun (len : BitVec 5) (wait : BitVec 6) (fb : Bool) (s : State) : Res :=
  match s.agent? s.cur with
  | none => .fault .noIssuer
  | some a =>
    let k := s.cur
    if a.run.isSome || a.slot.st != .run || a.stopped || a.ended then .fault .notEnabled
    else if !a.tokensDone wait || a.replaying || s.fetchHeld a len.toNat then .next s
    else match s.runWords k a len.toNat with
      | .error e => .next (s.fetchFault k a e)
      | .ok (ws, s) =>
        let body := ws.take len.toNat
        let c := structuralCode (s.lenient k) (isSeq k) a.sv wait fb body ((ws.getLast?).getD 0)
        if c != 0 then .next (s.headerIllegal k a c)
        else if body.any fun w => (wordUses w).slots.any fun x => s.slotLoading (quadOf k) a.ctx x then
          .next (s.setAgent k { a with block := .slot })
        else .next ((s.holdRun k a a.slot.pc.toNat ((encode (.run len wait fb)).getD 0 :: ws)).setAgent k (a.beginRun ws))

/-- Where the issuing slot stands after its run (R40). -/
def Agent.moveOn (a : Agent) (r : RunBuf) : Agent :=
  match r.flow with
  | .fall => a.setSlot { a.slot with pc := r.next }
  | .goto t => a.setSlot { a.slot with pc := t }
  | .stay => a

/-! The word an agent issues next. -/

/-- What stands at an agent's place: an instruction, with the state it executes in, or a result already there. -/
inductive Issue where
  | word (i : Instr) (s : State)
  | done (r : Res)

/-- An illegal body word (R50): a vector word or BRV with no active lane is a no-operation. -/
def State.illegalAt (s : State) (k : Nat) (a : Agent) (w : Dword) (code : Nat) : Res :=
  if code != 0x10 && !isSeq k && predIsP w then
    if a.active (Fields.pred w) = 0 then .next (s.setAgent k a.skip)
    else endWord s k a (a.active (Fields.pred w)) (illegal code)
  else endWord s k a 0 (illegal code)

/-- Whether a word's predicate lets it act: only then does it take a fallback of R52. -/
def Agent.acts (a : Agent) (w : Dword) : Bool :=
  if opcOf w = 0x12 then true
  else if predIsP w then a.active (Fields.pred w) != 0 else a.holds (Fields.pred w)

/-- A word with n bits from bit lo upwards replaced. -/
def putBits (w : Dword) (lo n v : Nat) : Dword :=
  BitVec.ofNat 64 (w.toNat - field w.toNat lo n * 2 ^ lo + v % 2 ^ n * 2 ^ lo)
/-- A word whose modifier R52 states no fallback for, read with a modifier that its entry allows: MOD, an immediate form's MOD,
.SAT, the number of IMM15, ARG2 or SP, or a flag. The registers it names are the same whichever that is. -/
def repaired (w : Dword) : Option Instr :=
  ((List.range 16).map (putBits w 0 4) ++ (List.range 16).map (putBits w 24 4) ++ [putBits w 16 9 0] ++ (List.range 8).map (putBits w 0 15) ++
    [putBits w 19 9 1, putBits w 0 2 0, putBits w 0 2 2, putBits w 9 1 1]).findSome? fun x =>
      match decodeWord true x with
      | .ok i => some i
      | .error _ => none
/-- Who executes a uniform word (R46): GROW and SHRINK are a gang's, SLOAD is not the DSEQ's. -/
def whoOf (w : Dword) : Who :=
  match opcOf w with
  | 0x18 => .gang
  | 0x48 => .gangMseq
  | _ => .all
/-- A system register of the trap frame, which is for supervisor mode on a gang (R76). -/
def frameReg (w : Dword) : Bool :=
  opcOf w = 0x03 && decide (0x100 ≤ (Fields.imm15 w).toNat) && decide ((Fields.imm15 w).toNat ≤ 0x104)

/-- A free value in a register a word names, by its code (see Uses): in the active lanes of a vector's. -/
def State.writeFree (k : Nat) (act : Mask) (s : State) (c : Nat) : State :=
  match s.agent? k with
  | none => s
  | some a =>
    let n := s.fresh
    let s := { s with fresh := n + 1 }
    let free := laneFn (Config.freeWord n)
    if c < 256 then s.writeV k a c (mergeLanes act free (a.v c))
    else if c < 512 then s.setAgent k (a.setT (c - 256) (mergeLanes act free (a.t (c - 256))))
    else if c < 1024 then s.setAgent k (a.setS (c - 512) (Config.freeWord n 0))
    else if c < 1040 then
      let p : PNum := BitVec.ofNat 3 (c - 1024)
      s.setAgent k (a.setP p ((Config.freeWord n 0 &&& act) ||| (a.p p &&& ~~~act)))
    else s.setAgent k (a.setQ (BitVec.ofNat 3 (c - 1040)) ((Config.freeWord n 0).getLsbD 0))

/-- A word of reason 0x14 with no fallback stated, in the modes of R52: it does not trap for it, its result is not stated, and
WARN is set (DESIGN CHOICE, log 9). Every other condition of R51 and R107 holds for the registers it names. -/
def State.unstatedWord (s : State) (k : Nat) (a : Agent) (r : RunBuf) (w : Dword) : Res :=
  let s := { s.setAgent k { a with run := some { r with fallback := a.acts w } } with cur := k }
  let u := match repaired w with | some i => usesOf i | none => ⟨[], [], []⟩
  let regs (l : List Nat) : List Nat := l.filter fun c => decide (c < 1024)
  let uni (l : List Nat) : List Nat := (l.filter fun c => decide (512 ≤ c) && decide (c < 1024)).map (· - 512)
  if predIsP w then
    vectorWord (Fields.pred w) (regs u.reads) (regs u.writes) ((u.writes ++ u.reads).filter fun c => decide (c < 256)) s
      fun s k _ act => .done (u.writes.foldl (State.writeFree k act) s)
  else uniformWord (whoOf w) (frameReg w && !isSeq k) (uni u.writes) (Fields.pred w) (uni u.reads) s
    fun s k _ => .done (u.writes.foldl (State.writeFree k 0) s)

/-- A body word: as it decodes, or under R52 as it is read past its unused fields and modifiers. -/
def State.bodyWord (s : State) (k : Nat) (a : Agent) (r : RunBuf) (w : Dword) : Issue :=
  match decodeWord false w with
  | .ok i => .word i s
  | .error c =>
    if s.lenient k then
      match decodeWord true w with
      | .ok i => .word i (s.setAgent k { a with run := some { r with fallback := a.acts w } })
      | .error c => .done (if c = 0x14 then s.unstatedWord k a r w else s.illegalAt k a w c)
    else .done (s.illegalAt k a w c)

/-- The run at an address as memory holds it, its header first; that word alone where no run stands there. -/
def State.memoryRun (s : State) (k ctx pc : Nat) : Except Nat (List Dword × State) :=
  match s.readGlobal (quadOf k) ctx pc 8 .fetch none with
  | .error e => .error e.1
  | .ok (bs, s) =>
    let w := wordOfBytes bs
    let n := 8 * ((bits w 52 5).toNat + 1)
    if opcOf w ≠ 0x7F then .ok ([w], s)
    else match s.readGlobal (quadOf k) ctx (pc + 8) n .fetch none with
      | .error _ => .ok ([w], s)
      | .ok (bs, t) => .ok (w :: wordsFrom (n / 8) bs, t)
/-- Which words an agent executes where it holds others than memory does: any of those it holds, or the stored ones. -/
def State.pickRun (s : State) (now : List Dword) : List HeldRun → List Dword × State
  | [] => (now, s)
  | f :: fs => if s.choose.1 then (f.words, s.choose.2) else s.choose.2.pickRun now fs
/-- A run that has been fetched before and stored to since executes the words it held or those stored, which is not
predictable, each time afresh (R45). -/
def State.staleRun (s : State) (k : Nat) (a : Agent) : State :=
  let pc := a.slot.pc.toNat
  let held := (s.quad (quadOf k)).heldRuns a.uid pc
  if held = [] then s
  else match s.memoryRun k a.ctx pc with
    | .error _ => s.setQuad (quadOf k) ((s.quad (quadOf k)).dropRun a.uid pc)
    | .ok (now, t) =>
      if held.all fun f => f.words == now then s
      else
        let (ws, t) := t.pickRun now (held.filter fun f => f.words != now)
        t.holdRun k a pc ws
/-- A fetch ahead of its issue (R45): the agent holds the run that stands in memory now. -/
def State.fetchAhead (s : State) (k pc : Nat) : State :=
  match s.agent? k with
  | none => s
  | some a =>
    if a.ended || a.stopped || pc % 8 ≠ 0 || s.sideHeld a.ctx pc 264 then s
    else match s.memoryRun k a.ctx pc with
      | .error _ => s
      | .ok (ws, t) => t.holdRun k a pc ws

/-- The header at the issuing slot's PC (R39, R40, R45). -/
def State.headerWord (s0 : State) (k : Nat) (a : Agent) : Issue :=
  let s := s0.staleRun k a
  let decoded (w : Dword) (s : State) : Issue :=
    if opcOf w ≠ 0x7F then .done (.next (s.alignRun k a))
    else match decodeRun w with
      | .ok i => .word i s
      | .error c => .done (.next (s.headerIllegal k a c))
  if a.slot.pc.toNat % 8 ≠ 0 then .done (.next (s.alignRun k a))
  else if s0.sideHeld a.ctx a.slot.pc.toNat 8 then .done (.next s0)
  else match ((s.quad (quadOf k)).heldRun a.uid a.slot.pc.toNat).bind List.head? with
  | some w => decoded w s
  | none => match s.readGlobal (quadOf k) a.ctx a.slot.pc.toNat 8 .fetch none with
    | .error e => .done (.next (s.fetchFault k a e.1))
    | .ok (bs, s) => decoded (wordOfBytes bs) s

/-! Ready runs (R85). -/

/-- A run names a slot that is loading (R177): it is not ready. -/
def State.runLoading (s : State) (k : Nat) (a : Agent) (len : Nat) : Bool :=
  match s.runWords k a len with
  | .error _ => false
  | .ok (ws, s) => (ws.take len).any fun w => (wordUses w).slots.any fun x => s.slotLoading (quadOf k) a.ctx x
/-- Whether a slot's next run may issue (R85, R177): its header's WAIT is met and no slot it names is loading, or a trap of its
header is what it meets. -/
def State.runDue (s : State) (k : Nat) (a : Agent) : Bool :=
  !s.sideHeld a.ctx a.slot.pc.toNat 8 && match s.headerWord k a with
  | .word (.run len wait _) s => a.tokensDone wait && !a.replaying && !s.fetchHeld a len.toNat && !s.runLoading k a len.toNat
  | _ => true
/-- Whether a slot of a gang has a ready run (R85). -/
def State.slotReady (s : State) (k : Nat) (a : Agent) (which : Bool) : Bool :=
  let a := { a with which := which }
  a.run.isNone && (a.block == .none || a.block == .handler) && a.slot.st == .run && !a.stopped && !a.restoring && s.runDue k a
/-- The wait of a slot with no ready run restarts at zero (R85). -/
def State.restartWaits (s : State) (k : Nat) : State :=
  match s.agent? k with
  | none => s
  | some a =>
    let w (which : Bool) (n : Nat) : Nat := if n != 0 && s.slotReady k a which then n else 0
    s.setAgent k { a with wait0 := w false a.wait0, wait1 := w true a.wait1 }

/-- What agent k issues next. -/
def State.nextWord (s : State) (k : Nat) : Issue :=
  match s.agent? k with
  | none => .done (.fault .noIssuer)
  | some a => match a.run with
    | none => s.headerWord k a
    | some r => match r.words.drop r.idx with
      | [] => .done (.fault .notEnabled)
      | w :: rest => match rest with
        | [] => (match decodeTrail w with
          | .ok i => .word i s
          | .error _ => .done (.fault .notEnabled))
        | _ => s.bodyWord k a r w

/-- TRAIL: the token assignments, then the slot moves on and the slots resolve, and the wait of a slot that the tokens leave
with no ready run restarts (R37, R40, R82, R85); a fault on the context area
is fatal (R83). -/
def execTrail (na : BitVec 3) (a0 a1 a2 a3 : BitVec 12) (s : State) : Res :=
  match s.agent? s.cur with
  | none => .fault .noIssuer
  | some a => match a.run with
    | none => .fault .notEnabled
    | some r =>
      if r.idx + 1 ≠ r.words.length then .fault .notEnabled
      else
        let b := { (a.assignTokens na [a0, a1, a2, a3]).moveOn r with run := none, temps := [] }
        if isSeq s.cur then .next (s.setAgent s.cur b)
        else match s.settleArea s.cur b with
          | .error _ => .next (s.takeTrap s.cur a
              { cause := 0x11, detail := 0, epc := a.header, restart := a.header, fmask := a.slot.mask, faddr := 0, report := none, code := 0 })
          | .ok (some c, s) => .next ((s.setAgent s.cur c).restartWaits s.cur)
          | .ok (none, s) => .next (s.endGang s.cur b)

end Sys2Proof.Machine
end

