-- ==== Sys2Proof/Machine/Float.lean ====
section
/-! DEFINITION. Slot arithmetic and conversions: opcodes 0x38 to 0x3B (R182 to R204). -/

namespace Sys2Proof.Machine

/-- The value of a slot operand in lane i (R182). -/
def Agent.val (a : Agent) (im : Image) (o : Operand) (i : Nat) : Val := decodeCode im (field (a.lane o i).toNat 0 im.ew)
def Agent.code (a : Agent) (o : Operand) (i : Nat) : Nat := (a.lane o i).toNat

/-- The first image of a word's slots. -/
def slot1 (ims : List Image) : Image := ims.headD fp32
def slot2 (ims : List Image) : Image := (ims.drop 1).headD fp32

/-- Encode a computed value, joining its flags with the core's (R184). -/
def finish (im : Image) (rm : BitVec 2) (sat : Bool) (r : Val × Flags) : Nat × Flags :=
  let e := encodeVal im rm.toNat sat r.1
  (e.1, r.2 ||| e.2)

/-- A word of opcode 0x38 or 0x3A on one slot that must have no block layout; its key's word holds RM and SAT above OPC, FN and
MOD (R115). -/
def oneSlot (w : Nat) (p : Pred) (nr : Bool) (slot : BitVec 4) (rm : BitVec 2) (sat : Bool) (d : VDst) (srcs : List Operand)
    (f : Image → Agent → Nat → Nat × Flags) (s : State) : Res :=
  slotLanes (w + 2 ^ 20 * (rm.toNat + 4 * sat.toNat)) p nr [(slot, .none, false)] [] d srcs (fun ims a i => f (slot1 ims) a i) s

/-! Opcode 0x38 (R187 to R192). -/

def execFadd (p : Pred) (nr : Bool) (slot : BitVec 4) (rm : BitVec 2) (sat : Bool) (d : VDst) (a b : Operand) (s : State) : Res :=
  oneSlot (wordKey 0x38 0 0) p nr slot rm sat d [a, b]
    (fun im g i => finish im rm sat (addVal rm.toNat (g.val im a i) (g.val im b i))) s
def execFsub (p : Pred) (nr : Bool) (slot : BitVec 4) (rm : BitVec 2) (sat : Bool) (d : VDst) (a b : Operand) (s : State) : Res :=
  oneSlot (wordKey 0x38 1 0) p nr slot rm sat d [a, b]
    (fun im g i => finish im rm sat (addVal rm.toNat (g.val im a i) (negVal (g.val im b i)))) s
def execFmul (p : Pred) (nr : Bool) (slot : BitVec 4) (rm : BitVec 2) (sat : Bool) (d : VDst) (a b : Operand) (s : State) : Res :=
  oneSlot (wordKey 0x38 2 0) p nr slot rm sat d [a, b]
    (fun im g i => finish im rm sat (mulVal (g.val im a i) (g.val im b i))) s
def execFfma (p : Pred) (nr : Bool) (slot : BitVec 4) (rm : BitVec 2) (sat : Bool) (d : VDst) (a b c : Operand) (s : State) : Res :=
  oneSlot (wordKey 0x38 3 0) p nr slot rm sat d [a, b, c]
    (fun im g i => finish im rm sat (fmaVal rm.toNat (g.val im a i) (g.val im b i) (g.val im c i))) s
/-- R189: the chosen value encodes exactly; no flag. -/
def pickCode (im : Image) (most : Bool) (a b : Val) : Nat × Flags := ((encodeVal im 0 false (pickVal most a b)).1, 0)
def execFmin (p : Pred) (nr : Bool) (slot : BitVec 4) (d : VDst) (a b : Operand) (s : State) : Res :=
  oneSlot (wordKey 0x38 4 0) p nr slot 0 false d [a, b] (fun im g i => pickCode im false (g.val im a i) (g.val im b i)) s
def execFmax (p : Pred) (nr : Bool) (slot : BitVec 4) (d : VDst) (a b : Operand) (s : State) : Res :=
  oneSlot (wordKey 0x38 5 0) p nr slot 0 false d [a, b] (fun im g i => pickCode im true (g.val im a i) (g.val im b i)) s
/-- R190. -/
def execFcmp (p : Pred) (_nr : Bool) (slot : BitVec 4) (cc : BitVec 3) (d : PNum) (a b : Operand) (s : State) : Res :=
  slotWord p [(slot, .none, false)] [a, b] [] [] s fun ims s k g act =>
    let im := slot1 ims
    let r (i : Nat) : Bool × Flags := fcmpVal cc.toNat (g.val im a i) (g.val im b i)
    let g' := g.setP d ((maskFn (fun i => (r i).1) &&& act) ||| (g.p d &&& ~~~act))
    .done (s.setAgent k { g' with flags := g.flags ||| unionFlags act fun i => (r i).2 })
def execFclass (p : Pred) (nr : Bool) (slot : BitVec 4) (d : VDst) (a : Operand) (s : State) : Res :=
  oneSlot (wordKey 0x38 7 0) p nr slot 0 false d [a] (fun im g i => (classifyCode im (field (g.code a i) 0 im.ew), 0)) s
def execFrnd (p : Pred) (nr : Bool) (slot : BitVec 4) (rm : BitVec 2) (sat : Bool) (d : VDst) (a : Operand) (s : State) : Res :=
  oneSlot (wordKey 0x38 8 0) p nr slot rm sat d [a] (fun im g i => frndVal im rm.toNat sat (g.val im a i)) s
/-- R192: B is an integer. -/
def execFscale (p : Pred) (nr : Bool) (slot : BitVec 4) (rm : BitVec 2) (sat : Bool) (d : VDst) (a b : Operand) (s : State) : Res :=
  oneSlot (wordKey 0x38 9 0) p nr slot rm sat d [a, b]
    (fun im g i => finish im rm sat (scaleVal (g.val im a i) (g.lane b i).toInt, 0)) s

/-! Opcode 0x39 (R193 to R196). -/

def execFcvt (p : Pred) (nr : Bool) (slot src : BitVec 4) (rm : BitVec 2) (sat : Bool) (d : VDst) (a : Operand) (s : State) : Res :=
  slotLanes (wordKey 0x39 0 sat.toNat) p nr [(slot, .none, false), (src, .none, false)] [rm.toNat] d [a]
    (fun ims g i => encodeVal (slot1 ims) rm.toNat sat (g.val (slot2 ims) a i)) s
def execFcvti (p : Pred) (nr : Bool) (slot : BitVec 4) (rm : BitVec 2) (w : Width) (z : Bool) (d : VDst) (a : Operand) (s : State) : Res :=
  oneSlot (wordKey 0x39 1 (z.toNat + widthBits w)) p nr slot rm false d [a]
    (fun im g i => cvtInt rm.toNat (widthBits w) z (g.val im a i)) s
def execIcvtf (p : Pred) (nr : Bool) (slot : BitVec 4) (rm : BitVec 2) (w : Width) (z sat : Bool) (d : VDst) (a : Operand) (s : State) : Res :=
  oneSlot (wordKey 0x39 2 (z.toNat + widthBits w)) p nr slot rm sat d [a]
    (fun im g i => finish im rm sat (intVal (widthBits w) z (g.code a i), 0)) s

/-! Opcode 0x3A (R197, R198). -/

/-- A special function by its FN: the intermediate binary32 value, then encode. -/
def specialWord (fn : Nat) (p : Pred) (nr : Bool) (slot : BitVec 4) (rm : BitVec 2) (sat : Bool) (d : VDst) (a : Operand) (s : State) : Res :=
  oneSlot (wordKey 0x3A fn 0) p nr slot rm sat d [a] (fun im g i => finish im rm sat (specialVal fn (g.val im a i))) s
def execFrcp (p : Pred) (nr : Bool) (slot : BitVec 4) (rm : BitVec 2) (sat : Bool) (d : VDst) (a : Operand) (s : State) : Res := specialWord 0 p nr slot rm sat d a s
def execFrsq (p : Pred) (nr : Bool) (slot : BitVec 4) (rm : BitVec 2) (sat : Bool) (d : VDst) (a : Operand) (s : State) : Res := specialWord 1 p nr slot rm sat d a s
/-- R183: the exact root, rounded once. -/
def execFsqrt (p : Pred) (nr : Bool) (slot : BitVec 4) (rm : BitVec 2) (sat : Bool) (d : VDst) (a : Operand) (s : State) : Res :=
  oneSlot (wordKey 0x3A 2 0) p nr slot rm sat d [a] (fun im g i => finish im rm sat (fsqrtVal (g.val im a i))) s
def execFexp2 (p : Pred) (nr : Bool) (slot : BitVec 4) (rm : BitVec 2) (sat : Bool) (d : VDst) (a : Operand) (s : State) : Res := specialWord 3 p nr slot rm sat d a s
def execFlog2 (p : Pred) (nr : Bool) (slot : BitVec 4) (rm : BitVec 2) (sat : Bool) (d : VDst) (a : Operand) (s : State) : Res := specialWord 4 p nr slot rm sat d a s
def execFsin (p : Pred) (nr : Bool) (slot : BitVec 4) (rm : BitVec 2) (sat : Bool) (d : VDst) (a : Operand) (s : State) : Res := specialWord 5 p nr slot rm sat d a s
def execFcos (p : Pred) (nr : Bool) (slot : BitVec 4) (rm : BitVec 2) (sat : Bool) (d : VDst) (a : Operand) (s : State) : Res := specialWord 6 p nr slot rm sat d a s
def execFtanh (p : Pred) (nr : Bool) (slot : BitVec 4) (rm : BitVec 2) (sat : Bool) (d : VDst) (a : Operand) (s : State) : Res := specialWord 7 p nr slot rm sat d a s

/-! Opcode 0x3B (R199 to R202). -/

def execFdot (p : Pred) (nr : Bool) (slot : BitVec 4) (d : VDst) (a b c : Operand) (s : State) : Res :=
  slotLanes (wordKey 0x3B 0 0) p nr [(slot, .none, true)] [] d [a, b, c]
    (fun ims g i => fdotCode (slot1 ims) (g.code a i) (g.code b i) (g.code c i)) s

/-- The block record of a gang's active lanes (R201). -/
def quantise (blk src : Image) (rm : Nat) (g : Agent) (act : Mask) (a : Operand) : Nat × Flags :=
  let vs := laneNums.map fun i => if act.getLsbD i then g.val src a i else .num false 0 0
  if blk.blk == 2 then fp4xEncode vs else mxEncode blk rm vs

/-- FMXQ writes every lane (R201). -/
def execFmxq (p : Pred) (nr : Bool) (slot src : BitVec 4) (rm : BitVec 2) (d : VDst) (a : Operand) (s : State) : Res :=
  slotWord p [(slot, .block, false), (src, .none, false)] [a] [vdstCodeOf d] (namedDst d) s fun ims s k g act =>
    let q := quantise (slot1 ims) (slot2 ims) rm.toNat g act a
    let gens := [slot, src].map fun x => s.genOf (quadOf k) g.ctx x
    vectorResultOn none (BitVec.allOnes 32) (some ⟨wordKey 0x3B 1 rm.toNat, gens, [slot.toNat, src.toNat]⟩) nr [a] d
      (fun j => word (field q.1 (32 * j) 32)) q.2 s k g act

/-- The block record in the lanes of a source, whatever their activity (R202). -/
def recordOf (g : Agent) (a : Operand) : Nat :=
  laneNums.foldl (fun acc j => if j < 16 then acc + g.code a j * 2 ^ (32 * j) else acc) 0

def execFmxe (p : Pred) (nr : Bool) (slot dstSlot : BitVec 4) (rm : BitVec 2) (sat : Bool) (d : VDst) (a : Operand) (s : State) : Res :=
  slotLanes (wordKey 0x3B 2 sat.toNat) p nr [(slot, .block, false), (dstSlot, .none, false)] [rm.toNat] d [a]
    (fun ims g i => finish (slot2 ims) rm sat (blockDecode (slot1 ims) (recordOf g a) i)) s

end Sys2Proof.Machine
end

