-- ==== Sys2Proof/Machine/Launch.lean ====
section
/-! DEFINITION. Launch, fork and mailboxes (R350 to R369): the words of opcode 0x78, the mailbox engine, the launch
queues and the end of a grid. -/

namespace Sys2Proof.Machine

/-! The frame of opcode 0x78 (R369). -/

/-- A gang word with conditions on its values (reason 0x14) and on who issues it (0x15), whose effect ends Twilight
rewindability; a value out of range is WARN in the modes of R52, with status 0xFF in `st`. -/
def launchWord (may : State → Agent → Bool) (dsts : List Nat) (st : Option Nat) (p : Pred) (reads vals : List Nat) (bad : Agent → Bool)
    (s : State) (body : State → Nat → Agent → Verdict) : Res :=
  match s.agent? s.cur with
  | none => .fault .noIssuer
  | some a =>
    let codes := vals.map sCode
    let value := !s.lenient s.cur && (codes.any a.busy || (bad a && (codes.findSome? a.parkedOn).isNone))
    if !value && !isSeq s.cur && !may s a then endWord s s.cur a 0 (illegal 0x15)
    else valueWord .gang false dsts p reads vals bad s fun s k a =>
      let b := { a with rewindable := false }
      if bad a then badValue s k b st else body s k b

def anyGang (_ : State) (_ : Agent) : Bool := true
def leadGang (_ : State) (a : Agent) : Bool := a.gang == 0
def leadEngines (s : State) (a : Agent) : Bool := a.gang == 0 && (match s.team? a.team with | some t => t.engines | none => false)

/-! Queues and grids (R356 to R361). -/

/-- A grid that holds a place: queued or running. -/
def Grid.alive (g : Grid) : Bool := match g.st with | .queued | .running => true | _ => false
def State.ctxGrids (s : State) (ctx : Nat) : List (Nat × Grid) := s.grids.filter fun p => p.2.ctx == ctx && p.2.alive
/-- The quadrants of a partition's logical device (R26). -/
def State.ldQuads (s : State) (part ld : Nat) : List Nat :=
  match s.part? part with
  | none => []
  | some p => p.quads.filter fun q => ((p.ldevs.drop ld).headD []).contains (dieOf q) && !(s.quad q).retired
/-- The context's launch queues (R27, R356). -/
def State.queueCount (s : State) (ctx : Nat) : Nat := match s.part? (ctx / 16) with | some p => 16 * p.ldevs.length | none => 0

/-- 54 ordinary places of a queue's 64, and one for each depth from 1 to 10 (R356). -/
def State.ordinaryFree (s : State) (ctx q : Nat) : Bool :=
  decide (((s.ctxGrids ctx).filter fun p => p.2.queue == q && !p.2.reserve).length < 54)
def State.reserveFree (s : State) (ctx q d : Nat) : Bool :=
  !(s.ctxGrids ctx).any fun p => p.2.queue == q && p.2.reserve && p.2.depth == d

/-- The checks of a kernel record and of fit (R360): a status, or the record. -/
def State.checkLaunch (s : State) (quad ctx krec nteams : Nat) (cor : Bool) (ld : Nat) : Except Nat KRec :=
  if krec % 8 ≠ 0 then .error 4
  else match s.readKRec quad ctx krec with
    | none => .error 4
    | some k =>
      if !k.fitsEmpty || (cor && decide (k.capacity (s.ldQuads (ctx / 16) ld) < nteams)) then .error 5 else .ok k

/-- A new handle for a grid. -/
def State.nameGrid (s : State) (g : Grid) : Nat × State :=
  (s.nextGrid, { s.setGrid s.nextGrid g with nextGrid := if s.nextGrid + 1 < 2 ^ 32 then s.nextGrid + 1 else 1 })
/-- A grid takes its place, the last of its queue. -/
def State.enqueue (s : State) (h : Nat) (g : Grid) (reserve : Bool) : State :=
  let n := match s.ctx? g.ctx with | some c => c.launchOrder | none => 0
  (s.modCtx g.ctx fun c => { c with launchOrder := n + 1 }).setGrid h { g with order := n, reserve, st := .queued }

/-! Completion objects (R358, R359). -/

def satisfied (v target : Nat) : Bool := decide ((v % 2 ^ 32 + 2 ^ 32 - target) % 2 ^ 32 < 2 ^ 31)

/-- The quadrant whose access rights the dispatcher uses for a context: the first of its grid's logical device. -/
def State.gridQuad (s : State) (g : Grid) : Nat := (s.ldQuads (g.ctx / 16) (g.queue / 16)).headD 0

def ErrRec.bytes (e : ErrRec) : List Byte :=
  fieldBytes 256 [(0, 4, e.count), (4, 1, e.kind), (5, 1, e.gang), (6, 2, e.quad), (8, 4, e.team), (0xC, 4, e.cause),
    (0x10, 4, e.tdetail), (0x14, 4, e.fmask), (0x18, 8, e.epc), (0x20, 8, e.faddr), (0x28, 8, e.capt)]

/-- An engine write that is dropped where it faults. -/
def State.tryWrite (s : State) (quad ctx addr : Nat) (bs : List Byte) : State :=
  match s.ctxWrite quad ctx addr bs with
  | .ok s => s
  | .error _ => s

/-- What the dispatcher writes for a grid lies behind its partition's earlier requests to a throttled row (R264). -/
def State.gridBehind (s : State) (g : Grid) : Bool :=
  (g.done != 0 && s.sideHeld g.ctx g.done 8) || (g.err != 0 && g.errRec.isSome && s.sideHeld g.ctx g.err 256)
/-- A grid retires: its error record, its release, DONE (R359). -/
def State.retireWrite (s : State) (h : Nat) (g : Grid) : State :=
  let q := s.gridQuad g
  let s := match g.errRec with | some e => if g.err = 0 then s else s.tryWrite q g.ctx g.err e.bytes | none => s
  let s := s.releaseFor (fun w => w.grid == h && w.quad != 2 ^ 32) 5
  let s := if g.done = 0 then s
    else
      let a := { Agent.start with ctx := g.ctx }
      let l := mkLane 0 (8 * Int.ofNat g.done) 1 0
      match s.performLane (64 * q) a { engineAccess a (.atom 0 64 false) 0 g.done 64 none l with word := doneWord } l with
      | .ok _ s => s
      | _ => s
  s.setGrid h { g with st := .retired g.errRec.isSome }

/-- Look at the objects a queued grid waits on: the satisfied ones are dropped, an unreadable one retires it with
KIND 4 (R358). -/
def State.examineGrid (s : State) (h : Nat) : State :=
  match s.grid? h with
  | none => s
  | some g =>
    if g.waits = [] || !g.alive then s
    else
      let r : List (Nat × Nat) × Option (Nat × Nat) × State := g.waits.foldl (fun r w =>
        if r.2.2.sideHeld g.ctx w.1 8 then (r.1 ++ [w], r.2.1, r.2.2)
        else match r.2.2.readGlobal (s.gridQuad g) g.ctx w.1 8 .read none with
        | .error e => (r.1, (match r.2.1 with | none => some (e.1, w.1) | some o => some o), r.2.2)
        | .ok (b, s) => (if satisfied (natOfBytes b) w.2 then r.1 else r.1 ++ [w], r.2.1, s)) ([], none, s)
      let s := r.2.2
      match r.2.1 with
      | none => s.setGrid h { g with waits := r.1 }
      | some (code, addr) =>
        let s := s.gridError h (ErrRec.first 4 0 0 0 9 code 0 0 addr 0)
        match s.grid? h with
        | some g => if s.gridBehind g then s else s.retireWrite h g
        | none => s

/-- Examine every waiting grid of a context; a retirement found on the way is seen by the next round. -/
def State.examineCtx (s : State) (ctx : Nat) : State :=
  let hs := (s.ctxGrids ctx).filterMap fun p => if p.2.waits = [] then none else some p.1
  (hs ++ [0]).foldl (fun s _ => hs.foldl State.examineGrid s) s

/-! Parked teams and precedence (R361, R365). -/

/-- The waits that block a gang (R85). -/
def Block.blocked : Block → Bool
  | .none | .stopped | .replay | .save => false
  | _ => true
def State.teamParked (s : State) (t : Team) : Bool :=
  let gs := ((s.teamAgents t).filter fun p => !isSeq p.1 && !p.2.ended).map (·.2)
  gs.all (fun a => a.block.blocked) && gs.any fun a => a.block == .ljoin
def State.parentParked (s : State) (g : Grid) : Bool :=
  match g.parent, g.parentTeam with
  | some p, some i => s.teams.any fun t => t.2.grid == p && t.2.index == i && s.teamParked t.2
  | _, _ => false

def Grid.unbound (g : Grid) : Bool := decide (g.bound < g.nteams)
def State.urgent (s : State) (g : Grid) : Bool := g.j && s.parentParked g
/-- A grid whose turn it is on its queue, its waits satisfied: the queue's first, or one that goes before every grid of lower
depth (R361). -/
def State.eligible (s : State) (g : Grid) : Bool :=
  g.alive && g.unbound && g.waits == [] &&
  !(s.ctxGrids g.ctx).any fun p => p.2.queue == g.queue && decide (p.2.order < g.order) && p.2.unbound && !(s.urgent g && decide (p.2.depth < g.depth))
/-- Whether grid a is taken before grid b (R361, R365). -/
def State.outranks (s : State) (a b : Grid) : Bool :=
  if a.ctx = b.ctx && s.urgent a && b.depth < a.depth then true
  else if a.ctx = b.ctx && s.urgent b && a.depth < b.depth then false
  else decide (b.pri < a.pri) || (a.pri == b.pri && decide (a.queue < b.queue))

/-! Standing binds (R366). -/

def State.standingOn (s : State) (q : Nat) : Bool := s.ctxs.any fun c => c.2.standing.contains q
def emptyStanding (ctx : Nat) : Bind := { handle := 0, first := 0, count := 0, order := 0, ctx, standing := true }
/-- Replace a quadrant's standing record. -/
def Quad.setStanding (q : Quad) (b : Bind) : Quad := { q with records := b :: q.records.filter fun r => !r.standing }

/-- Rule 3: the share of the i-th of n quadrants. -/
def standingShare (teams n i : Nat) : Nat × Nat :=
  let per := (teams + n - 1) / n
  let first := min teams (per * i)
  (first, if i + 1 = n then teams - first else min per (teams - first))

/-- Whether the standing quadrants hold their shares of a grid's teams at once. -/
def sharesFit (k : KRec) (teams : Nat) (qs : List Nat) : Bool :=
  let shares := qs.zipIdx.map fun p => (clusterOf p.1, (standingShare teams qs.length p.2).2)
  shares.all fun p => decide (p.2 ≤ k.perQuad) &&
    decide ((shares.filter fun o => o.1 == p.1).foldl (fun n o => n + o.2 * k.alloc) 0 ≤ 2 ^ 22)

/-- The dispatch hardware fills a context's empty standing records (R366). -/
def State.standingFill (s : State) (ctx : Nat) : State :=
  match s.ctx? ctx with
  | none => s
  | some c =>
    let qs := ascending c.standing
    if qs = [] || c.frozen || qs.any (fun q => (s.quad q).records.any fun r => r.standing && r.count != 0) then s
    else
      let ok (g : Grid) : Bool := s.eligible g && g.queue / 16 == c.sbDev && g.bound == 0 && g.shape.fitsEmpty &&
        (!g.cor || sharesFit g.shape g.nteams qs)
      let best := ((s.ctxGrids ctx).filter fun p => ok p.2).foldl (fun b p => match b with
        | none => some p
        | some x => if s.outranks p.2 x.2 then some p else some x) (none : Option (Nat × Grid))
      match best with
      | none => s
      | some (h, g) =>
        let put (s : State) (p : Nat × Nat) : State :=
          let (first, count) := standingShare g.nteams qs.length p.2
          s.setQuad p.1 ((s.quad p.1).setStanding { handle := h, first, count, order := 0, ctx, standing := true })
        (qs.zipIdx.foldl put s).setGrid h { g with bound := g.nteams }

/-! LAUNCH (R357, R360). -/

/-- A grid from its descriptor and control register, or none where the descriptor breaks a limit. -/
def parseGrid (d : List Byte) (ctl : Nat) (a : Agent) (depth : Nat) : Option Grid :=
  let n := descNum d
  let wait (o t : Nat) : List (Nat × Nat) := if n o 8 = 0 then [] else [(n o 8, n t 4)]
  if [0, 8, 0x18, 0x28, 0x30, 0x38].any (fun o => n o 8 % 8 != 0) || n 0x10 4 = 0 || 2 ^ 24 < n 0x10 4 || n 0x14 4 ≠ 0 then none
  else some {
    ctx := a.ctx, krec := n 0 8, shape := ⟨0, 0, 0, false, 0, 0, 0, []⟩, args := BitVec.ofNat 64 (n 8 8), nteams := n 0x10 4, depth,
    parent := some a.grid, parentTeam := some a.tindex, queue := field ctl 0 6, pri := field ctl 6 2, cor := bitAt ctl 8, j := bitAt ctl 9,
    reserve := false, order := 0, waits := wait 0x18 0x20 ++ wait 0x28 0x24, done := n 0x30 8, err := n 0x38 8, errRec := none, bound := 0,
    retiredTeams := 0, saved := [], reload := [], kept := [], held := [], stuck := 0, st := .waiting }

def State.depthOf (s : State) (a : Agent) : Nat := match s.grid? a.grid with | some g => g.depth | none => 0

/-- A LAUNCH's scope: 4 on a queue of the issuing gang's logical device, else 5 (R360). -/
def State.launchScope (s : State) (a : Agent) (q : Nat) : Nat :=
  match s.grid? a.grid with
  | some g => if g.queue / 16 = q / 16 then 4 else 5
  | none => 5

def execLaunch (p : Pred) (desc ctl dsts : SReg) (s : State) : Res :=
  launchWord leadGang [dsts.toNat, dsts.toNat + 1] (some dsts.toNat) p [desc.toNat, ctl.toNat] [ctl.toNat]
    (fun a => highBits (a.s ctl.toNat) 10 || decide (s.queueCount a.ctx ≤ field (a.s ctl.toNat).toNat 0 6)) s fun s k a =>
      let c := (a.s ctl.toNat).toNat
      let q := field c 0 6
      let answer (s : State) (st h : Nat) : Verdict :=
        .done (s.setAgent k (({ a with block := .none }.setS dsts.toNat (word st)).setS (dsts.toNat + 1) (word h)))
      let take (s : State) (h : Nat) (g : Grid) (reserve : Bool) : Verdict :=
        answer ((s.enqueue h g reserve).standingFill a.ctx) 0 h
      let place (s : State) (h : Nat) (g : Grid) : Option Verdict :=
        if s.ordinaryFree a.ctx q then some (take s h g false)
        else if g.j && s.reserveFree a.ctx q g.depth then some (take s h g true)
        else none
      match a.block with
      | .launch h => (match (s.grid? h).bind (place s h) with | some v => v | none => .wait false s)
      | _ => match s.clusterDesc a (a.s desc.toNat).toNat 64 with
      | .error e => memUniform e
      | .ok d => afterRelease (some (s.launchScope a q)) s a (fun s =>
        let depth := s.depthOf a + 1
        if s.sideHeld a.ctx (natOfBytes (d.take 8)) 2176 then .wait false s else if 10 < depth then answer s 1 0
        else match parseGrid d c a depth with
          | none => answer s 4 0
          | some g => match s.checkLaunch (quadOf k) a.ctx g.krec g.nteams g.cor (q / 16) with
            | .error st => answer s st 0
            | .ok shape =>
              let (h, s1) := s.nameGrid { g with shape }
              match place s1 h { g with shape } with
              | some v => v
              | none => if g.j then .wait false (s1.setAgent k { a with block := .launch h }) else answer s 2 0)

/-! LJOIN (R362). -/

/-- A team is no longer parked: no child's periods of R361 go on. -/
def State.unparked (s : State) (grid team : Nat) : State :=
  { s with grids := s.grids.map fun (p : Nat × Grid) => if p.2.parent = some grid ∧ p.2.parentTeam = some team then (p.1, { p.2 with stuck := 0 }) else p }

def execLjoin (p : Pred) (h dsts : SReg) (s : State) : Res :=
  launchWord anyGang [dsts.toNat] (some dsts.toNat) p [h.toNat] [] (fun _ => false) s fun s k a =>
    let give (s : State) (n : Nat) : State := s.setAgent k ({ a with block := .none }.setS dsts.toNat (word n))
    match s.grid? (a.s h.toNat).toNat with
    | none => .done (give s 2)
    | some g =>
      if g.ctx ≠ a.ctx || g.parent ≠ some a.grid || g.parentTeam ≠ some a.tindex then .done (give s 2)
      else match g.st with
        | .retired e => orderWait s a (.done (((give s e.toNat).unparked a.grid a.tindex).acquire k a.ctx 5))
        | _ => .wait false (s.setAgent k { a with block := .ljoin })

/-! FORK (R368). -/

/-- Start a sequencer of a team. -/
def State.forkSeq (s : State) (k : Nat) (a : Agent) (entry : Nat) (args : List Nat) : State :=
  let x := { Agent.start with
    uid := s.nextAgent, age := s.nextAgent, team := a.team, grid := a.grid, tindex := a.tindex, gang := a.gang, ctx := a.ctx
    slot0 := { pc := BitVec.ofNat 64 entry, mask := BitVec.allOnes 32, rcv := none, st := .run } }
  { s with nextAgent := s.nextAgent + 1 }.setAgent k (args.zipIdx.foldl (fun (x : Agent) (p : Nat × Nat) => x.setS (p.2 + 1) (word p.1)) x)

def execFork (p : Pred) (desc dsts : SReg) (s : State) : Res :=
  launchWord leadEngines [dsts.toNat] (some dsts.toNat) p [desc.toNat] [] (fun _ => false) s fun s k a =>
    match s.clusterDesc a (a.s desc.toNat).toNat 96 with
    | .error e => memUniform e
    | .ok d => afterRelease (some 1) s a (fun s =>
      let n := descNum d
      let give (s : State) (st : Nat) : Verdict := .done ((s.modAgent k fun b => { b with rewindable := false }.setS dsts.toNat (word st)))
      match s.team? a.team with
      | none => give s 1
      | some t =>
        let m := n 0 8
        let e := n 8 8
        if n 0x50 8 ≠ 0 || n 0x58 8 ≠ 0 then give s 2
        else if (m != 0 && t.mRun) || (e != 0 && t.dRun) then give s 1
        else
          let s := s.setAgent k a
          let s := ((s.teamAgents t).filter fun p => !isSeq p.1).foldl (fun s p => s.modAgent p.1 fun b => { b with cG := 0 }) s
          let s := s.setTeam a.team { t with cM := 0, cD := 0, mRun := t.mRun || m != 0, dRun := t.dRun || e != 0 }
          let args (o : Nat) : List Nat := (List.range 8).map fun i => n (o + 4 * i) 4
          let s := if m = 0 then s else s.forkSeq (mseqOf t.quad) a m (args 0x10)
          let s := if e = 0 then s else s.forkSeq (dseqOf t.quad) a e (args 0x30)
          give s 0)

/-! Mailboxes (R351 to R353). -/

def newBox : Mailbox := { exp := 1, cons := 0, polls := none, got := false, present := [] }
def Ctx.box (c : Ctx) (m : Nat) : Mailbox := mapGet newBox c.boxes m
def Ctx.setBox (c : Ctx) (m : Nat) (b : Mailbox) : Ctx := { c with boxes := mapSet newBox c.boxes m b }
def slotAddr (m seq : Nat) : Nat := 0x4000 * m + 0x100 * (seq % 64)
def Vf.slotBytes (v : Vf) (m seq : Nat) : List Byte := v.slots.readBytes (slotAddr m seq) 256

/-- The engine takes present every message whose SEQ has come; fuel counts slots. -/
def Mailbox.fetch (v : Vf) (m : Nat) : Nat → Mailbox → Mailbox
  | 0, b => b
  | f + 1, b =>
    let x := v.slotBytes m b.exp
    if natOfBytes (x.take 2) = b.exp then
      Mailbox.fetch v m f { b with exp := (b.exp + 1) % 2 ^ 16, polls := some 0, got := true, present := b.present ++ [x] }
    else b

/-- One turn of the loop of R352: the mailbox, and whether the kick is dropped. -/
def Mailbox.turn (v : Vf) (m : Nat) (b : Mailbox) : Mailbox × Bool :=
  let b := b.fetch v m 65
  if b.got then ({ b with polls := none, got := false }, false)
  else match b.polls with
    | some n => if n = 16 then ({ b with polls := none }, true) else ({ b with polls := some (n + 1) }, false)
    | none => (b, false)

def State.kickTurn (s : State) (vf ctx m : Nat) (restart : Bool) : State :=
  match s.ctx? ctx with
  | none => s
  | some c =>
    let b := c.box m
    let (b, dropped) := (if restart then { b with polls := some 0, got := false } else b).turn (s.vf vf) m
    let s := s.setCtx ctx (c.setBox m b)
    if dropped then s.setVf vf { s.vf vf with kdrop := (s.vf vf).kdrop + 1 } else s

/-- A host request to a virtual function reaches a target (R404): the functions are enabled (R398, R401), and its entry admits it. -/
def State.vfMay (s : State) (t : Target) (vf : Nat) (write : Bool) : Bool :=
  s.mgmt.boot == .service && decide (vf < 384) && s.admits t (271 + vf) (match (s.vf vf).ctx with | some c => c / 16 | none => 0) write

/-- KICK (R352, R405): a mailbox number with other bits set is discarded. -/
def execKick (vf : Nat) (value : Word) (s : State) : Res :=
  match (s.vf vf).ctx with
  | none => .next s
  | some ctx =>
    if !s.vfMay .regs vf true || highBits value 3 || (match s.ctx? ctx with | some c => c.frozen | none => true) then .next s
    else .next (s.kickTurn vf ctx value.toNat true)

/-- The engine looks again 64 hub cycles later. -/
def execKickPoll (ctx mb : Nat) (s : State) : Res :=
  match s.ctx? ctx with
  | none => .fault .notEnabled
  | some c => match c.vf with
    | none => .fault .notEnabled
    | some vf => if c.frozen || (c.box mb).polls.isNone then .fault .notEnabled else .next (s.kickTurn vf ctx mb false)

/-- The lowest selected mailbox with a present message. -/
def Ctx.oldestMessage (c : Ctx) (mask : Nat) : Option Nat :=
  (List.range 8).find? fun m => (mask % 256 == 0 || bitAt mask m) && (c.box m).present != []

def execMbrecv (p : Pred) (dst mask dsts : SReg) (s : State) : Res :=
  launchWord anyGang [dsts.toNat] none p [dst.toNat, mask.toNat] [mask.toNat] (fun a => highBits (a.s mask.toNat) 8) s fun s k a =>
    let addr := (a.s dst.toNat).toNat
    match s.clusterDesc a addr 256 with
    | .error e => memUniform e
    | .ok _ => orderWait s a (
      if !s.admits .mailbox (quadOf k) (a.ctx / 16) false then memUniform 3
      else if a.outTo 1 then .wait false s
      else match s.ctx? a.ctx with
        | none => .wait false s
        | some c => match c.oldestMessage (a.s mask.toNat).toNat with
          | none => .wait false (s.setAgent k { a with block := .mbrecv })
          | some m => match (c.box m).present with
            | [] => .wait false s
            | x :: xs =>
              let seq := natOfBytes (x.take 2)
              let now := match c.vf with | some vf => (s.vf vf).slotBytes m seq | none => x
              let bytes := mixBytes s.fresh x now
              let b := c.box m
              let s := { s with fresh := s.fresh + 256 }.setCtx a.ctx (c.setBox m { b with cons := (b.cons + 1) % 2 ^ 32, present := xs })
              let s := (s.setAgent k { a with block := .none }).sideWrite k a 1 addr bytes
              let s := s.modAgent k fun a => a.setS dsts.toNat (word (m + 65536 * seq))
              .done (s.acquire k a.ctx 5))

/-! MBSEND (R355). -/

def execMbsend (p : Pred) (src ring len dsts : SReg) (s : State) : Res :=
  launchWord anyGang [dsts.toNat] (some dsts.toNat) p [src.toNat, ring.toNat, len.toNat] [ring.toNat, len.toNat]
    (fun a => highBits (a.s ring.toNat) 6 || (a.s len.toNat).toNat % 4 != 0 || decide (4080 < (a.s len.toNat).toNat)) s fun s k a =>
      let n := (a.s len.toNat).toNat
      let r := (a.s ring.toNat).toNat
      match s.clusterDesc a (a.s src.toNat).toNat n with
      | .error e => memUniform e
      | .ok bs => afterRelease (some 5) s a fun s =>
        let s := s.setAgent k a
        let give (s : State) (st : Nat) : Verdict := .done (s.modAgent k fun a => a.setS dsts.toNat (word st))
        match s.vfOf a.ctx with
        | none => give s 2
        | some vf =>
          let x := (s.vf vf).ring r
          let use := x.used s.fresh
          let s := { s with fresh := s.fresh + 6 }
          if !ringOn use.2.2 then give s 2
          else if ringSlot use.2.2 < 16 + n then give s 3
          else if x.full use.2.2 then give s 1
          else give (s.ringPost vf r use a.ctx x.prod 0 bs) 0

/-! Host rings and standing binds (R354, R366, R405). -/

/-- CFG as the ring holds it: [30:19] zero, EN clear where a field is out of range. -/
def ringCfg (w : Nat) : Nat :=
  let ok := decide (1 ≤ field w 0 4 ∧ field w 0 4 ≤ 12) && decide (6 ≤ field w 4 4 ∧ field w 4 4 ≤ 12)
  field w 0 19 + (if ok && bitAt w 31 then 2 ^ 31 else 0)

def execHostRingCfgWrite (vf ring : Nat) (value : Word) (s : State) : Res :=
  .next (if s.vfMay .regs vf true then s.setVf vf ((s.vf vf).changeRing (ring % 64) fun x => { x with cfg := ringCfg value.toNat }) else s)

/-- Let a standing bind go: what its records still hold becomes ordinary records. -/
def State.releaseStanding (s : State) (qs : List Nat) : State :=
  qs.foldl (fun s q =>
    let x := s.quad q
    s.setQuad q { x with records := (x.records.filter fun r => !(r.standing && r.count == 0)).map fun r => { r with standing := false } }) s

/-- Up to n of the quadrants, each taken or left. -/
def takeSome : Nat → List Nat → State → List Nat × State
  | _, [], s => ([], s)
  | 0, _, s => ([], s)
  | n + 1, q :: qs, s =>
    let (on, s) := s.choose
    if on then (let (l, s) := takeSome n qs s; (q :: l, s)) else takeSome (n + 1) qs s

/-- The management core serves SBREQ: it sets, changes or releases the bind (R366). -/
def State.serveStanding (s : State) (vf : Nat) : State :=
  let w := (s.vf vf).sbreq.toNat
  let s := s.setVf vf { s.vf vf with sbwaits := false }
  match (s.vf vf).ctx with
  | none => s
  | some ctx => match s.ctx? ctx with
    | none => s
    | some c =>
      let s := s.releaseStanding c.standing
      let s := s.setCtx ctx { c with standing := [], sbDev := field w 9 2 }
      let free := (s.ldQuads (ctx / 16) (field w 9 2)).filter fun q => !s.standingOn q && (s.quad q).records == []
      let (qs, s) := takeSome (field w 0 9) free s
      let s := s.modCtx ctx fun c => { c with standing := qs }
      let s := qs.foldl (fun s q => s.setQuad q ((s.quad q).setStanding (emptyStanding ctx))) s
      let s := s.setVf vf { s.vf vf with sbstat := word qs.length }
      s.standingFill ctx
/-- SBREQ (R366, R405). In a firmware handoff no bind record is written: the request waits for the first pass (R402). -/
def execStandingBindRequest (vf : Nat) (value : Word) (s : State) : Res :=
  if !s.vfMay .regs vf true then .next s
  else
    let s := s.setVf vf { s.vf vf with sbreq := word (value.toNat % 2 ^ 11), sbwaits := true }
    .next (if s.mgmt.handoff then s else s.serveStanding vf)
/-- A context's standing quadrants that leave it: SBSTAT shows what is left (R405). -/
def State.dropStanding (s : State) (gone : List Nat) : State :=
  s.ctxs.foldl (fun s p =>
    if p.2.standing.any gone.contains then
      let left := p.2.standing.filter fun q => !gone.contains q
      let s := s.setCtx p.1 { p.2 with standing := left }
      match p.2.vf with
      | some v => s.setVf v { s.vf v with sbstat := word left.length }
      | none => s
    else s) s

end Sys2Proof.Machine
end

