-- ==== Sys2Proof/Machine/Matins.lean ====
section
/-! DEFINITION. Matins and the dispatch hardware (R358 to R367, R387 to R392): budgets, bind records, admission, slice
ends and team records, and the retirement of teams and grids. -/

namespace Sys2Proof.Machine

/-! The stop of a tenant, as the host sees it (R397). -/

/-- Every leaf reachable from a table: its virtual address, its entry's address and its entry. -/
def leavesOf (read : Nat → Nat) : List (Nat × Nat × Nat) → Nat → Nat → List (Nat × Nat × Nat)
  | [], _, _ => []
  | (_, lo, w) :: ls, table, va =>
    (List.range (2 ^ w)).flatMap fun i =>
      let a := table + 8 * i
      let e := read a
      let v := va + i * 2 ^ lo
      if !pteV e then [] else if pteLeaf e then [(v, a, e)] else leavesOf read ls (ptePtr e * 4096) v

/-- The dirty leaves of a space, their D bits cleared. -/
def State.takeDirty (s : State) (sid : Nat) : List Nat × State :=
  match s.space? sid with
  | none => ([], s)
  | some sp =>
    let ds := (leavesOf (s.pte sp.owner) ptLevels sp.root 0).filter fun l => pteD l.2.2
    let clean (l : Lease) : Lease := if l.sid == sid then { l with dirty := false } else l
    let s := ds.foldl (fun s l => s.setPte sp.owner l.2.1 (l.2.2 - 0x40)) s
    (ds.map (·.1), { s with
      cgs := s.cgs.map (fun (p : Nat × Cg) => (p.1, { p.2 with leases := p.2.leases.map clean })),
      hub := { s.hub with leases := s.hub.leases.map clean } })

/-- Perform what is left of a write, dropping what faults or is held back. -/
def finishAccess (k id : Nat) (s : State) (i : Nat) : State :=
  match s.agent? k with
  | none => s
  | some a => match a.accs.find? fun x => x.id == id with
    | none => s
    | some x => match x.lanes.find? fun l => l.lane == i with
      | none => s
      | some l =>
        if (s.heldBy a x l).isSome then s
        else match s.performElement k a x l with
          | .ok v s => s.modAgent k fun a => a.putAccess (x.setValue i v)
          | .fault _ s => s
          | .poison s => s
/-- The messages of a context that wait for room in its host rings: those that find it are posted, in order. -/
def State.postAll (s : State) (ctx : Nat) : State :=
  s.hub.outbox.foldl (fun s x => match x.packet with
    | .message p c st n ring _ payload =>
      if p = hostPeer ∧ c = ctx ∧ (s.hub.outbox.find? (toHost ctx st)) = some x then
        (match (s.vfOf ctx).bind fun vf => s.postMessage vf ctx st ring n.toNat payload with
          | some s => { s with hub := { s.hub with outbox := s.hub.outbox.erase x } }
          | none => s)
      else s
    | _ => s) s
/-- Every write of a context's agents is performed (R397 step 1). -/
def State.drainStores (s : State) (ctx : Nat) : State :=
  s.agents.foldl (fun s p => if p.2.ctx = ctx then
    (p.2.accs.filter Access.isWrite).foldl (fun s x => (lanesOf x.todo).foldl (finishAccess p.1 x.id) s) s else s) s
/-- And its messages accepted by its host rings. -/
def State.drainWrites (s : State) (ctx : Nat) : State := (s.drainStores ctx).postAll ctx

/-- The dirty leaves a context sees: of its private space, and of each window it has attached, at that window's addresses (R240). -/
def State.dirtyOf (s : State) (c : Ctx) : List Nat × State :=
  c.attached.foldl (fun r w =>
    let (vas, s) := r.2.takeDirty w.2
    (r.1 ++ vas.map (windowBase w.1 + ·), s)) (s.takeDirty c.sid)

/-- A tenant has stopped, its writes performed: the dirty-page report, then the status (R397). -/
def State.stopReport (s : State) (ctx : Nat) (status : Word) : State :=
  match s.ctx? ctx with
  | none => s
  | some c =>
    let (vas, s) := s.dirtyOf c
    let s := s.setCtx ctx { c with halted := true }
    match c.vf with
    | none => s
    | some vf =>
      let v := s.vf vf
      let report := bytesOfNat 16 vas.length ++ vas.flatMap fun a => bytesOfNat 8 a
      { s with hmem := s.hmem.writeBytes v.dpraddr.toNat report }.setVf vf { v with status := v.status ||| status }

/-! The retirement of teams and grids (R102, R359). -/

/-- TEAM_RETIRE: the last gang has ended, and each sequencer that ran has executed END. -/
def execTeamRetire (team : Nat) (s : State) : Res :=
  match s.team? team with
  | none => .fault .notEnabled
  | some t =>
    if t.live != 0 || t.mRun || t.dRun || s.agents.any (fun p => p.1 < orphanBase && p.2.team == team) then .fault .notEnabled
    else .next (growGrants 49 t.quad (s.removeTeam team t))

/-- What keeps a grid: a team not retired, an agent's access or command in flight, a child. -/
def State.gridDone (s : State) (h : Nat) (g : Grid) : Bool :=
  g.alive && decide (g.nteams ≤ g.retiredTeams) && !(s.agents.any fun p => p.2.grid == h) &&
  !(s.grids.any fun p => p.2.parent == some h && p.2.alive)

/-- A resident grid retires once no collective of its context is in flight: the stop it brings comes after their writes (R350, R397;
DEDUCED, log 47). -/
def State.collsDone (s : State) (h : Nat) (g : Grid) : Bool :=
  match s.ctx? g.ctx with
  | some c => c.resident != h || c.colls.all fun x => x.st != 0
  | none => true

/-- After a grid of a context has retired: the waits of the others, the standing records (R358, R366). -/
def State.afterRetire (s : State) (ctx h : Nat) : State :=
  let s := (s.examineCtx ctx).standingFill ctx
  match s.ctx? ctx with
  | some c => if c.resident = h then (s.drainWrites ctx).stopReport ctx 1#32 else s
  | none => s

def execGridRetire (h : Nat) (s : State) : Res :=
  match s.grid? h with
  | none => .fault .notEnabled
  | some g => if s.gridDone h g && !s.gridBehind g && s.collsDone h g then .next ((s.retireWrite h g).afterRetire g.ctx h) else .fault .notEnabled

/-! Budgets (R367). -/

/-- The quadrants a context's teams hold now. -/
def State.heldQuads (s : State) (ctx : Nat) : List Nat :=
  ((s.teams.filter fun t => match s.grid? t.2.grid with | some g => g.ctx == ctx | none => false).map (·.2.quad)).eraseDups

/-- A period's charge: one token for each microsecond of each quadrant a team held in it, at most 1,000 each. -/
def chargeFor (qs : List Nat) (s : State) : Nat × State :=
  qs.foldl (fun r _ => (r.1 + Config.elapsed r.2.fresh % 1001, { r.2 with fresh := r.2.fresh + 1 })) (0, s)

/-- The refill, cut by what is repaid, up to twice itself. -/
def Ctx.refilled (c : Ctx) (used : Nat) : Ctx :=
  let cut := min c.debt (c.refill / 4)
  { c with tokens := min (Int.ofNat (2 * c.refill)) (c.tokens - Int.ofNat used + Int.ofNat c.refill - Int.ofNat cut), debt := c.debt - cut }

/-- A grid with teams still to be admitted, its waits satisfied. -/
def State.admitted (s : State) (h : Nat) (g : Grid) : Nat :=
  g.retiredTeams + (s.teams.filter fun t => t.2.grid == h).length + g.saved.length
def State.wants (s : State) (h : Nat) (g : Grid) : Bool := g.alive && g.waits == [] && decide (s.admitted h g < g.nteams)
def State.wanting (s : State) (ctx : Nat) : Bool := (s.ctxGrids ctx).any fun p => s.wants p.1 p.2

/-- The end of a tenant's period: its charge, which what it has borrowed pays first (DESIGN CHOICE, log 86), its refill, and what it
may lend of the period's tokens, nothing unless it was idle throughout. -/
def State.endPeriod (s : State) (ctx : Nat) : State :=
  match s.ctx? ctx with
  | none => s
  | some c =>
    let (used, s) := chargeFor c.used s
    let spare := if c.active || s.wanting ctx then 0 else c.refill - used
    let lent := min c.loan used
    s.modCtx ctx fun c => { c.refilled (used - lent) with loan := c.loan - lent, spare, used := s.heldQuads ctx, active := false }
def State.refillAll (s : State) : State := s.ctxs.foldl (fun s p => s.endPeriod p.1) s

/-- What a tenant lends: the unused tokens of an idle period, as far as its balance holds them. -/
def Ctx.lends (c : Ctx) : Nat := min c.spare c.tokens.toNat

/-- Take tokens of idle tenants of a partition, in order. -/
def takeTokens : List Nat → Nat → State → State
  | [], _, s => s
  | c :: cs, n, s =>
    match s.ctx? c with
    | none => takeTokens cs n s
    | some x =>
      let m := min n x.lends
      takeTokens cs (n - m) (s.setCtx c { x with tokens := x.tokens - Int.ofNat m, spare := x.spare - m })
/-- A tenant with no positive balance may borrow what idle tenants of its partition have: its new admissions are against that alone. -/
def State.borrow (s : State) (ctx : Nat) : State :=
  match s.ctx? ctx with
  | none => s
  | some c =>
    if 0 < c.tokens || !s.wanting ctx then s
    else
      let lenders := s.ctxs.filter fun p => p.1 / 16 == ctx / 16 && p.1 != ctx && p.2.lends != 0
      let pool := lenders.foldl (fun n l => n + l.2.lends) 0
      let amount := Config.elapsed s.fresh % (pool + 1)
      let s := takeTokens (lenders.map (·.1)) amount { s with fresh := s.fresh + 1 }
      s.modCtx ctx fun c => { c with loan := c.loan + amount, debt := c.debt + amount }
/-- Whether a tenant may have teams admitted: it has a positive balance, or borrowed tokens left (R367). -/
def Ctx.mayAdmit (c : Ctx) : Bool := !c.frozen && !c.halted && (decide (0 < c.tokens) || c.loan != 0)

/-! Slice ends (R361, R367, R387). -/

/-- The values of Team.saving for a slice end and for a full save by Matins. -/
def bySlice : Nat := 2 ^ 32
def byFullSave : Nat := 2 ^ 32 + 1

/-- A team's agents learn that their slice ends. -/
def State.startSave (s : State) (id : Nat) (t : Team) (full : Bool) : State :=
  if t.saving.isSome then s
  else
    let s := s.setTeam id { t with saving := some (if full then byFullSave else bySlice) }
    (s.teamAgents t).foldl (fun s p => s.setAgent p.1 { p.2 with sliceEnd := true, mustStop := full || isSeq p.1 }) s

/-- PDL quadrant cycles have passed since a gang learned of its slice end: it stops at the next run boundary. -/
def execPdlExpiry (ag : Nat) (s : State) : Res :=
  match s.agent? ag with
  | none => .fault .notEnabled
  | some a => if a.sliceEnd && !a.stopped && !a.mustStop then .next (s.setAgent ag { a with mustStop := true }) else .fault .notEnabled

/-- Write a saved team's record and free its quadrant (R387, R389). -/
def execTeamRecordWrite (team : Nat) (s : State) : Res :=
  match s.team? team with
  | none => .fault .notEnabled
  | some t => match t.saving with
    | some n =>
      if n < bySlice || !s.readyToSave team t none then .fault .notEnabled
      else
        let s := s.settleTeam t
        let d := s.nextSave
        let s := { s with savm := s.savm.writeBytes (2 ^ 32 * d) (s.teamRecord t (n == byFullSave)), nextSave := d + 1 }
        .next (s.saveTeam team t (.device d) true)
    | _ => .fault .notEnabled

/-! Admission (R365, R392). -/

/-- The record a quadrant is working on: the nonempty one of lowest ORDER. -/
def Quad.current (q : Quad) : Option Bind :=
  q.records.foldl (fun b r => if r.count = 0 then b else match b with
    | none => some r
    | some x => if r.order < x.order then some r else some x) none

/-- A team of a record has been admitted. -/
def Bind.advance (b : Bind) : Bind := if b.count = 1 then { b with handle := 0, first := 0, count := 0 } else { b with first := b.first + 1, count := b.count - 1 }
def Quad.advance (q : Quad) (b : Bind) : Quad :=
  { q with records := (q.records.map fun r => if r = b then b.advance else r).filter fun r => r.count != 0 || r.standing }

/-- A bind record of a saved team goes. -/
def Quad.dropRow (h idx : Nat) (q : Quad) : Quad := { q with records := q.records.filter fun r => !(r.handle == h && r.count == 1 && r.first == idx && !r.standing) }
/-- A team that is not resident ends with a fatal fault (R393): its error, and its place in its grid. -/
def State.endSaved (s : State) (h idx gang quad cause capt : Nat) : State :=
  let s := s.gridError h (ErrRec.first 1 gang quad idx cause 0 0 0 0 capt)
  let s := { s with quads := s.quads.map fun (p : Nat × Quad) => (p.1, p.2.dropRow h idx) }
  match s.grid? h with
  | some g => s.setGrid h { g with
      retiredTeams := g.retiredTeams + 1, reload := g.reload.filter (fun r => r.1 != idx), kept := g.kept.filter (fun r => r.1 != idx)
      held := g.held.filter fun r => r.1 != idx }
  | none => s
/-- A queued record lies behind its partition's earlier requests to a throttled row (R264). -/
def State.recordBehind (s : State) (ctx : Nat) : SaveAt → Bool
  | .space addr => s.sideHeld ctx addr 4096
  | .queued addr _ => s.sideHeld ctx addr 4096
  | .device _ => false
  | .anew => false

/-- Admit the next team of a quadrant's current record, if it fits. A saved team's record that cannot be read is AREA, fatal to the
team (R370). -/
def State.admitNext (s : State) (q : Nat) : Option State :=
  match (s.quad q).current with
  | none => none
  | some b => match s.grid? b.handle with
    | none => none
    | some g =>
      let k := g.shape
      let s0 := s.setQuad q ((s.quad q).advance b)
      match tabGet g.reload b.first with
      | none | some .anew =>
        if s.fits q k k.entries then some (s0.admitFresh b.handle { g with reload := g.reload.filter (fun r => r.1 != b.first) } b.first q k) else none
      | some at_ => if s.recordBehind g.ctx at_ then none else match s.recordBytes? q g.ctx at_ with
        | none => some (s0.endSaved b.handle b.first 0 q 0x11 0)
        | some bytes =>
          let s0 := { s0 with fresh := s0.fresh + bytes.length }
          if s.mayResume q g.ctx k (byteReader bytes) then some (s0.admitSaved b.handle g b.first q k (byteReader bytes)) else none

/-- Admit the next n teams of a quadrant, all of grid h, or none. -/
def admitMany (h : Nat) : Nat → Nat → State → Option State
  | 0, _, s => some s
  | n + 1, q, s =>
    if (s.quad q).current.any fun b => b.handle == h then (match s.admitNext q with
      | some s => admitMany h n q s
      | none => none)
    else none

/-- The teams that a quadrant's records name of a grid. -/
def Quad.teamsOf (q : Quad) (h : Nat) : Nat := (q.records.filter fun b => b.handle == h).foldl (fun n b => n + b.count) 0
/-- Every team of a co-resident grid together (R365): on each quadrant its records are the next ones. -/
def State.admitCor (s : State) (h : Nat) : Option State :=
  s.quads.foldl (fun (r : Option State) p => match r with
    | none => none
    | some s => admitMany h (p.2.teamsOf h) p.1 s) (some s)

def State.admitStep (s : State) (q : Nat) : Option State :=
  match (s.quad q).current with
  | none => none
  | some b => match s.grid? b.handle with
    | none => none
    | some g => if g.cor && !g.reload.any (fun r => r.1 == b.first) then s.admitCor b.handle else s.admitNext q

/-- TEAM_ADMIT: the next team of the current record is admitted, arrivals that waited for it are made, and empty
standing records are filled. -/
def execTeamAdmit (quad : Nat) (s : State) : Res :=
  match (s.quad quad).current with
  | none => .fault .notEnabled
  | some b => match s.ctx? b.ctx with
    | none => .fault .notEnabled
    | some c => if c.frozen then .fault .notEnabled else match s.admitStep quad with
      | none => .fault .notEnabled
      | some s => .next ((s.flushArrivals b.ctx).standingFill b.ctx)

/-! A pass (R363). -/

/-- A record whose first gang's TFRAME holds a fatal cause (R391, R393). -/
def fatalRecord (record : List Byte) (gang cause : Nat) : List Byte :=
  let o := 0x1000 + gangRecBytes * gang + 0x60
  record.take o ++ bytesOfNat 8 cause ++ record.drop (o + 8)
/-- A saved team whose accumulators lay on a retired quadrant stops with POISON (R403): its record is captured, with that cause. -/
def State.stopSaved (s : State) (h idx : Nat) (record : List Byte) : State :=
  match s.grid? h with
  | none => s
  | some g => match s.ctx? g.ctx with
    | none => s
    | some c =>
      let q := s.gridQuad g
      let gang := ((recordGangs (byteReader record) (byteReader record 6 1)).head?.map (·.gang)).getD 0
      let record := fatalRecord record gang 0x10
      let fits := decide (c.complineUsed + record.length ≤ c.complineLen)
      let addr := c.compline + c.complineUsed
      let (capt, s) := if fits then (match s.ctxWrite q g.ctx addr record with
          | .ok s => (addr, s.modCtx g.ctx fun c => { c with complineUsed := c.complineUsed + record.length })
          | .error _ => (0, s)) else (0, s)
      s.endSaved h idx gang (byteReader record 0x22 2) 0x10 capt

/-- Such teams among those waiting to be loaded. -/
def State.stopDoomed (s : State) : State :=
  s.grids.foldl (fun s p => p.2.reload.foldl (fun s r =>
    match s.recordBytes? (s.gridQuad p.2) p.2.ctx r.2 with
    | none => s
    | some b => if bitAt (byteReader b 7 1) 2 && (s.quad (byteReader b 0x22 2)).retired then s.stopSaved p.1 r.1 b else s) s) s

/-- Whether Matins may write a record on a quadrant for a grid: its logical device, no standing bind, a free record. -/
def State.mayBind (s : State) (g : Grid) (b : BindPlan) : Bool :=
  let q := s.quad b.quad
  (s.ldQuads (g.ctx / 16) (g.queue / 16)).contains b.quad && !s.standingOn b.quad && decide (q.records.length < 16) &&
  decide (b.order < 2 ^ 16) && !q.records.any (fun r => r.order == b.order)

/-- Put teams of a grid on quadrants that have no other record, as many on each as fit, until all have one; fuel counts steps. -/
def corFill (h : Nat) (g : Grid) : Nat → List Nat → Nat → State → Bool
  | _, [], i, _ => decide (g.nteams ≤ i)
  | 0, _, i, _ => decide (g.nteams ≤ i)
  | f + 1, q :: qs, i, s =>
    if g.nteams ≤ i then true
    else if s.fits q g.shape g.shape.entries && !s.standingOn q && !(s.quad q).records.any (·.count != 0) then
      corFill h g f (q :: qs) (i + 1) (s.admitFresh h g i q g.shape)
    else corFill h g f qs i s
/-- Every team of a co-resident grid fits the quadrants of its logical device at once, as they stand (R365). -/
def State.corFits (s : State) (h : Nat) (g : Grid) : Bool :=
  let qs := s.ldQuads (g.ctx / 16) (g.queue / 16)
  corFill h g (g.nteams + qs.length) qs g.bound s
/-- Whether the grids of an equal or higher claim have been taken: none of the logical device that may go now outranks. A co-resident
one may go when it fits. -/
def State.takesTurn (s : State) (h : Nat) (g : Grid) : Bool :=
  s.eligible g && !s.grids.any fun p =>
    p.1 != h && p.2.ctx / 16 == g.ctx / 16 && p.2.queue / 16 == g.queue / 16 && s.eligible p.2 && s.outranks p.2 g &&
    (match s.ctx? p.2.ctx with | some c => c.mayAdmit | none => false) && (!p.2.cor || s.corFits p.1 p.2)

/-- A team pre-empted under R361 whose child has not retired. -/
def State.withheld (s : State) (g : Grid) (idx : Nat) : Bool :=
  g.held.any fun r => r.1 == idx && match s.grid? r.2 with | some x => x.alive | none => false

/-- Some record names a team of a grid. -/
def State.boundTeam (s : State) (h idx : Nat) : Bool :=
  s.quads.any fun p => p.2.records.any fun r => r.handle == h && decide (r.first ≤ idx) && decide (idx < r.first + r.count)
/-- A saved team of a grid is to be loaded and has no record: the grid's unadmitted teams wait (R385). -/
def State.reloadFirst (s : State) (h : Nat) (g : Grid) : Bool := g.reload.any fun r => !s.withheld g r.1 && !s.boundTeam h r.1

/-- Whether a new record of a grid goes before one that stands (R361, R385): a saved team's before those of its grid's unadmitted
teams, a J child's before those of lower depth in its context. -/
def State.goesBefore (s : State) (h : Nat) (g : Grid) (reload : Bool) (r : Bind) : Bool :=
  (reload && r.handle == h && !g.reload.any fun x => x.1 == r.first) ||
  (s.urgent g && r.ctx == g.ctx && match s.grid? r.handle with | some x => decide (x.depth < g.depth) | none => false)
/-- The numbers a new record's ORDER lies between on a quadrant: above every record that was taken before it, and below those that it
goes before, if any (R361, R365). -/
def State.orderRange (s : State) (q : Quad) (h : Nat) (g : Grid) (reload : Bool) : Nat × Option Nat :=
  let rows := q.records.filter (·.count != 0)
  let ceil := (rows.filter (s.goesBefore h g reload)).foldl (fun m r => match m with | none => some r.order | some n => some (min n r.order)) (none : Option Nat)
  let under (r : Bind) : Bool := match ceil with | none => true | some n => decide (r.order < n)
  ((rows.filter under).foldl (fun m r => max m r.order) 0, ceil)
def State.orderOk (s : State) (q : Quad) (h : Nat) (g : Grid) (reload : Bool) (order : Nat) : Bool :=
  let (lo, hi) := s.orderRange q h g reload
  decide (lo < order) && (match hi with | none => true | some n => decide (order < n))

def State.bindOne (s : State) (b : BindPlan) : Option State :=
  match s.grid? b.handle with
  | none => none
  | some g => match s.ctx? g.ctx with
    | none => none
    | some c =>
      let q := s.quad b.quad
      let row : Bind := { handle := b.handle, first := b.first, count := b.count, order := b.order, ctx := g.ctx, standing := false }
      let put (s : State) : State := s.setQuad b.quad { q with records := q.records ++ [row] }
      if !g.alive || !c.mayAdmit || b.count = 0 || !s.mayBind g b || !s.orderOk q b.handle g (decide (b.first < g.bound)) b.order then none
      else if b.first < g.bound then
        if b.count = 1 && g.reload.any (fun r => r.1 == b.first) && !s.withheld g b.first && !s.boundTeam b.handle b.first
        then some (put s) else none
      else if b.first = g.bound && b.first + b.count ≤ g.nteams && !s.reloadFirst b.handle g && s.takesTurn b.handle g then
        some ((put s).setGrid b.handle { g with bound := g.bound + b.count })
      else none

def bindAll : List BindPlan → State → Option State
  | [], s => some s
  | b :: bs, s => match s.bindOne b with
    | some s => bindAll bs s
    | none => none

/-- A co-resident grid of a plan is bound whole, and its teams admitted together. -/
def corAll (before : State) : List Nat → State → Option State
  | [], s => some s
  | h :: hs, s => match s.grid? h, before.grid? h with
    | some g, some o =>
      if g.cor && o.bound != g.bound then (if g.bound = g.nteams then (match s.admitCor h with | some s => corAll before hs s | none => none) else none)
      else corAll before hs s
    | _, _ => none

/-- The team that launched a grid. -/
def State.parentOf (s : State) (g : Grid) : Option (Nat × Team) :=
  match g.parent, g.parentTeam with
  | some p, some i => s.teams.find? fun t => t.2.grid == p && t.2.index == i
  | _, _ => none
/-- The full save of a team that waits for a child which cannot be admitted (R361). -/
def State.preempt (s : State) (child id : Nat) (t : Team) : State :=
  let s := match s.grid? t.grid with | some g => s.setGrid t.grid { g with held := g.held ++ [(t.index, child)] } | none => s
  s.startSave id t true
/-- Each child kept out while its parent team is parked: its count, and the save once four whole periods have gone, between five
passes that found it so (R361). -/
def State.preemptParents (s : State) : State :=
  s.grids.foldl (fun s p =>
    match s.grid? p.1 with
    | none => s
    | some g => match s.parentOf g with
      | none => s
      | some (id, t) =>
        let stuck := s.teamParked t && s.wants p.1 g
        let n := if stuck then g.stuck + 1 else 0
        let s := s.setGrid p.1 { g with stuck := n }
        if n < 5 || t.saving.isSome then s else s.preempt p.1 id t) s

/-- A grid has teams that wait for a quadrant: not bound yet, or bound to this one. -/
def State.waitsFor (s : State) (q h : Nat) (g : Grid) : Bool :=
  s.wants h g && (g.unbound || s.reloadFirst h g || (s.quad q).records.any fun r => r.handle == h && r.count != 0)
/-- Slices end where a tenant with tokens waits for quadrants of one in debt (R367). -/
def State.endSlices (s : State) : State :=
  s.teams.foldl (fun s p =>
    match s.grid? p.2.grid, s.team? p.1 with
    | some g, some t => match s.ctx? g.ctx with
      | none => s
      | some c =>
        let waits (x : Nat × Grid) : Bool := x.2.ctx != g.ctx && x.2.ctx / 16 == g.ctx / 16 && s.waitsFor t.quad x.1 x.2 &&
          (s.ldQuads (x.2.ctx / 16) (x.2.queue / 16)).contains t.quad && (match s.ctx? x.2.ctx with | some y => decide (0 < y.tokens) && !y.frozen | none => false)
        if decide (c.tokens < 0) && !s.standingOn t.quad && s.grids.any waits then s.startSave p.1 t false else s
    | _, _ => s) s

/-- The device measurement value (R398). -/
def dmvOf (fw : BitVec 512) : BitVec 512 :=
  Config.sha3_512 (bytesOfNat 64 Config.romDigest.toNat ++ bytesOfNat 64 fw.toNat ++ bytesOfNat 64 Config.configDigest.toNat)
/-- The private keys of the two pairs, derived from the fused seed alone, or with DMV (R398). -/
def identityOf : BitVec 512 := Config.sha3_512 (bytesOfNat 64 Config.fusedSeed.toNat)
def aliasOf (dmv : BitVec 512) : BitVec 512 := Config.sha3_512 (bytesOfNat 64 Config.fusedSeed.toNat ++ bytesOfNat 64 dmv.toNat)

/-- The first pass of new firmware completes a swap: DMV, block 0x02 and the attestation key change (R402). -/
def Mgmt.finishSwap (m : Mgmt) : Mgmt :=
  match m.handoff, m.swap with
  | true, some (image, version, sig) =>
    let d := Config.sha3_512 image
    { m with firmware := image, version, sig, fwDigest := d, dmv := dmvOf d, aliasId := aliasOf (dmvOf d), swap := none, handoff := false }
  | _, _ => m

/-- A context's waits examined; where that retires a grid, its empty standing records are filled (R366). -/
def State.examined (s : State) (ctx : Nat) : State :=
  let t := s.examineCtx ctx
  if (t.ctxGrids ctx).length = (s.ctxGrids ctx).length then t else t.standingFill ctx

/-- MATINS_PASS (R363): examine the waits, refill and lend, write the records of the plan, end slices. -/
def execMatinsPass (plan : List BindPlan) (s : State) : Res :=
  if s.mgmt.boot ≠ .service then .fault .notEnabled
  else
    let m := s.mgmt.finishSwap
    let s := { s with mgmt := { m with passes := m.passes + 1 } }
    let s := s.vfs.foldl (fun s p => if p.2.sbwaits then s.serveStanding p.1 else s) s
    let s := s.ctxs.foldl (fun s p => s.examined p.1) s
    let s := s.refillAll
    let s := s.ctxs.foldl (fun s p => s.borrow p.1) s
    let s := s.stopDoomed
    match bindAll plan s with
    | none => .fault .notEnabled
    | some s1 => match corAll s ((plan.map (·.handle)).eraseDups) s1 with
      | none => .fault .notEnabled
      | some s2 => .next (s2.preemptParents.endSlices)

end Sys2Proof.Machine
end

