-- ==== Sys2Proof/Machine/Services.lean ====
section
/-! DEFINITION. The management core and the host (R13 to R28, R172 to R174, R240, R350, R395 to R406): starts,
attestation, partitions, spaces and contexts, resets and stops, live service, retirement, the registers. -/

namespace Sys2Proof.Machine

/-! Starts (R398, R399, R401, R404). -/

/-- A package reset keeps the boot store: FAILCNT, the reason, HOSTMODE, the firmware and the fused identity; Dawn fixes the host port's
mode by HOSTMODE at once, whatever the start comes to (stage 1). Host memory is outside the package. -/
def State.restart (s : State) : State :=
  let m := s.mgmt
  { State.reset with
    fresh := s.fresh, agenda := s.agenda, hmem := s.hmem, hub := { Hub.reset with cxl := m.hostmode },
    mgmt := { Mgmt.reset with failcnt := m.failcnt, reason := m.reason, hostmode := m.hostmode, firmware := m.firmware, version := m.version,
                              sig := m.sig, identity := m.identity, idDigest := m.idDigest, dies := m.dies } }

/-- Midnight mode: the lowest-numbered compute die that passed its last self-test (R401). -/
def State.midnight (s : State) : State :=
  { s.dawnAccess with mgmt := { s.mgmt with boot := .midnight, mode := .midnight, dies := match s.mgmt.dies with | [] => [] | d :: ds => [ds.foldl min d] } }
/-- The start that follows a reset: Midnight mode where FAILCNT is 3. -/
def State.begin (s : State) : State := if s.mgmt.failcnt = 3 then s.midnight else s
/-- A failed start adds 1 to FAILCNT and the package resets itself. -/
def State.failStart (s : State) (reason : Nat) : State :=
  { s.restart with mgmt := { s.restart.mgmt with failcnt := s.mgmt.failcnt + 1, reason } }.begin

/-- Stage 2's checks of firmware: 0, or the reason of its failure. -/
def checkFirmware (image : List Byte) (version : Nat) (sig : List Byte) : Nat :=
  if !Config.mlDsaVerify Config.dexsonKey image sig then 1
  else if version < Config.minVersion then 2
  else 0

/-- Which of the compute dies pass their self-tests: what the tests find is free. -/
def testDies : List Nat → State → List Nat × State
  | [], s => ([], s)
  | d :: ds, s =>
    let (ok, s) := s.choose
    let (r, s) := testDies ds s
    (if ok then d :: r else r, s)

/-- Stage 4: 0, or the reason of the first failure. -/
def State.selfTest (s : State) : Nat × State :=
  let (hbm, s) := s.choose
  let (links, s) := s.choose
  let (dies, s) := testDies [0, 1, 2, 3] s
  let (hub, s) := s.choose
  let (power, s) := s.choose
  let s := { s with mgmt := { s.mgmt with dies } }
  (if hbm then 4 else if links then 5 else if dies.length < 4 then 6 else if hub then 7 else if power then 8 else 0, s)

/-- The 2,592 bytes of the public key of a private one. -/
def publicBytes (key : BitVec 512) : List Byte := bytesOfNat 2592 (Config.mlDsaPublic key).toNat

/-- PACKAGE_RESET: Dawn, measurement, identity and self-test, in order (R398). -/
def execPackageReset (s : State) : Res :=
  let s := s.restart.begin
  if s.mgmt.boot = .midnight then .next s
  else
    let m := s.mgmt
    let r := checkFirmware m.firmware m.version m.sig
    if r ≠ 0 then .next (s.failStart r)
    else
      let d := Config.sha3_512 m.firmware
      let s := { s.dawnAccess with
        mgmt := { m with boot := .selftest, mode := .test, fwDigest := d, dmv := dmvOf d, aliasId := aliasOf (dmvOf d), identity := identityOf,
                         idDigest := Config.sha3_512 (publicBytes identityOf) } }
      let (r, s) := s.selfTest
      .next (if r = 0 then s else s.failStart r)

def execStartedMark (s : State) : Res :=
  if s.mgmt.boot = .selftest then .next { s with mgmt := { s.mgmt with boot := .service, mode := .normal, started := true, failcnt := 0 } }
  else .fault .notEnabled

/-- START_TIMEOUT: no started mark within 5 s (REASON 0x03), in stage 4 or 5. -/
def execStartTimeout (stage : Nat) (reason : BitVec 8) (s : State) : Res :=
  if s.mgmt.boot = .selftest && (stage = 4 || stage = 5) && reason = 3 then .next (s.failStart 3) else .fault .notEnabled

/-- BOOTCTL.RESET: an image written through FWWIN becomes the firmware; from Midnight mode FAILCNT becomes 2 (R401). -/
def windowImage (w : Memory) : List Byte := match w.getLast? with | none => [] | some c => w.readBytes 0 (c.1 + 1)
def execBootctlReset (s : State) : Res :=
  let m := s.mgmt
  let image := windowImage m.fwwin
  let m := if image = [] then m else { m with firmware := image, version := Config.firmwareVersion image, sig := Config.firmwareSig image }
  let m := if m.boot = .midnight then { m with failcnt := 2 } else m
  .next { s with mgmt := m }.restart.begin

/-! Attestation (R400). A response is the request's place in R400's list and what the manual gives it to hold. -/

def Mgmt.answers (m : Mgmt) : Bool := match m.boot with | .off | .poweredDown => false | _ => true
def State.respond (s : State) (n : Nat) (content : List Byte) : Res :=
  if s.mgmt.answers then .next { s with mgmt := { s.mgmt with spdm := s.mgmt.spdm ++ [byte n :: content] } } else .fault .notEnabled
def bytes512 (x : BitVec 512) : List Byte := bytesOfNat 64 x.toNat
/-- A signature of 4,627 bytes under a private key. -/
def signature (key : BitVec 512) (content : List Byte) : List Byte := bytesOfNat 4627 (Config.mlDsaSign key content).toNat
/-- The certificate chain: Dexson's root, the identity key as Dexson certifies it, the alias key as the identity key certifies it. -/
def Mgmt.chain (m : Mgmt) : List Byte :=
  bytesOfNat 2592 Config.dexsonRoot.toNat ++ publicBytes m.identity ++ bytesOfNat 4627 Config.dexsonCert.toNat ++
  publicBytes m.aliasId ++ signature m.identity (publicBytes m.aliasId)
def Mgmt.signed (m : Mgmt) (content : List Byte) : List Byte := content ++ signature m.aliasId content

def execGetVersion (s : State) : Res := s.respond 0 [0x13]
def execGetCapabilities (s : State) : Res := s.respond 1 []
/-- ML-DSA-87 and SHA3-512 in the extended asymmetric and extended hash fields. -/
def offeredAlgorithms : List Byte := bytesOfNat 4 (Config.vendorAlgorithm 0).toNat ++ bytesOfNat 4 (Config.vendorAlgorithm 1).toNat
def execNegotiateAlgorithms (s : State) : Res :=
  ({ s with mgmt := { s.mgmt with negotiated := s.mgmt.negotiated || s.mgmt.answers } }).respond 2 offeredAlgorithms
def execGetDigests (s : State) : Res := s.respond 3 (bytes512 (Config.sha3_512 s.mgmt.chain))
def execGetCertificate (s : State) : Res := s.respond 4 s.mgmt.chain
def execChallenge (nonce : BitVec 256) (s : State) : Res := s.respond 5 (s.mgmt.signed (bytesOfNat 32 nonce.toNat))
/-- The measurement block of an index, or nothing. -/
def State.measurement (s : State) (i : Nat) : List Byte :=
  match i with
  | 1 => bytes512 Config.romDigest
  | 2 => bytes512 s.mgmt.fwDigest
  | 3 => bytes512 Config.configDigest
  | 4 => bytes512 s.mgmt.dmv
  | i => if 0x10 ≤ i && i < 0x30 then (match s.part? (i - 0x10) with | some p => bytes512 p.pmv | none => []) else []
def execGetMeasurements (index : Nat) (s : State) : Res := s.respond 6 (s.mgmt.signed (byte index :: s.measurement index))
/-- Another vendor's request, or another code, is answered with an error and nothing else (DESIGN CHOICE, log 46). -/
def execVendorDefinedRequest (req : VendorReq) (seq : Nat) (s : State) : Res :=
  if req.vendor ≠ Config.dexsonVendor || req.code ≠ 1 then s.respond 8 []
  else s.respond 7 (match s.part? req.part with | some p => ((p.log.drop seq).take 32).flatMap id | none => [])

/-! Partitions (R26, R27, R395). -/

/-- Whether the die masks of a device mode can be formed (R27) and divide the partition's quadrants (R26). -/
def ldevsOk (quads : List Nat) (mode : Nat) (l : List (List Nat)) : Bool :=
  let n := l.map List.length
  let all := l.flatMap id
  l.length == mode && all.eraseDups.length == all.length && all.all (fun d => quads.any fun q => dieOf q == d) && quads.all (fun q => all.contains (dieOf q)) &&
  match mode with
  | 1 => n.all fun k => k == 1 || k == 2 || k == 4
  | 2 => (n == [1, 1] || n == [2, 2])
  | 4 => n == [1, 1, 1, 1]
  | _ => false

def fillPart (c : PartSpec) (p : Part) : Part :=
  { p with quads := c.quads, mode := c.mode, ldevs := c.ldevs, quota := c.quota, wayMasks := c.wayMasks, alloc := c.alloc, pinQuota := c.pinQuota,
           span := c.span, lease := c.lease, pdl := c.pdl, imgShare := c.imgShare, actLimit := c.actLimit, peers := c.peers }
def newPart : Part :=
  { quads := [], mode := 0, ldevs := [], quota := [], wayMasks := [], alloc := [], pinQuota := 0, span := 0, lease := 0, pdl := 0, imgShare := 0,
    actLimit := 0, trust := [], verified := [], pmv := 0, log := [], peers := [], sessions := [], hslots := [] }

/-- The quadrants asked for exist and belong to no other partition. -/
def State.quadsFree (s : State) (part : Nat) (qs : List Nat) : Bool :=
  qs != [] && qs.eraseDups.length == qs.length && qs.all fun q => decide (q < 256) && !(s.quad q).retired && ((s.quad q).part.isNone || (s.quad q).part == some part)

/-- Quadrants join a partition, with their entries of the access tables (R404). -/
def State.giveQuads (s : State) (part : Nat) (qs : List Nat) : State :=
  qs.foldl (fun s q => (s.setQuad q { s.quad q with part := some part }).setAccess q (accessEntry part)) s
/-- A partition's share of the span ports, a mask (DESIGN CHOICE, log 49): their engines reach its resources, and no others. -/
def State.giveSpan (s : State) (part old new : Nat) : State :=
  (List.range 12).foldl (fun s i =>
    if bitAt new i then s.setAccess (258 + i) (accessEntry part) else if bitAt old i then s.setAccess (258 + i) 0 else s) s
/-- The lease length is 1 to 4,096 units (R253), a PDL 24 bits (R387), the shares of the 8 MiB image cache do not
exceed it (R169), and no span port is shared. -/
def State.specOk (s : State) (c : PartSpec) : Bool :=
  decide (1 ≤ c.lease) && decide (c.lease ≤ 4096) && decide (c.pdl < 2 ^ 24) && decide (c.span < 2 ^ 12) &&
  (s.parts.all fun p => p.1 == c.index || p.2.span &&& c.span == 0) &&
  decide ((s.parts.filter fun p => p.1 != c.index).foldl (fun n p => n + p.2.imgShare) c.imgShare ≤ cacheBytes)

/-- Quadrants leave: nothing of them stays for another partition but the bindings, which only their context's words
use and which R174 does not have change here. -/
def State.takeQuads (s : State) (qs : List Nat) : State :=
  qs.foldl (fun s q =>
    let x := s.quad q
    (s.setQuad q { Quad.reset with bind := x.bind, retired := x.retired, recovery := x.recovery, mhz := x.mhz, cycle := x.cycle }).setAccess q 0) s

/-- Bind records that no longer hold, of teams not yet admitted, go: their teams are bound anew, before their grids' other teams
(DEDUCED, log 44). -/
def State.unbind (s : State) (quad : Nat) (gone : Bind → Bool) : State :=
  ((s.quad quad).records.filter fun r => r.count != 0 && gone r).foldl (fun s r =>
    let q := s.quad quad
    let s := s.setQuad quad { q with records := q.records.erase r }
    match s.grid? r.handle with
    | none => s
    | some g =>
      let is := ((List.range r.count).map (r.first + ·)).filter fun i => !g.reload.any fun x => x.1 == i
      s.setGrid r.handle { g with reload := g.reload ++ is.map fun i => (i, .anew) }) s
/-- A partition's quadrants and logical devices have changed: standing binds keep what is still of their logical device, bind records
their quadrants. -/
def State.rebind (s : State) (part : Nat) (qs : List Nat) : State :=
  let s := (s.ctxs.filter fun c => c.1 / 16 == part).foldl (fun s c =>
    let lost := c.2.standing.filter fun q => !(s.ldQuads part c.2.sbDev).contains q
    (s.releaseStanding lost).dropStanding lost) s
  qs.foldl (fun s q => s.unbind q fun r => match s.grid? r.handle with
    | some g => !(s.ldQuads part (g.queue / 16)).contains q
    | none => true) s

/-- PARTITION_CREATE: a device mode whose masks cannot be formed is refused. -/
def execPartitionCreate (c : PartSpec) (s : State) : Res :=
  if s.mgmt.boot ≠ .service || 32 ≤ c.index || (s.part? c.index).isSome || !s.quadsFree c.index c.quads || 4 < c.keys.length || !s.specOk c then .fault .notEnabled
  else if !ldevsOk c.quads c.mode c.ldevs then .next s
  else
    let trust := (0, Config.dexsonKey.toNat) :: c.keys.zipIdx.map fun k => (k.2 + 1, k.1)
    .next (((s.setPart c.index { fillPart c newPart with trust }).giveQuads c.index c.quads).giveSpan c.index 0 c.span)

def State.partTeams (s : State) (part : Nat) : List (Nat × Team) :=
  s.teams.filter fun t => match s.grid? t.2.grid with | some g => g.ctx / 16 == part | none => false
/-- Matins ends every slice of a set of teams by full saves. -/
def State.saveTeams (s : State) (ts : List (Nat × Team)) : State := ts.foldl (fun s p => match s.team? p.1 with | some t => s.startSave p.1 t true | none => s) s

/-- PARTITION_CONFIGURE: with teams resident, Matins full-saves them; with none, the change is made whole (R395). The die masks and
routing of the partition's contexts stay those of their creation: DESIGN CHOICE (log 78), R22 derives them from the logical devices and
says nothing of a change. -/
def execPartitionConfigure (c : PartSpec) (s : State) : Res :=
  match s.part? c.index with
  | none => .fault .notEnabled
  | some p =>
    if s.mgmt.boot ≠ .service || !s.quadsFree c.index c.quads || !s.specOk c then .fault .notEnabled
    else if !ldevsOk c.quads c.mode c.ldevs then .next s
    else match s.partTeams c.index with
      | t :: ts => .next (s.saveTeams (t :: ts))
      | [] =>
        let s := (s.setPart c.index (fillPart c p)).rebind c.index p.quads
        let s := s.takeQuads (p.quads.filter fun q => !c.quads.contains q)
        .next ((s.giveQuads c.index c.quads).giveSpan c.index p.span c.span)

/-- PARTITION_RESET releases the partition's pins (R263). -/
def execPartitionReset (part : Nat) (s : State) : Res :=
  match s.part? part with
  | none => .fault .notEnabled
  | some _ =>
    let free (c : Cg) : Cg := { c with msc := c.msc.map (fun (l : MscLine) => if l.pin = some part then { l with pin := none } else l), pins := mapDel c.pins part }
    .next { s with cgs := s.cgs.map (fun (p : Nat × Cg) => (p.1, free p.2)) }

/-- R172: the key goes, and the verdicts of images signed under it. -/
def execTrustKeyRemove (part key : Nat) (s : State) : Res :=
  match s.part? part with
  | none => .fault .notEnabled
  | some p =>
    if !p.trust.any (fun t => t.1 == key) then .fault .notEnabled
    else .next (s.setPart part { p with trust := p.trust.filter (fun t => t.1 != key), verified := p.verified.filter fun v => v.2 != key })

/-! Spaces (R240, R248, R417). -/

def State.putTables (s : State) (part : Nat) (t : List (Nat × Nat)) : State := t.foldl (fun s e => s.setPte part e.1 e.2) s
def diesOk (d : List Nat) : Bool := (d.length == 1 || d.length == 2 || d.length == 4) && d.all (· < 4) && d.eraseDups.length == d.length
def sortDies (d : List Nat) : List Nat := [0, 1, 2, 3].filter d.contains

def execSpaceCreate (c : SpaceSpec) (s : State) : Res :=
  if s.mgmt.boot ≠ .service || 4096 ≤ c.sid || (s.space? c.sid).isSome || (s.part? c.owner).isNone || !diesOk c.dies then .fault .notEnabled
  else
    let sp : Space := { root := c.root, seed := c.seed, dies := sortDies c.dies, owner := c.owner, shared := true, resBase := 0, nrp := 0, ctx := 0 }
    .next ((s.setSpace c.sid sp).putTables c.owner c.tables)

/-- The home CGs of a reservation's chunks, whose quota it holds, or gives back, but for what a moved chunk took from the quota
itself (R403). -/
def State.chargeReservation (s : State) (sid : Nat) (sp : Space) (back : Bool) : State :=
  (List.range (16 * sp.nrp)).foldl (fun s i =>
    let va := sp.resBase + 4096 * i
    let c := s.homeCg sp va
    let n := mapGet 0 (s.cg c).charged sp.owner
    if back && (tabGet (s.cg c).chunks (chunkKey sid va)).any (·.moved) then s
    else s.setCg c { s.cg c with charged := mapSet 0 (s.cg c).charged sp.owner (if back then n - 1 else n + 1) }) s

/-- A space goes: every frame returns, the quota with it, and no cache keeps a line of it. -/
def Cg.dropSpace (sp : Space) (sid : Nat) (c : Cg) : Cg :=
  let mine := c.chunks.filter fun k => k.1 / 2 ^ 45 == sid
  let paid := (mine.filter fun k => !sp.reserved (k.1 % 2 ^ 45 * 4096) && !k.2.moved).length
  let msc := c.msc.filter fun l => l.sid == sid
  let c' := msc.foldl Cg.leave c
  { c' with
    chunks := c.chunks.filter (fun k => k.1 / 2 ^ 45 != sid), freed := c.freed ++ mine.map (fun k => k.2.frame),
    charged := mapSet 0 c.charged sp.owner (mapGet 0 c.charged sp.owner - paid), leases := c.leases.filter (fun l => l.sid != sid),
    errors := c.errors.filter (fun e => e.1 / 2 ^ 57 != sid), poison := c.poison.filter fun e => e / 2 ^ 57 != sid }
def Quad.dropSpace (sid : Nat) (q : Quad) : Quad :=
  { q with l1 := q.l1.filter (fun l => l.sid != sid), rt := q.rt.filter fun e => !e.lines.any fun l => l.1 == sid }
def State.dropSpace (s : State) (sid : Nat) : State :=
  match s.space? sid with
  | none => s
  | some sp =>
    let s := if sp.nrp = 0 then s else s.chargeReservation sid sp true
    { s with
      cgs := s.cgs.map (fun (p : Nat × Cg) => (p.1, p.2.dropSpace sp sid)), quads := s.quads.map (fun (p : Nat × Quad) => (p.1, p.2.dropSpace sid)),
      hub := { s.hub with leases := s.hub.leases.filter fun l => l.sid != sid }, purges := s.purges.filter (fun p => p.sid != sid),
      dmem := s.dmem.filter (fun b => b.1 / 2 ^ 57 != sid), spaces := mapDel s.spaces sid }

/-- A shared space is destroyed when no context attaches it. -/
def execSpaceDestroy (sid : Nat) (s : State) : Res :=
  match s.space? sid with
  | none => .fault .notEnabled
  | some sp => if !sp.shared || s.ctxs.any (fun c => c.2.attached.any fun a => a.2 == sid) then .fault .notEnabled else .next (s.dropSpace sid)

def execSharedSpaceAttach (ctx window sid : Nat) (s : State) : Res :=
  match s.ctx? ctx, s.space? sid with
  | some c, some sp =>
    if 4 ≤ window || !sp.shared || (tabGet c.attached window).isSome then .fault .notEnabled
    else .next (s.setCtx ctx { c with attached := mapPut c.attached window sid })
  | _, _ => .fault .notEnabled

/-! Contexts (R28, R174, R350, R351, R417). -/

/-- Bytes the host has placed before the context starts, whatever the leaf permits. -/
def State.placeBytes (s : State) (ctx : Nat) (sp : Space) (sid va : Nat) (bs : List Byte) : State :=
  (piecesOf va bs.length).foldl (init := s) fun s p =>
    let part := (bs.drop (p.1 - va)).take p.2
    match s.walk sp p.1 with
    | none => s
    | some (_, e, size) =>
      if pteLoc e = 2 then s
      else
        let loc : Loc := if pteLoc e = 0 then .device (s.homeCg sp p.1) sid p.1 e else .host (ptePtr e * 2 ^ 16 + p.1 % size) e
        match s.writePiece loc part 1 ctx none with
        | .ok s => s
        | .error _ => s

def newCtx (c : CtxSpec) : Ctx :=
  { sid := c.sid, attached := [], vf := c.vf, hvec := c.hvec, shvec := c.shvec, resident := 0, caps := [], boxes := [], rx := [], early := [],
    expect := [], gaps := [], colls := [], serial := 0, groupNext := [], saveBase := c.saveBase, compline := c.compline, complineLen := c.complineLen,
    complineUsed := 0, refill := c.refill, tokens := 0, loan := 0, debt := 0, standing := [], sbDev := 0, launchOrder := 0,
    used := [], active := false, spare := 0, frozen := false, halted := false }

def residentGrid (ctx krec : Nat) (shape : KRec) : Grid :=
  { ctx, krec, shape, args := 0, nteams := 1, depth := 0, parent := none, parentTeam := none, queue := 0, pri := 0, cor := false, j := false,
    reserve := false, order := 0, waits := [], done := 0, err := 0, errRec := none, bound := 0, retiredTeams := 0, saved := [], reload := [], kept := [],
    held := [], stuck := 0, st := .waiting }

/-- NRP is 0, or a multiple of 32 from 32 to 2^20 on a 2 MiB boundary (R417). -/
def reservationOk (nrp base : Nat) : Bool := nrp == 0 || (nrp % 32 == 0 && decide (nrp ≤ 2 ^ 20) && base % 2 ^ 21 == 0)
/-- Its tables reach down to level 4, and every leaf there is zero. -/
def State.reservationBuilt (s : State) (sp : Space) : Bool :=
  (List.range sp.nrp).all fun i => match leafAddr (s.pte sp.owner) (sp.resBase + 65536 * i) ptLevels sp.root with
    | some e => s.pte sp.owner e == 0
    | none => false

def Mgmt.answerCreate (m : Mgmt) (status : Nat) : Mgmt := { m with createStatus := status }
/-- CONTEXT_CREATE: its space, its tables and program, the checks of R350, then the resident grid; a failed check
creates nothing, and the request is answered with its status. -/
def execContextCreate (c : CtxSpec) (s : State) : Res :=
  let id := 16 * c.part + c.ctx
  match s.part? c.part with
  | none => .fault .notEnabled
  | some p =>
    let taken := match c.vf with | some v => decide (384 ≤ v) || (s.vf v).ctx.isSome | none => false
    if s.mgmt.boot ≠ .service || 16 ≤ c.ctx || (s.ctx? id).isSome || 4096 ≤ c.sid || (s.space? c.sid).isSome || taken || !reservationOk c.nrp c.resBase
    then .fault .notEnabled
    else
      let sp : Space := { root := c.root, seed := c.seed, dies := sortDies (p.ldevs.flatMap fun d => d), owner := c.part, shared := false,
                          resBase := c.resBase, nrp := c.nrp, ctx := id }
      let s1 := ((s.setSpace c.sid sp).putTables c.part c.tables).setCtx id (newCtx c)
      if !s1.reservationBuilt sp then .fault .notEnabled else
      let s1 := if c.nrp = 0 then s1 else s1.chargeReservation c.sid sp false
      let s1 := c.load.foldl (fun s l => s.placeBytes id sp c.sid l.1 l.2) s1
      let quad := (s1.ldQuads c.part 0).headD 0
      match s1.checkLaunch quad id c.krec.toNat 1 false 0 with
      | .error st => .next { s with mgmt := s.mgmt.answerCreate st }
      | .ok shape =>
        let s1 := { s1 with mgmt := s1.mgmt.answerCreate 0 }
        let (h, s1) := s1.nameGrid (residentGrid id c.krec.toNat shape)
        let s1 := s1.enqueue h (residentGrid id c.krec.toNat shape) false
        let s1 := s1.modCtx id fun x => { x with resident := h }
        .next (match c.vf with
          | none => s1
          | some v => (s1.setVf v { s1.vf v with ctx := some id, slots := [], kdrop := 0, status := 0 }).setAccess (271 + v) (accessEntry c.part))

/-- A quadrant forgets a context: bindings, reuse entries, loads in progress; its records keep no grid of it. ACCOWN, which only
ACCSPILL and a reset clear (R233), stays. -/
def Quad.dropCtx (ctx : Nat) (sids : List Nat) (q : Quad) : Quad :=
  { q with
    bind := q.bind.filter (fun b => b.1 / 16 != ctx), jobs := q.jobs.filter (fun j => j.ctx != ctx), reloading := q.reloading.filter (fun r => r / 16 != ctx),
    rt := q.rt.filter (fun e => e.ctx != ctx), vs := q.vs.filter (fun e => e.2.tag != ctx || e.1 < 2),
    l1 := q.l1.filter (fun l => !sids.contains l.sid),
    records := (q.records.filter fun r => r.standing || r.ctx != ctx).map fun r => if r.ctx = ctx then emptyStanding ctx else r }

/-- The teams and agents of a context, taken away; its grids too. -/
def State.dropTeams (s : State) (ctx : Nat) : State :=
  let ts := s.teams.filter fun t => match s.grid? t.2.grid with | some g => g.ctx == ctx | none => false
  let s := ts.foldl (fun s p => s.unloadTeam p.1 p.2) s
  { s with agents := s.agents.filter (fun a => a.2.ctx != ctx), grids := s.grids.filter fun g => g.2.ctx != ctx }

/-- CONTEXT_DESTROY, once the tenant has stopped. -/
def execContextDestroy (ctx : Nat) (s : State) : Res :=
  match s.ctx? ctx with
  | none => .fault .notEnabled
  | some c =>
    if !c.halted then .fault .notEnabled
    else
      let s := (s.releaseStanding c.standing).dropTeams ctx
      let s := s.dropSpace c.sid
      let s := match c.vf with
        | none => s
        | some v => (s.setVf v { s.vf v with ctx := none, sbstat := 0 }).setAccess (271 + v) 0
      .next { s with ctxs := mapDel s.ctxs ctx, quads := s.quads.map fun (p : Nat × Quad) => (p.1, p.2.dropCtx ctx [c.sid]) }

/-! Freezing, capture, reset and stop (R396, R397). -/

/-- Step 1: every agent of the tenant stops at its word; its commands do too, and stand for the capture alone. -/
def State.freeze (s : State) (ctx : Nat) : State :=
  let stop (a : Agent) : Agent := if a.ctx = ctx then { a with stopped := true, block := .stopped, run := none, temps := [] } else a
  let mine (c : MCmd) : Bool := match s.team? c.team with | some t => (match s.grid? t.grid with | some g => g.ctx == ctx | none => false) | none => false
  let s := s.modCtx ctx fun c => { c with frozen := true }
  { s with agents := s.agents.map (fun (p : Nat × Agent) => (p.1, stop p.2)),
           quads := s.quads.map (fun (p : Nat × Quad) => (p.1, { p.2 with queue := p.2.queue.filter fun c => !mine c })) }

/-- The stopped commands of a tenant go. -/
def State.dropCmds (s : State) (ctx : Nat) : State :=
  { s with agents := s.agents.map fun (p : Nat × Agent) => if p.2.ctx = ctx then (p.1, { p.2 with cmds := [] }) else p }

/-- Step 2: the dump of a tenant: header, a record for each team, the capability table, cut to the buffer. -/
def State.dump (s : State) (ctx : Nat) : State :=
  match s.ctx? ctx with
  | none => s
  | some c =>
    let ts := s.teams.filter fun t => match s.grid? t.2.grid with | some g => g.ctx == ctx | none => false
    let s := ts.foldl (fun s t => s.settleTeam t.2) s
    let body := ts.flatMap (fun t => s.teamRecord t.2 true) ++ (List.range 256).flatMap fun i => bytesOfNat 32 (c.cap i)
    let room := c.complineLen - c.complineUsed
    let cut := decide (room < 64 + body.length)
    let all := (bytesOfNat 4 ts.length ++ bytesOfNat 60 cut.toNat ++ body).take room
    let quad := (s.ldQuads (ctx / 16) 0).headD 0
    (s.tryWrite quad ctx (c.compline + c.complineUsed) all).modCtx ctx fun c => { c with complineUsed := c.complineUsed + all.length }

/-- A message of a context that has not left, to a host ring or a peer. -/
def sentFrom (ctx : Nat) (x : Sent) : Bool := match x.packet with | .message _ c .. => c == ctx | _ => false
/-- Step 3: what the tenant held is cleared, ACCOWN and its messages with it, and the partition's throttles released. -/
def State.clearTenant (s : State) (ctx : Nat) : State :=
  match s.ctx? ctx with
  | none => s
  | some c =>
    let s := s.dropTeams ctx
    let s := s.setCtx ctx { c with caps := [], rx := [], early := [], expect := [], gaps := [], colls := [], groupNext := [], boxes := (c.boxes.map fun b => (b.1, { b.2 with polls := none })).filter fun b => b.2 != newBox }
    { s with
      quads := s.quads.map (fun (p : Nat × Quad) => (p.1, { p.2.dropCtx ctx (c.spaces) with accown := if p.2.accown = some ctx then none else p.2.accown })),
      hub := { s.hub with outbox := s.hub.outbox.filter fun x => !sentFrom ctx x }
      cgs := s.cgs.map (fun (p : Nat × Cg) => (p.1, { p.2 with throttled := p.2.throttled.filter (fun t => t.1 != ctx / 16), side := p.2.side.filter fun x => x.1 / 2 ^ 64 != ctx / 16 })) }

def execTenantReset (ctx : Nat) (s : State) : Res :=
  match s.ctx? ctx with
  | none => .fault .notEnabled
  | some _ =>
    let s := (((s.freeze ctx).dump ctx).dropCmds ctx).drainStores ctx
    .next ((s.clearTenant ctx).stopReport ctx 3#32)

/-- A tenant the host asks to stop: it freezes, and its stop becomes visible in order. -/
def execHostStopRequest (ctx : Nat) (s : State) : Res :=
  match s.ctx? ctx with
  | none => .fault .notEnabled
  | some c => if c.halted then .fault .notEnabled else .next ((((s.freeze ctx).dropCmds ctx).drainWrites ctx).stopReport ctx 1#32)

/-- 125 °C: every tenant is frozen and captured, then the compute dies lose power; REASON 0x08 is for the next start
(R406). -/
def execThermalTrip (s : State) : Res :=
  if s.mgmt.boot = .poweredDown then .fault .notEnabled
  else
    let s := s.ctxs.foldl (fun s p => (s.freeze p.1).dump p.1) s
    .next { s with
      agents := [], teams := [], quads := [], cgs := [], dmem := [], cmem := [], lmem := [],
      mgmt := { s.mgmt with boot := .poweredDown, tripped := true, reason := 8 } }

/-! Live service (R402, R403, R406, R16). -/

/-- FIRMWARE_SWAP: the new image is checked as in stage 2; Matins then hands its state over. -/
def execFirmwareSwap (image : List Byte) (version : Nat) (sig : List Byte) (s : State) : Res :=
  if s.mgmt.boot ≠ .service || s.mgmt.handoff then .fault .notEnabled
  else if checkFirmware image version sig ≠ 0 then .next s
  else .next { s with mgmt := { s.mgmt with swap := some (image, version, sig), handoff := true } }
def execSwapTimeout (s : State) : Res :=
  if s.mgmt.handoff then .next { s with mgmt := { s.mgmt with swap := none, handoff := false } } else .fault .notEnabled

/-- SLOT_SCRUB: on a mismatch the slot is reloaded and the reload counted. Where a context's binding uses its image, its words wait
for the reload; where none does, it is the slot's own. -/
def execSlotScrub (quad slot : Nat) (mismatch : Bool) (s : State) : Res :=
  let q := s.quad quad
  if !mismatch then .next s
  else match tabGet q.phys slot with
    | none => .next s
    | some im => match q.bind.find? fun b => b.1 % 16 == slot && b.2.gen == im.gen with
      | none => .next (s.setQuad quad { q with rt := q.rt.filter (fun e => !e.slots.contains slot), scrubs := q.scrubs + 1 })
      | some b =>
        if q.reloading.contains b.1 then .next s else .next (s.setQuad quad { q with reloading := q.reloading ++ [b.1], scrubs := q.scrubs + 1 })

/-- Requests wait and keep their order; nothing else changes. -/
def execHbmRecalibration (channel : Nat) (s : State) : Res := if channel < 512 then .next s else .fault .notEnabled
/-- The links of R14: dies 0 to 3, and 4 for the hub die. -/
def linked (a b : Nat) : Bool := [(0, 1), (2, 3), (0, 2), (1, 3), (0, 4), (1, 4), (2, 4), (3, 4)].any fun p => p == (a, b) || p == (b, a)
def execLinkRecalibration (a b _group : Nat) (s : State) : Res := if linked a b then .next s else .fault .notEnabled
def execRetryRound (a b : Nat) (s : State) : Res := if linked a b then .next s else .fault .notEnabled

/-- QUADRANT_RETIREMENT: Matins full-saves the teams, all of the partition's since its quadrants change (R395); with none left the
quadrant leaves it (R403). -/
def execQuadrantRetirement (quad : Nat) (s : State) : Res :=
  let q := s.quad quad
  if q.retired || 256 ≤ quad then .fault .notEnabled
  else match (match q.part with | some part => s.partTeams part | none => []) with
    | t :: ts => .next (s.saveTeams (t :: ts))
    | [] =>
      let s := match q.part with
        | some part => (match s.part? part with | some p => (s.setPart part { p with quads := p.quads.filter (· != quad) }).rebind part [quad] | none => s)
        | none => s
      let s := s.takeQuads [quad]
      .next (s.setQuad quad { s.quad quad with retired := true, recovery := true }).stopDoomed

/-- The CG that takes over: the nearest surviving one upward on the die. -/
def State.heirCg (s : State) (cg : Nat) : Option Nat :=
  ((List.range 31).map fun i => cg / 32 * 32 + (cg + 1 + i) % 32).find? fun c => !(s.cg c).retired
/-- One chunk at its new home. -/
def Cg.takeChunk (c : Cg) (k : Nat × Chunk) : Cg :=
  match c.freed with
  | f :: fs => { c with freed := fs, chunks := mapPut c.chunks k.1 { k.2 with frame := f, moved := true } }
  | [] => { c with nextFrame := c.nextFrame + 1, chunks := mapPut c.chunks k.1 { k.2 with frame := c.nextFrame, moved := true } }
/-- The chunks of a partition among some. -/
def State.chunksOf (s : State) (part : Nat) (ks : List (Nat × Chunk)) : List (Nat × Chunk) :=
  ks.filter fun k => (s.space? (k.1 / 2 ^ 45)).any fun sp => sp.owner == part
/-- A partition's quota at a CG falls by what has moved there (R403). -/
def Part.lessQuota (p : Part) (cg n : Nat) : Part := { p with quota := mapSet 0 p.quota cg (mapGet 0 p.quota cg - n) }

/-- CG_RETIREMENT (R403): chunks move, poisoned units stay poisoned, and the quotas at the new home fall by the count moved; what a
reservation holds for pages without a chunk is held there now. -/
def execCgRetirement (cg : Nat) (s : State) : Res :=
  let c := s.cg cg
  if c.retired || 128 ≤ cg then .fault .notEnabled
  else match s.heirCg cg with
    | none => .fault .notEnabled
    | some h =>
      let x := c.chunks.foldl Cg.takeChunk (s.cg h)
      let x := { x with
        charged := c.charged.foldl (fun m p => mapSet 0 m p.1 (mapGet 0 m p.1 + (p.2 - ((s.chunksOf p.1 c.chunks).filter fun k => !k.2.moved).length))) x.charged,
        poison := x.poison ++ c.poison, errors := c.errors.foldl (fun m p => mapPut m p.1 p.2) x.errors }
      let s := { s with parts := s.parts.map fun (p : Nat × Part) => (p.1, p.2.lessQuota h (s.chunksOf p.1 c.chunks).length) }
      let s := s.setCg h x
      let s := s.setCg cg { Cg.reset with retired := true, recovery := true, home := h + 1, corrected := c.corrected, demoted := c.demoted }
      .next { s with cgs := s.cgs.map fun (p : Nat × Cg) => if p.2.home = cg + 1 then (p.1, { p.2 with home := h + 1 }) else p }

/-- The quadrants held by tenants whose balance is negative. -/
def State.indebted (s : State) (q : Nat) : Bool :=
  (s.teamsOn q).any fun t => match s.grid? t.2.grid with | some g => (match s.ctx? g.ctx with | some c => decide (c.tokens < 0) | none => false) | none => false
/-- POWER_LIMIT: one step down of the quadrant that R406 takes first among those still above 600 MHz: a tenant's in debt before the
others, then the highest-numbered. -/
def execPowerLimit (quad : Nat) (s : State) : Res :=
  let q := s.quad quad
  let first (o : Nat) : Bool :=
    let x := s.quad o
    !x.retired && decide (600 < x.mhz) && ((s.indebted o && !s.indebted quad) || (s.indebted o == s.indebted quad && decide (quad < o)))
  if 256 ≤ quad || q.retired || q.mhz ≤ 600 || (List.range 256).any first then .fault .notEnabled
  else .next (s.setQuad quad { q with mhz := q.mhz - 100 })

/-- A span port changes its use once the queues of the use it has have drained (R16): packets for other devices, or messages for
the host. -/
def execPortReassign (port : Nat) (s : State) : Res :=
  let span := mapGet false s.hub.ports port
  if s.mgmt.boot ≠ .service || 12 ≤ port || s.hub.outbox.any (fun x => isPost x.packet != span) then .fault .notEnabled
  else .next { s with hub := { s.hub with ports := mapSet false s.hub.ports port (!mapGet false s.hub.ports port) } }

/-! Registers (R404, R405). -/

/-- Replace bytes of a register of n bytes at `base` by a write. -/
def patchReg (old base n off : Nat) (data : List Byte) : Nat :=
  natOfBytes ((List.range n).map fun i =>
    if off ≤ base + i && base + i < off + data.length then (data.drop (base + i - off)).headD 0 else byte (old / 2 ^ (8 * i)))
def touches (off n base len : Nat) : Bool := decide (off < base + len) && decide (base < off + n)

/-- One byte of a mailbox slot; its reserved bytes stay zero (R5, R351). -/
def writeSlotByte (m : Memory) (a : Nat) (b : Byte) : Memory := if a % 256 / 4 = 1 then m else m.write a b
/-- A write to a virtual function's BAR0: mailbox slots, DPRADDR, BASE, PRODADDR and CONSR; read-only and reserved
places ignore it. KICK, SBREQ and CFG are steps of their own. -/
def Vf.write (v : Vf) (off : Nat) (data : List Byte) : Vf :=
  if off + data.length ≤ 0x20000 then { v with slots := data.zipIdx.foldl (fun m p => writeSlotByte m (off + p.2) p.1) v.slots }
  else if 0x20000 ≤ off && off < 0x21000 then
    (if touches off data.length 0x20048 8 then { v with dpraddr := BitVec.ofNat 64 (patchReg v.dpraddr.toNat 0x20048 8 off data) } else v)
  else if 0x30000 ≤ off && off < 0x31000 then
    let r := (off - 0x30000) / 0x40
    let b := 0x30000 + 0x40 * r
    let v := if touches off data.length b 8 then v.changeRing r (fun x => { x with base := patchReg x.base b 8 off data }) else v
    let v := if touches off data.length (b + 8) 8 then v.changeRing r (fun x => { x with prodAddr := patchReg x.prodAddr (b + 8) 8 off data }) else v
    if touches off data.length (b + 0x14) 4 then v.setRing r { v.ring r with consr := patchReg (v.ring r).consr (b + 0x14) 4 off data } else v
  else v
/-- The places whose writes are steps of their own. -/
def hasOwnStep (off n : Nat) : Bool :=
  touches off n 0x20000 4 || touches off n 0x20060 4 || (decide (0x30000 ≤ off + n) && (List.range 64).any fun r => touches off n (0x30000 + 0x40 * r + 0x10) 4)

def execRegisterWrite (vf : Option Nat) (off : Nat) (data : List Byte) (s : State) : Res :=
  match vf with
  | some v =>
    if 384 ≤ v || s.mgmt.boot ≠ .service || hasOwnStep off data.length then .fault .notEnabled
    else
      .next (if s.vfMay (if off < 0x20000 then .mailbox else .regs) v true then s.setVf v ((s.vf v).write off data) else s)
  | none =>
    if !s.mgmt.answers || touches off data.length 8 4 then .fault .notEnabled
    else if !s.admits .regs 270 0 true || off < 0x1000000 || 0x2000000 < off + data.length then .next s
    else .next { s with mgmt := { s.mgmt with fwwin := s.mgmt.fwwin.writeBytes (off - 0x1000000) data } }

/-- FUNCTION_LEVEL_RESET: context registers and host rings at their reset values, the standing bind with SBREQ. -/
def execFunctionLevelReset (vf : Nat) (s : State) : Res :=
  if s.mgmt.boot ≠ .service || 384 ≤ vf then .fault .notEnabled
  else
    let v := s.vf vf
    let s := s.setVf vf { Vf.reset with ctx := v.ctx, slots := v.slots }
    match v.ctx with
    | none => .next s
    | some ctx => match s.ctx? ctx with
      | none => .next s
      | some c =>
        .next ((s.releaseStanding c.standing).setCtx ctx { c with standing := [], boxes := (c.boxes.map fun b => (b.1, { b.2 with cons := 0 })).filter fun b => b.2 != newBox })

/-- What the host reads of a virtual function's registers (R405), all ones where it is refused (R404); mailbox slots are read back. DESIGN CHOICE (log entry 61): a read
that covers more than one register gives 0, since R405 states no access size. -/
def State.vfRead (s : State) (v off n : Nat) : Nat :=
  let x := s.vf v
  let c := x.ctx.bind s.ctx?
  let word (base len val : Nat) : Nat := if base ≤ off && off + n ≤ base + len then field val (8 * (off - base)) (8 * n) else 0
  let cons (m : Nat) : Nat := match c with | some c => (c.box m).cons | none => 0
  if !s.vfMay (if off < 0x20000 then .mailbox else .regs) v false then 2 ^ (8 * n) - 1
  else if off + n ≤ 0x20000 then x.slots.readNat off n
  else if off < 0x30000 then
    word 0x20004 4 x.kdrop.toNat + (List.range 8).foldl (fun a m => a + word (0x20010 + 4 * m) 4 (cons m)) 0 + word 0x20040 4 x.status.toNat +
    word 0x20048 8 x.dpraddr.toNat + word 0x20060 4 x.sbreq.toNat + word 0x20064 4 x.sbstat.toNat
  else
    let r := (off - 0x30000) / 0x40
    let b := 0x30000 + 0x40 * r
    let g := x.ring r
    word b 8 g.base + word (b + 8) 8 g.prodAddr + word (b + 0x10) 4 g.cfg + word (b + 0x14) 4 g.consr + word (b + 0x18) 4 g.prod
/-- BOOTSTAT (R405). -/
def State.bootstat (s : State) : Nat :=
  (match s.mgmt.mode with | .normal => 0 | .test => 1 | .midnight => 2) + 2 ^ 8 * s.mgmt.reason + 2 ^ 16 * s.mgmt.failcnt

end Sys2Proof.Machine
end

