-- ==== Sys2Proof/Machine/Uniform.lean ====
section
/-! DEFINITION. The uniform instructions of opcodes 0x00 to 0x03 (R88 to R97). -/

namespace Sys2Proof.Machine

def execSadd (p : Pred) (d a : SReg) (b : UOp) (s : State) : Res := uni2 p d a b (· + ·) s
def execSsub (p : Pred) (d a : SReg) (b : UOp) (s : State) : Res := uni2 p d a b (· - ·) s
def execSmul (p : Pred) (d a : SReg) (b : UOp) (s : State) : Res := uni2 p d a b (· * ·) s
def execSmulh (p : Pred) (z : Bool) (d a : SReg) (b : UOp) (s : State) : Res := uni2 p d a b (mulHi z) s
/-- R89, R90. -/
def execSdiv (p : Pred) (z : Bool) (d a : SReg) (b : UOp) (s : State) : Res := uni2 p d a b (divWord z) s
def execSmod (p : Pred) (z : Bool) (d a : SReg) (b : UOp) (s : State) : Res := uni2 p d a b (modWord z) s
def execSand (p : Pred) (d a : SReg) (b : UOp) (s : State) : Res := uni2 p d a b (· &&& ·) s
def execSor (p : Pred) (d a : SReg) (b : UOp) (s : State) : Res := uni2 p d a b (· ||| ·) s
def execSxor (p : Pred) (d a : SReg) (b : UOp) (s : State) : Res := uni2 p d a b (· ^^^ ·) s
def execSandn (p : Pred) (d a : SReg) (b : UOp) (s : State) : Res := uni2 p d a b (fun x y => x &&& ~~~y) s
def execSshl (p : Pred) (d a : SReg) (b : UOp) (s : State) : Res := uni2 p d a b shlWord s
def execSshr (p : Pred) (d a : SReg) (b : UOp) (s : State) : Res := uni2 p d a b shrWord s
def execSsra (p : Pred) (d a : SReg) (b : UOp) (s : State) : Res := uni2 p d a b sraWord s
def execSrot (p : Pred) (d a : SReg) (b : UOp) (s : State) : Res := uni2 p d a b rotWord s
def execSmin (p : Pred) (z : Bool) (d a : SReg) (b : UOp) (s : State) : Res := uni2 p d a b (minWord z) s
def execSmax (p : Pred) (z : Bool) (d a : SReg) (b : UOp) (s : State) : Res := uni2 p d a b (maxWord z) s
/-- R91. -/
def execScmp (p : Pred) (cc : BitVec 3) (d : PNum) (a : SReg) (b : UOp) (s : State) : Res :=
  uniformWord .all false [] p (a.toNat :: uopReads b) s fun s k g =>
    .done (s.setAgent k (g.setQ d (condHolds cc (g.s a.toNat) (g.uop b))))
def execSsel (p : Pred) (c : PNum) (d a : SReg) (b : UOp) (s : State) : Res :=
  uniWord p d (a.toNat :: uopReads b) (fun g => if g.q c then g.s a.toNat else g.uop b) s
def execSmov (p : Pred) (d : SReg) (b : UOp) (s : State) : Res := uniWord p d (uopReads b) (fun g => g.uop b) s
/-- R92. -/
def execSaddc (p : Pred) (borrow : Bool) (d a : SReg) (b : UOp) (s : State) : Res := uni2 p d a b (carryWord borrow) s
/-- R93. -/
def execSlea (p : Pred) (sh : BitVec 3) (d a : SReg) (b : UOp) (s : State) : Res :=
  uniformWord .all false [d.toNat, d.toNat + 1] p (a.toNat :: (a.toNat + 1) :: uopReads b) s fun s k g =>
    .done (s.setAgent k (g.setPair d.toNat (leaSum sh (g.s a.toNat) (g.s (a.toNat + 1)) (g.uop b))))
def execSclz (p : Pred) (d a : SReg) (s : State) : Res := uni1 p d a clzWord s
def execSpopc (p : Pred) (d a : SReg) (s : State) : Res := uni1 p d a popWord s
/-- R94. -/
def execSbfe (p : Pred) (z : Bool) (d a : SReg) (b : UOp) (s : State) : Res := uni2 p d a b (bfeWord z) s
/-- R94: the destination is also a source. -/
def execSbfi (p : Pred) (d a : SReg) (b : UOp) (s : State) : Res :=
  uniWord p d (d.toNat :: a.toNat :: uopReads b) (fun g => bfiWord (g.s d.toNat) (g.s a.toNat) (g.uop b)) s

/-- R95. -/
def execSli (p : Pred) (d : SReg) (imm : Word) (s : State) : Res := uniWord p d [] (fun _ => imm) s
def execSlih (p : Pred) (d : SReg) (imm : Word) (s : State) : Res :=
  uniformWord .all false [d.toNat, d.toNat + 1] p [] s fun s k g =>
    .done (s.setAgent k (g.setPair d.toNat (imm ++ 0#32)))

/-- The predicate result of QOP (R96). -/
def qopPred (p : Pred) (who : Who) (d : PNum) (reads : List Nat) (f : Agent → Bool) (s : State) : Res :=
  uniformWord who false [] p reads s fun s k g => .done (s.setAgent k (g.setQ d (f g)))

/-- R96. -/
def execQop (p : Pred) (op : QOp) (s : State) : Res :=
  match op with
  | .and d a b => qopPred p .all d [] (fun g => g.q a && g.q b) s
  | .or d a b => qopPred p .all d [] (fun g => g.q a || g.q b) s
  | .xor d a b => qopPred p .all d [] (fun g => g.q a != g.q b) s
  | .andn d a b => qopPred p .all d [] (fun g => g.q a && !g.q b) s
  | .not d a => qopPred p .all d [] (fun g => !g.q a) s
  | .mov d a => qopPred p .all d [] (fun g => g.q a) s
  | .set d => qopPred p .all d [] (fun _ => true) s
  | .clr d => qopPred p .all d [] (fun _ => false) s
  | .tos d a => uniWord p d [] (fun g => if g.q a then 1#32 else 0#32) s
  | .froms d a => qopPred p .all d [a.toNat] (fun g => g.s a.toNat != 0#32) s
  | .any d a => qopPred p .gang d [] (fun g => (g.p a &&& g.slot.mask) != 0#32) s
  | .all d a => qopPred p .gang d [] (fun g => (g.p a &&& g.slot.mask) == g.slot.mask) s

/-! System registers (R75 to R78, R97). -/

/-- Supervisor-only registers. -/
def supervisorReg : SysReg → Bool
  | .cause | .epcl | .epch | .fmask | .tdetail => true
  | _ => false

/-- The registers whose read or write waits for every earlier word of the gang (R97). -/
def drainsFirst : SysReg → Bool
  | .flags | .warn | .retired | .reused | .ldreused => true
  | _ => false

/-- Whether a word of the agent has yet to complete (R97): a result under way, or a matrix command queued, whose drain adds
flags (R226). A parked load counts as completed: DESIGN CHOICE (log 68), since its trap waits for the run's end. -/
def State.uncompleted (s : State) (k : Nat) (a : Agent) : Bool :=
  a.pending != [] || a.accs.any Access.waiting || (s.quad (quadOf k)).queue.any fun c => c.agent == k

/-- SRD: the value read, and the state the read leaves. CYCLE has advanced since the last read by a free amount
(R75), and each word completed since STALLS was last read or written may have stalled on a result of fixed latency (R37);
CYCLEL latches the high half. QUADID's scheduler reads 0 on a sequencer, which has none: DESIGN CHOICE (log 68). -/
def srdValue (s : State) (k : Nat) (a : Agent) (n : SysReg) : Word × State :=
  match n with
  | .cyclel =>
    let q := s.quad (quadOf k)
    let c := q.cycle + Config.elapsed s.fresh
    let s := { s with fresh := s.fresh + 1 }.setQuad (quadOf k) { q with cycle := c }
    (word c, s.setAgent k { a with cycleh := word (c / 2 ^ 32) })
  | .cycleh => (a.cycleh, s)
  | .flags => (a.flagsWord, s)
  | .warn => (word a.warn.toNat, s)
  | .mode => (word a.noreuse.toNat, s)
  | .gangid => (if isSeq k then 0#32 else word (a.gang % 16), s)
  | .teamid => (if isSeq k then 0#32 else word a.tindex, s)
  | .ctxid => (word (a.ctx % 512), s)
  | .quadid => (word (quadOf k % 256 + 256 * (if isSeq k then 0 else schedOf k)), s)
  | .slotmask => (if isSeq k then 0#32 else a.slot.mask, s)
  | .ddepth => (word (a.stack.length % 512), s)
  | .stalls =>
    let a := a.showStalls s.fresh
    (a.stalls, { s with fresh := s.fresh + 1 }.setAgent k a)
  | .retired => (a.retired, s)
  | .reused => (a.reused, s)
  | .ldreused => (a.ldreused, s)
  | .cause => (a.frame.cause, s)
  | .epcl => (a.frame.epc.setWidth 32, s)
  | .epch => (a.frame.epc.extractLsb' 32 32, s)
  | .fmask => (a.frame.fmask, s)
  | .tdetail => (a.frame.tdetail, s)

/-- SWR: the agent after the write; read-only registers never reach here (reason 0x14). -/
def swrAgent (a : Agent) (n : SysReg) (v : Word) : Agent :=
  match n with
  | .flags => { a with flags := v.setWidth 6 }
  | .warn => if v.getLsbD 0 then { a with warn := false } else a
  | .mode => { a with noreuse := v.getLsbD 0 }
  | .stalls => { a with stalls := v, since := 0 }
  | .retired => { a with retired := v, retMark := a.ids }
  | .reused => { a with reused := v }
  | .ldreused => { a with ldreused := v }
  | .epcl => { a with frame := { a.frame with epc := a.frame.epc.extractLsb' 32 32 ++ v, epcWritten := true } }
  | .epch => { a with frame := { a.frame with epc := v ++ a.frame.epc.setWidth 32, epcWritten := true } }
  | .fmask => { a with frame := { a.frame with fmask := v } }
  | .cyclel | .cycleh | .gangid | .teamid | .ctxid | .quadid | .slotmask | .ddepth | .cause | .tdetail => a

/-- On a sequencer CAUSE to TDETAIL are unassigned (R76): reason 0x14, or under R52 a free value (log 9). -/
def execSrd (p : Pred) (d : SReg) (n : SysReg) (s : State) : Res :=
  if isSeq s.cur && supervisorReg n then
    if s.lenient s.cur then
      uniformWord .all false [d.toNat] p [] s fun s k a =>
        .done ({ s with fresh := s.fresh + 1 }.setAgent k ({ a with warn := true }.setS d.toNat (Config.freeWord s.fresh 0)))
    else illegalWord 0x14 s
  else uniformWord .all (supervisorReg n) [d.toNat] p [] s fun s k a =>
    if drainsFirst n && s.uncompleted k a then .wait false s
    else
      let (v, s) := srdValue s k a n
      .done (s.modAgent k fun a => a.setS d.toNat v)

def execSwr (p : Pred) (n : SysReg) (a : SReg) (s : State) : Res :=
  if isSeq s.cur && supervisorReg n then
    if s.lenient s.cur then uniformWord .all false [] p [a.toNat] s fun s k g => .done (s.setAgent k { g with warn := true })
    else illegalWord 0x14 s
  else uniformWord .all (supervisorReg n) [] p [a.toNat] s fun s k g =>
    if drainsFirst n && s.uncompleted k g then .wait false s
    else .done (s.setAgent k (swrAgent g n (g.s a.toNat)))

end Sys2Proof.Machine
end

