-- ==== Sys2Proof/Machine/Dispatch.lean ====
section
/-! DEFINITION. The dispatch: one arm for each constructor of Instr, each one direct call of its meaning. -/

namespace Sys2Proof.Machine

/-- The meaning of every instruction and of every other step of the part. -/
def exec (i : Instr) (s : State) : Host.Outcome State Fault Refusal :=
  match i with
  | .sadd p d a b => Sys2Proof.Machine.execSadd p d a b s
  | .ssub p d a b => Sys2Proof.Machine.execSsub p d a b s
  | .smul p d a b => Sys2Proof.Machine.execSmul p d a b s
  | .smulh p z d a b => Sys2Proof.Machine.execSmulh p z d a b s
  | .sdiv p z d a b => Sys2Proof.Machine.execSdiv p z d a b s
  | .smod p z d a b => Sys2Proof.Machine.execSmod p z d a b s
  | .sand p d a b => Sys2Proof.Machine.execSand p d a b s
  | .sor p d a b => Sys2Proof.Machine.execSor p d a b s
  | .sxor p d a b => Sys2Proof.Machine.execSxor p d a b s
  | .sandn p d a b => Sys2Proof.Machine.execSandn p d a b s
  | .sshl p d a b => Sys2Proof.Machine.execSshl p d a b s
  | .sshr p d a b => Sys2Proof.Machine.execSshr p d a b s
  | .ssra p d a b => Sys2Proof.Machine.execSsra p d a b s
  | .srot p d a b => Sys2Proof.Machine.execSrot p d a b s
  | .smin p z d a b => Sys2Proof.Machine.execSmin p z d a b s
  | .smax p z d a b => Sys2Proof.Machine.execSmax p z d a b s
  | .scmp p cc d a b => Sys2Proof.Machine.execScmp p cc d a b s
  | .ssel p c d a b => Sys2Proof.Machine.execSsel p c d a b s
  | .smov p d b => Sys2Proof.Machine.execSmov p d b s
  | .saddc p borrow d a b => Sys2Proof.Machine.execSaddc p borrow d a b s
  | .slea p sh d a b => Sys2Proof.Machine.execSlea p sh d a b s
  | .sclz p d a => Sys2Proof.Machine.execSclz p d a s
  | .spopc p d a => Sys2Proof.Machine.execSpopc p d a s
  | .sbfe p z d a b => Sys2Proof.Machine.execSbfe p z d a b s
  | .sbfi p d a b => Sys2Proof.Machine.execSbfi p d a b s
  | .sli p d imm => Sys2Proof.Machine.execSli p d imm s
  | .slih p d imm => Sys2Proof.Machine.execSlih p d imm s
  | .qop p op => Sys2Proof.Machine.execQop p op s
  | .srd p d n => Sys2Proof.Machine.execSrd p d n s
  | .swr p n a => Sys2Proof.Machine.execSwr p n a s
  | .bra tgt => Sys2Proof.Machine.execBra tgt s
  | .brq p tgt => Sys2Proof.Machine.execBrq p tgt s
  | .brv p tgt rcv => Sys2Proof.Machine.execBrv p tgt rcv s
  | .call p tgt l => Sys2Proof.Machine.execCall p tgt l s
  | .ret p l => Sys2Proof.Machine.execRet p l s
  | .loop p tgt c => Sys2Proof.Machine.execLoop p tgt c s
  | .exit p => Sys2Proof.Machine.execExit p s
  | .endGang p => Sys2Proof.Machine.execEndGang p s
  | .yield p => Sys2Proof.Machine.execYield p s
  | .nop p => Sys2Proof.Machine.execNop p s
  | .flash nv a0 a1 a2 a3 sb4 ns rcp => Sys2Proof.Machine.execFlash nv a0 a1 a2 a3 sb4 ns rcp s
  | .growB p m => Sys2Proof.Machine.execGrowB p m s
  | .growT p d m => Sys2Proof.Machine.execGrowT p d m s
  | .shrink p m => Sys2Proof.Machine.execShrink p m s
  | .vrdi p nr d a imm => Sys2Proof.Machine.execVrdi p nr d a imm s
  | .vwri p nr d a imm => Sys2Proof.Machine.execVwri p nr d a imm s
  | .vadd p nr d a b => Sys2Proof.Machine.execVadd p nr d a b s
  | .vsub p nr d a b => Sys2Proof.Machine.execVsub p nr d a b s
  | .vmul p nr d a b => Sys2Proof.Machine.execVmul p nr d a b s
  | .vmulh p nr z d a b => Sys2Proof.Machine.execVmulh p nr z d a b s
  | .vmad p nr d a b c => Sys2Proof.Machine.execVmad p nr d a b c s
  | .vadds p nr z w d a b => Sys2Proof.Machine.execVadds p nr z w d a b s
  | .vsubs p nr z w d a b => Sys2Proof.Machine.execVsubs p nr z w d a b s
  | .vabs p nr sat d a => Sys2Proof.Machine.execVabs p nr sat d a s
  | .vneg p nr sat d a => Sys2Proof.Machine.execVneg p nr sat d a s
  | .vmin p nr z d a b => Sys2Proof.Machine.execVmin p nr z d a b s
  | .vmax p nr z d a b => Sys2Proof.Machine.execVmax p nr z d a b s
  | .vdot4 p nr az bz sat d a b c => Sys2Proof.Machine.execVdot4 p nr az bz sat d a b c s
  | .vsad p nr h d a b c => Sys2Proof.Machine.execVsad p nr h d a b c s
  | .vand p nr d a b => Sys2Proof.Machine.execVand p nr d a b s
  | .vor p nr d a b => Sys2Proof.Machine.execVor p nr d a b s
  | .vxor p nr d a b => Sys2Proof.Machine.execVxor p nr d a b s
  | .vandn p nr d a b => Sys2Proof.Machine.execVandn p nr d a b s
  | .vnot p nr d a => Sys2Proof.Machine.execVnot p nr d a s
  | .vshl p nr d a b => Sys2Proof.Machine.execVshl p nr d a b s
  | .vshr p nr d a b => Sys2Proof.Machine.execVshr p nr d a b s
  | .vsra p nr d a b => Sys2Proof.Machine.execVsra p nr d a b s
  | .vrot p nr d a b => Sys2Proof.Machine.execVrot p nr d a b s
  | .vclz p nr d a => Sys2Proof.Machine.execVclz p nr d a s
  | .vpopc p nr d a => Sys2Proof.Machine.execVpopc p nr d a s
  | .vbfe p nr z d a b => Sys2Proof.Machine.execVbfe p nr z d a b s
  | .vbfi p nr d a b c => Sys2Proof.Machine.execVbfi p nr d a b c s
  | .vbrev p nr d a => Sys2Proof.Machine.execVbrev p nr d a s
  | .vcmp p nr cc d a b => Sys2Proof.Machine.execVcmp p nr cc d a b s
  | .vsel p nr c d a b => Sys2Proof.Machine.execVsel p nr c d a b s
  | .vmov p nr d b => Sys2Proof.Machine.execVmov p nr d b s
  | .vbcast p nr d a src => Sys2Proof.Machine.execVbcast p nr d a src s
  | .vlane p nr m d => Sys2Proof.Machine.execVlane p nr m d s
  | .vext p nr sx half d a b => Sys2Proof.Machine.execVext p nr sx half d a b s
  | .vpack p nr z form d a b => Sys2Proof.Machine.execVpack p nr z form d a b s
  | .plop p nr op => Sys2Proof.Machine.execPlop p nr op s
  | .pcnt p nr d a => Sys2Proof.Machine.execPcnt p nr d a s
  | .pfirst p nr last d a => Sys2Proof.Machine.execPfirst p nr last d a s
  | .vperm p nr d a b => Sys2Proof.Machine.execVperm p nr d a b s
  | .vpush p nr d a b c => Sys2Proof.Machine.execVpush p nr d a b c s
  | .vswz p nr pat d a => Sys2Proof.Machine.execVswz p nr pat d a s
  | .vmatch p nr d a => Sys2Proof.Machine.execVmatch p nr d a s
  | .vred p nr op d a => Sys2Proof.Machine.execVred p nr op d a s
  | .vscan p nr ex op d a => Sys2Proof.Machine.execVscan p nr ex op d a s
  | .vvote p nr m d a => Sys2Proof.Machine.execVvote p nr m d a s
  | .vballot p nr d a => Sys2Proof.Machine.execVballot p nr d a s
  | .vaddImm p nr d a imm => Sys2Proof.Machine.execVaddImm p nr d a imm s
  | .vsubImm p nr d a imm => Sys2Proof.Machine.execVsubImm p nr d a imm s
  | .vmulImm p nr d a imm => Sys2Proof.Machine.execVmulImm p nr d a imm s
  | .vaddsImm p nr z w d a imm => Sys2Proof.Machine.execVaddsImm p nr z w d a imm s
  | .vsubsImm p nr z w d a imm => Sys2Proof.Machine.execVsubsImm p nr z w d a imm s
  | .vminImm p nr z d a imm => Sys2Proof.Machine.execVminImm p nr z d a imm s
  | .vmaxImm p nr z d a imm => Sys2Proof.Machine.execVmaxImm p nr z d a imm s
  | .vandImm p nr d a imm => Sys2Proof.Machine.execVandImm p nr d a imm s
  | .vorImm p nr d a imm => Sys2Proof.Machine.execVorImm p nr d a imm s
  | .vxorImm p nr d a imm => Sys2Proof.Machine.execVxorImm p nr d a imm s
  | .vandnImm p nr d a imm => Sys2Proof.Machine.execVandnImm p nr d a imm s
  | .vshlImm p nr d a imm => Sys2Proof.Machine.execVshlImm p nr d a imm s
  | .vshrImm p nr d a imm => Sys2Proof.Machine.execVshrImm p nr d a imm s
  | .vsraImm p nr d a imm => Sys2Proof.Machine.execVsraImm p nr d a imm s
  | .vrotImm p nr d a imm => Sys2Proof.Machine.execVrotImm p nr d a imm s
  | .vcmpImm p nr cc d a imm => Sys2Proof.Machine.execVcmpImm p nr cc d a imm s
  | .vmovImm p nr d imm => Sys2Proof.Machine.execVmovImm p nr d imm s
  | .fadd p nr slot rm sat d a b => Sys2Proof.Machine.execFadd p nr slot rm sat d a b s
  | .fsub p nr slot rm sat d a b => Sys2Proof.Machine.execFsub p nr slot rm sat d a b s
  | .fmul p nr slot rm sat d a b => Sys2Proof.Machine.execFmul p nr slot rm sat d a b s
  | .ffma p nr slot rm sat d a b c => Sys2Proof.Machine.execFfma p nr slot rm sat d a b c s
  | .fmin p nr slot d a b => Sys2Proof.Machine.execFmin p nr slot d a b s
  | .fmax p nr slot d a b => Sys2Proof.Machine.execFmax p nr slot d a b s
  | .fcmp p nr slot cc d a b => Sys2Proof.Machine.execFcmp p nr slot cc d a b s
  | .fclass p nr slot d a => Sys2Proof.Machine.execFclass p nr slot d a s
  | .frnd p nr slot rm sat d a => Sys2Proof.Machine.execFrnd p nr slot rm sat d a s
  | .fscale p nr slot rm sat d a b => Sys2Proof.Machine.execFscale p nr slot rm sat d a b s
  | .fcvt p nr slot src rm sat d a => Sys2Proof.Machine.execFcvt p nr slot src rm sat d a s
  | .fcvti p nr slot rm w z d a => Sys2Proof.Machine.execFcvti p nr slot rm w z d a s
  | .icvtf p nr slot rm w z sat d a => Sys2Proof.Machine.execIcvtf p nr slot rm w z sat d a s
  | .frcp p nr slot rm sat d a => Sys2Proof.Machine.execFrcp p nr slot rm sat d a s
  | .frsq p nr slot rm sat d a => Sys2Proof.Machine.execFrsq p nr slot rm sat d a s
  | .fsqrt p nr slot rm sat d a => Sys2Proof.Machine.execFsqrt p nr slot rm sat d a s
  | .fexp2 p nr slot rm sat d a => Sys2Proof.Machine.execFexp2 p nr slot rm sat d a s
  | .flog2 p nr slot rm sat d a => Sys2Proof.Machine.execFlog2 p nr slot rm sat d a s
  | .fsin p nr slot rm sat d a => Sys2Proof.Machine.execFsin p nr slot rm sat d a s
  | .fcos p nr slot rm sat d a => Sys2Proof.Machine.execFcos p nr slot rm sat d a s
  | .ftanh p nr slot rm sat d a => Sys2Proof.Machine.execFtanh p nr slot rm sat d a s
  | .fdot p nr slot d a b c => Sys2Proof.Machine.execFdot p nr slot d a b c s
  | .fmxq p nr slot src rm d a => Sys2Proof.Machine.execFmxq p nr slot src rm d a s
  | .fmxe p nr slot dstSlot rm sat d a => Sys2Proof.Machine.execFmxe p nr slot dstSlot rm sat d a s
  | .sload p slot desc dsts => Sys2Proof.Machine.execSload p slot desc dsts s
  | .sfence p => Sys2Proof.Machine.execSfence p s
  | .sdesc p slot idx dsts => Sys2Proof.Machine.execSdesc p slot idx dsts s
  | .mloadw p slot desc shape arr => Sys2Proof.Machine.execMloadw p slot desc shape arr s
  | .mloadws p slot ns desc shape arr => Sys2Proof.Machine.execMloadws p slot ns desc shape arr s
  | .mflip p => Sys2Proof.Machine.execMflip p s
  | .mstream p slot z i32 desc shape arr => Sys2Proof.Machine.execMstream p slot z i32 desc shape arr s
  | .mswap p arr => Sys2Proof.Machine.execMswap p arr s
  | .mdrain p slot rm sat i32 desc mask arr => Sys2Proof.Machine.execMdrain p slot rm sat i32 desc mask arr s
  | .mclear p vis mask => Sys2Proof.Machine.execMclear p vis mask s
  | .mfuse p edge dsts => Sys2Proof.Machine.execMfuse p edge dsts s
  | .msplit p => Sys2Proof.Machine.execMsplit p s
  | .mwait p => Sys2Proof.Machine.execMwait p s
  | .accspill p q dsts => Sys2Proof.Machine.execAccspill p q dsts s
  | .accfill p q dsts => Sys2Proof.Machine.execAccfill p q dsts s
  | .mreadv p nr d a => Sys2Proof.Machine.execMreadv p nr d a s
  | .ld p nr d addr base pol ew acq cm => Sys2Proof.Machine.execLd p nr d addr base pol ew acq cm s
  | .st p nr y addr base pol ew rel cm => Sys2Proof.Machine.execSt p nr y addr base pol ew rel cm s
  | .ldc p nr d base pol acq cm => Sys2Proof.Machine.execLdc p nr d base pol acq cm s
  | .stc p nr y base pol rel cm => Sys2Proof.Machine.execStc p nr y base pol rel cm s
  | .ldl p nr d addr base ew => Sys2Proof.Machine.execLdl p nr d addr base ew s
  | .stl p nr y addr base ew => Sys2Proof.Machine.execStl p nr y addr base ew s
  | .sld p nr d a base pol ew acq cm => Sys2Proof.Machine.execSld p nr d a base pol ew acq cm s
  | .sst p nr y a base pol ew rel cm => Sys2Proof.Machine.execSst p nr y a base pol ew rel cm s
  | .pref p nr addr base pol ew => Sys2Proof.Machine.execPref p nr addr base pol ew s
  | .evict p nr addr base ew => Sys2Proof.Machine.execEvict p nr addr base ew s
  | .fence p acq rel scope => Sys2Proof.Machine.execFence p acq rel scope s
  | .wstc p => Sys2Proof.Machine.execWstc p s
  | .tbar p scope => Sys2Proof.Machine.execTbar p scope s
  | .rdv p scope => Sys2Proof.Machine.execRdv p scope s
  | .atom p nr op w d addr base pol ord cm => Sys2Proof.Machine.execAtom p nr op w d addr base pol ord cm s
  | .atomn p nr op w y addr base pol rel cm => Sys2Proof.Machine.execAtomn p nr op w y addr base pol rel cm s
  | .acas p nr w d addr base pol ord cm => Sys2Proof.Machine.execAcas p nr w d addr base pol ord cm s
  | .boinit p desc cnt => Sys2Proof.Machine.execBoinit p desc cnt s
  | .boarr p desc n u dsts scope => Sys2Proof.Machine.execBoarr p desc n u dsts scope s
  | .bowait p desc ph scope => Sys2Proof.Machine.execBowait p desc ph scope s
  | .botest p desc ph dsts scope => Sys2Proof.Machine.execBotest p desc ph dsts scope s
  | .xcopy p desc pol ord fin => Sys2Proof.Machine.execXcopy p desc pol ord fin s
  | .xclose p dsts => Sys2Proof.Machine.execXclose p dsts s
  | .xwait p n scope => Sys2Proof.Machine.execXwait p n scope s
  | .xtest p n dsts scope => Sys2Proof.Machine.execXtest p n dsts scope s
  | .xfill p dst len pat ord arr => Sys2Proof.Machine.execXfill p dst len pat ord arr s
  | .xclone p dst src len ord arr => Sys2Proof.Machine.execXclone p dst src len ord arr s
  | .xpurge p start cnt opt scope => Sys2Proof.Machine.execXpurge p start cnt opt scope s
  | .xlease p dsts => Sys2Proof.Machine.execXlease p dsts s
  | .chsend p src ctl len dsts rel => Sys2Proof.Machine.execChsend p src ctl len dsts rel s
  | .chrecv p dst ctl len dsts acq => Sys2Proof.Machine.execChrecv p dst ctl len dsts acq s
  | .chpoll p ctl dsts => Sys2Proof.Machine.execChpoll p ctl dsts s
  | .chcap p idx widx dsts => Sys2Proof.Machine.execChcap p idx widx dsts s
  | .chgrantWrite p desc op img dsts => Sys2Proof.Machine.execChgrantWrite p desc op img dsts s
  | .chgrantRevoke p desc op img dsts => Sys2Proof.Machine.execChgrantRevoke p desc op img dsts s
  | .chgrantBind p desc op img dsts => Sys2Proof.Machine.execChgrantBind p desc op img dsts s
  | .chkey p idx dsts => Sys2Proof.Machine.execChkey p idx dsts s
  | .collr p desc idx dsts ord arr => Sys2Proof.Machine.execCollr p desc idx dsts ord arr s
  | .collg p desc idx dsts ord arr => Sys2Proof.Machine.execCollg p desc idx dsts ord arr s
  | .collb p desc idx dsts ord arr => Sys2Proof.Machine.execCollb p desc idx dsts ord arr s
  | .collq p h dsts acq => Sys2Proof.Machine.execCollq p h dsts acq s
  | .launch p desc ctl dsts => Sys2Proof.Machine.execLaunch p desc ctl dsts s
  | .ljoin p h dsts => Sys2Proof.Machine.execLjoin p h dsts s
  | .fork p desc dsts => Sys2Proof.Machine.execFork p desc dsts s
  | .mbrecv p dst mask dsts => Sys2Proof.Machine.execMbrecv p dst mask dsts s
  | .mbsend p src ring len dsts => Sys2Proof.Machine.execMbsend p src ring len dsts s
  | .trap p code => Sys2Proof.Machine.execTrap p code s
  | .eret p => Sys2Proof.Machine.execEret p s
  | .replay p dsts => Sys2Proof.Machine.execReplay p dsts s
  | .ctxsave p desc dsts => Sys2Proof.Machine.execCtxsave p desc dsts s
  | .ctxload p desc dsts => Sys2Proof.Machine.execCtxload p desc dsts s
  | .run len wait fb => Sys2Proof.Machine.execRun len wait fb s
  | .trail na a0 a1 a2 a3 => Sys2Proof.Machine.execTrail na a0 a1 a2 a3 s
  | .loadValueReturn ag id => Sys2Proof.Machine.execLoadValueReturn ag id s
  | .parkedLoadTrap ag => Sys2Proof.Machine.execParkedLoadTrap ag s
  | .storeAck ag id => Sys2Proof.Machine.execStoreAck ag id s
  | .cgAccess ag id part => Sys2Proof.Machine.execCgAccess ag id part s
  | .throttleWindowEnd cg part bank row => Sys2Proof.Machine.execThrottleWindowEnd cg part bank row s
  | .hubAccess ag id part => Sys2Proof.Machine.execHubAccess ag id part s
  | .leaseExpiry cg sid page => Sys2Proof.Machine.execLeaseExpiry cg sid page s
  | .copyComplete ag part => Sys2Proof.Machine.execCopyComplete ag part s
  | .copyFault ag part => Sys2Proof.Machine.execCopyFault ag part s
  | .bowaitWake ag => Sys2Proof.Machine.execBowaitWake ag s
  | .matrixCmdComplete part => Sys2Proof.Machine.execMatrixCmdComplete part s
  | .sloadComplete quad ctx slot => Sys2Proof.Machine.execSloadComplete quad ctx slot s
  | .slotReload quad ctx slot => Sys2Proof.Machine.execSlotReload quad ctx slot s
  | .matinsPass plan => Sys2Proof.Machine.execMatinsPass plan s
  | .pdlExpiry ag => Sys2Proof.Machine.execPdlExpiry ag s
  | .teamRecordWrite team => Sys2Proof.Machine.execTeamRecordWrite team s
  | .teamAdmit quad => Sys2Proof.Machine.execTeamAdmit quad s
  | .teamRetire team => Sys2Proof.Machine.execTeamRetire team s
  | .gridRetire h => Sys2Proof.Machine.execGridRetire h s
  | .contextCreate c => Sys2Proof.Machine.execContextCreate c s
  | .spaceCreate c => Sys2Proof.Machine.execSpaceCreate c s
  | .spaceDestroy sid => Sys2Proof.Machine.execSpaceDestroy sid s
  | .partitionConfigure c => Sys2Proof.Machine.execPartitionConfigure c s
  | .trustKeyRemove part key => Sys2Proof.Machine.execTrustKeyRemove part key s
  | .tenantReset ctx => Sys2Proof.Machine.execTenantReset ctx s
  | .kick vf value => Sys2Proof.Machine.execKick vf value s
  | .kickPoll ctx mb => Sys2Proof.Machine.execKickPoll ctx mb s
  | .hostRingCfgWrite vf ring value => Sys2Proof.Machine.execHostRingCfgWrite vf ring value s
  | .standingBindRequest vf value => Sys2Proof.Machine.execStandingBindRequest vf value s
  | .registerWrite vf off data => Sys2Proof.Machine.execRegisterWrite vf off data s
  | .bootctlReset => Sys2Proof.Machine.execBootctlReset s
  | .packageReset => Sys2Proof.Machine.execPackageReset s
  | .startedMark => Sys2Proof.Machine.execStartedMark s
  | .startTimeout stage reason => Sys2Proof.Machine.execStartTimeout stage reason s
  | .getVersion => Sys2Proof.Machine.execGetVersion s
  | .getCapabilities => Sys2Proof.Machine.execGetCapabilities s
  | .negotiateAlgorithms => Sys2Proof.Machine.execNegotiateAlgorithms s
  | .getDigests => Sys2Proof.Machine.execGetDigests s
  | .getCertificate => Sys2Proof.Machine.execGetCertificate s
  | .challenge nonce => Sys2Proof.Machine.execChallenge nonce s
  | .getMeasurements index => Sys2Proof.Machine.execGetMeasurements index s
  | .vendorDefinedRequest req seq => Sys2Proof.Machine.execVendorDefinedRequest req seq s
  | .firmwareSwap image version sig => Sys2Proof.Machine.execFirmwareSwap image version sig s
  | .swapTimeout => Sys2Proof.Machine.execSwapTimeout s
  | .slotScrub quad slot mismatch => Sys2Proof.Machine.execSlotScrub quad slot mismatch s
  | .hbmRecalibration channel => Sys2Proof.Machine.execHbmRecalibration channel s
  | .linkRecalibration a b group => Sys2Proof.Machine.execLinkRecalibration a b group s
  | .quadrantRetirement quad => Sys2Proof.Machine.execQuadrantRetirement quad s
  | .cgRetirement cg => Sys2Proof.Machine.execCgRetirement cg s
  | .powerLimit quad => Sys2Proof.Machine.execPowerLimit quad s
  | .thermalTrip => Sys2Proof.Machine.execThermalTrip s
  | .portReassign port => Sys2Proof.Machine.execPortReassign port s
  | .packetReceive k => Sys2Proof.Machine.execPacketReceive k s
  | .messageSkip part queue peer stream => Sys2Proof.Machine.execMessageSkip part queue peer stream s
  | .keyRenewal part skey => Sys2Proof.Machine.execKeyRenewal part skey s
  | .chkeyTimeout part skey => Sys2Proof.Machine.execChkeyTimeout part skey s
  | .collDeadline ctx h => Sys2Proof.Machine.execCollDeadline ctx h s
  | .collNoResultTimeout ctx h => Sys2Proof.Machine.execCollNoResultTimeout ctx h s
  | .functionLevelReset vf => Sys2Proof.Machine.execFunctionLevelReset vf s
  | .contextDestroy ctx => Sys2Proof.Machine.execContextDestroy ctx s
  | .hostStopRequest ctx => Sys2Proof.Machine.execHostStopRequest ctx s
  | .sharedSpaceAttach ctx window sid => Sys2Proof.Machine.execSharedSpaceAttach ctx window sid s
  | .partitionCreate c => Sys2Proof.Machine.execPartitionCreate c s
  | .partitionReset part => Sys2Proof.Machine.execPartitionReset part s
  | .retryRound a b => Sys2Proof.Machine.execRetryRound a b s

end Sys2Proof.Machine
end

