-- ==== Sys2Proof/Machine/Sched.lean ====
section
/-! DEFINITION. Which of the part's agents moves (R85 to R87, R387): a scheduler's selection, a sequencer, and what
the part does when nothing is laid down for it. `ex` is the meaning of instructions. -/

namespace Sys2Proof.Machine

/-- Agent k issues its next word. -/
def issue (ex : Instr → State → Res) (k : Nat) (s : State) : Res :=
  match ({ s with cur := k }).nextWord k with
  | .word i s => ex i s
  | .done r => r

/-! Who may issue. -/

def State.frozenCtx (s : State) (ctx : Nat) : Bool := match s.ctx? ctx with | some c => c.frozen | none => false
/-- A scheduler's gangs (R19, R85): not ended, their context not frozen (R396). -/
def State.gangsAt (s : State) (q sch : Nat) : List (Nat × Agent) :=
  (s.gangsOn q).filter fun p => schedOf p.1 == sch && !p.2.ended && !s.frozenCtx p.2.ctx

/-- Whether a gang holds its scheduler: in a run and not blocked (R85). DESIGN CHOICE (log 68): the waits of REPLAY and CTXSAVE,
which R85 does not list, block the gang too, so that the runs they wait on can be selected. -/
def Agent.running (a : Agent) : Bool := a.run.isSome && (a.block == .none || a.block == .yield)
/-- A wait of R85 that a slice end ends (R387). -/
def Agent.waits (a : Agent) : Bool :=
  match a.block with
  | .none | .handler | .yield | .stopped | .replay | .save => false
  | _ => true
/-- Whether the run in progress has issued its FLASH and no more (R387). -/
def Agent.atFlash (a : Agent) : Bool :=
  match a.run with
  | some r => r.idx == 1 && (r.words.take 1).any isFlash
  | none => false
/-- Whether a slice end stops the agent here (R387): blocked, at a boundary and rewindable or bound to a full save, or
just past a FLASH that has taken effect. -/
def Agent.stopsHere (a : Agent) : Bool :=
  a.sliceEnd && !a.stopped && (a.waits || (a.run.isNone && (a.mustStop || a.rewindable)) || (a.rewindable && a.atFlash))

/-! The scheduler (R86). -/

/-- A ready run: its gang's key, the slot, its wait, the gang's age, whether its slot was selected last. -/
structure Cand where
  key : Nat
  which : Bool
  wait : Nat
  age : Nat
  same : Bool
  deriving DecidableEq, Repr

def posOf (k : Nat) : Nat := k % 64 % 12

/-- The ready runs of a scheduler's gangs. `late` are slots whose next run is not fetched and decoded yet (R85). Runs issue whole and
in the order of R86; a word that reads lanes of the other slot's mask sees the runs issued before its own, and which those are
turns on when each run came to be fetched: no more is fixed (R148, log 68). -/
def State.readyRuns (s : State) (late : List (Nat × Bool)) (gs : List (Nat × Agent)) : List Cand :=
  gs.flatMap fun p => [false, true].filterMap fun w =>
    if s.slotReady p.1 p.2 w && !late.contains (p.1, w) then
      some { key := p.1, which := w, wait := if w then p.2.wait1 else p.2.wait0, age := p.2.age, same := p.2.last == w }
    else none

/-- Places ahead of the rotating pointer. -/
def distance (ptr k : Nat) : Nat := (posOf k + 12 - ptr) % 12
/-- Whether x goes before y: promoted by the longest wait, else by age; then the pointer; then the other slot. DESIGN CHOICE (log 76):
R86 names no tie-break for two promoted slots of one gang of equal wait, which the pointer over gangs cannot decide; the slot not last
selected goes first then too. -/
def Cand.before (ptr : Nat) (x y : Cand) : Bool :=
  let px := decide (64 < x.wait)
  let py := decide (64 < y.wait)
  if px != py then px
  else if px && x.wait != y.wait then decide (y.wait < x.wait)
  else if !px && x.age != y.age then decide (x.age < y.age)
  else if x.key != y.key then decide (distance ptr x.key < distance ptr y.key)
  else !x.same
def bestCand (ptr : Nat) : List Cand → Option Cand
  | [] => none
  | c :: cs => match bestCand ptr cs with
    | none => some c
    | some b => if Cand.before ptr b c then some b else some c

/-- What a selection does to a gang's slots: the selected slot's wait restarts, a ready one not selected counts, a
slot with no ready run restarts; another gang's selection ends a YIELD's hold (R101). -/
def Agent.counted (ready : List Cand) (c : Cand) (k : Nat) (a : Agent) : Agent :=
  let w (which : Bool) (n : Nat) : Nat :=
    if c.key = k ∧ c.which = which then 0
    else if ready.any fun r => r.key == k && r.which == which then n + 1 else 0
  { a with wait0 := w false a.wait0, wait1 := w true a.wait1,
           which := if c.key = k then c.which else a.which,
           last := if c.key = k then c.which else a.last,
           block := if a.block = .yield && c.key != k then .none else a.block }
def setNth (l : List Nat) (i v : Nat) : List Nat := l.zipIdx.map fun p => if p.2 = i then v else p.1
def State.selected (s : State) (q sch : Nat) (gs : List (Nat × Agent)) (ready : List Cand) (c : Cand) : State :=
  let s := gs.foldl (fun s p => s.setAgent p.1 (p.2.counted ready c p.1)) s
  let x := s.quad q
  s.setQuad q { x with ptr := setNth x.ptr sch ((posOf c.key + 1) % 12), last := setNth x.last sch (posOf c.key + 1) }

/-- The selected slot meets a parked load's trap due (R376), or enters its run. -/
def enterSlot (ex : Instr → State → Res) (k : Nat) (s : State) : Res :=
  match s.agent? k with
  | none => .next s
  | some a => match s.boundaryTrap k (a.dropGone k) with
    | some s => .next s
    | none => issue ex k (s.setAgent k (a.dropGone k))

/-- Every YIELD of a scheduler that has found no ready run ends (R101). -/
def endYields (gs : List (Nat × Agent)) : List (Nat × Agent) :=
  gs.map fun p => if p.2.block = .yield then (p.1, { p.2 with block := .none }) else p

/-- The next run. With none ready, every wait restarts (R85). -/
def selectRun (ex : Instr → State → Res) (q sch : Nat) (late : List (Nat × Bool)) (gs : List (Nat × Agent)) (s : State) : Res :=
  let ptr := ((s.quad q).ptr.drop sch).headD 0
  let go (gs : List (Nat × Agent)) (s : State) : Option Res :=
    let ready := s.readyRuns late gs
    (bestCand ptr ready).map fun c => enterSlot ex c.key (s.selected q sch gs ready c)
  match go gs s with
  | some r => r
  | none => match go (endYields gs) s with
    | some r => r
    | none => .next ((endYields gs).foldl (fun s p => (s.setAgent p.1 p.2).restartWaits p.1) s)

/-- A blocked gang whose word can now complete, or traps, or has a slot's reload begun (R178), takes the datapath. -/
def pollBlocked (ex : Instr → State → Res) : List (Nat × Agent) → State → Option Res
  | [], _ => none
  | p :: ps, s =>
    match issue ex p.1 s with
    | .next t => if (t.agent? p.1).any (fun b => b.block == p.2.block && b.run == p.2.run) && (t.quad (quadOf p.1)).reloading == (s.quad (quadOf p.1)).reloading then pollBlocked ex ps s else some (.next t)
    | _ => pollBlocked ex ps s

/-- The gang whose run is in progress: the one selected last, or one whose wait has ended. -/
def currentGang (last : Nat) (gs : List (Nat × Agent)) : Option Nat :=
  let runs := gs.filter fun p => p.2.running
  match runs.find? fun p => posOf p.1 + 1 == last with
  | some p => some p.1
  | none => runs.head?.map (·.1)

/-- A TBAR whose generation has completed returns before its gang stops; the arrival of one that has not is undone, for the
gang's run restarts (R303). -/
def State.tbarMet (s : State) (a : Agent) : Bool :=
  match a.block, s.team? a.team with
  | .tbar g, some t => decide (g < t.tbarGen)
  | _, _ => false
def State.undoArrival (s : State) (a : Agent) : State :=
  match a.block with
  | .tbar _ => s.modTeam a.team fun t => { t with tbarArr := t.tbarArr - 1 }
  | _ => s

/-- An agent stops for a save; its run restarts, and a parked load's trap due at that boundary comes first (R376). -/
def State.stopAgent (s : State) (k : Nat) (a : Agent) : State :=
  let s := s.undoArrival a
  match s.boundaryTrap k ({ a.stopNow with block := .none, stopped := false }.dropGone k) with
  | some t => t
  | none => s.setAgent k a.stopNow

/-- One move of a scheduler; the next runs of the slots of `late` are not fetched and decoded yet. -/
def schedMove (ex : Instr → State → Res) (q sch : Nat) (late : List (Nat × Bool)) (s : State) : Res :=
  let gs := s.gangsAt q sch
  match gs.find? fun p => p.2.stopsHere with
  | some p => if s.tbarMet p.2 then issue ex p.1 s else .next (s.stopAgent p.1 p.2)
  | none => match currentGang (((s.quad q).last.drop sch).headD 0) gs with
    | some k => issue ex k s
    | none => match pollBlocked ex (gs.filter fun p => p.2.run.isSome && !p.2.running) s with
      | some r => r
      | none => selectRun ex q sch late gs s

/-- One move of a sequencer: its runs in order (R87). -/
def seqMove (ex : Instr → State → Res) (k : Nat) (s : State) : Res :=
  match s.agent? k with
  | none => .next s
  | some a =>
    if a.stopsHere then .next (s.stopAgent k a)
    else if a.stopped || a.ended || a.restoring || s.frozenCtx a.ctx then .next s
    else if a.run.isSome then issue ex k s
    else if a.block == .slot then .next s
    else enterSlot ex k s

/-! The part as a whole. -/

/-- Whether an instruction is a word of an agent's run, and not one of the part's other steps. -/
def isWord (i : Instr) : Bool := (encode i).isSome

def doMove (ex : Instr → State → Res) (m : Move) (s : State) : Res :=
  match m with
  | .sched q sch => schedMove ex q sch [] s
  | .late q sch slots => schedMove ex q sch slots s
  | .fetch k pc => .next (s.fetchAhead k pc)
  | .seq q d => seqMove ex (if d then dseqOf q else mseqOf q) s
  | .event i => if isWord i then .fault .notEnabled else ex i s

/-- The bytes of a lane's element that may be performed ahead of the rest (R277). -/
def Access.bytesLeft (x : Access) (i : Nat) : List (Option Nat) :=
  match x.lanes.find? fun l => l.lane == i with
  | some l => if x.whole l then [] else ((List.range (byteSpan l.bit x.width)).filter fun j => !l.done j).map some
  | none => []

/-- The steps an agent's accesses and commands have still to take, oldest first (R248, R272, R287, R318). -/
def accessEvents (k : Nat) (a : Agent) : List Instr :=
  (a.accs.flatMap fun x =>
    ((lanesOf x.todo).flatMap fun i => (none :: x.bytesLeft i).flatMap fun b => [Instr.cgAccess k x.id ⟨i, b⟩, Instr.hubAccess k x.id ⟨i, b⟩]) ++
    (if x.todo = 0 && x.pend != 0 then [if x.isWrite then Instr.storeAck k x.id else Instr.loadValueReturn k x.id] else [])) ++
  ((a.cmds.filter fun c => c.fault.isNone).flatMap fun c => (none :: c.left.map some).flatMap fun p => [Instr.copyComplete k ⟨c.id, p⟩, Instr.copyFault k ⟨c.id, p⟩])
def quadEvents (s : State) (q : Nat) (x : Quad) : List Instr :=
  (x.queue.zipIdx.flatMap fun c => Instr.matrixCmdComplete ⟨q, c.2, none⟩ :: (s.matrixPlaces q c.1).map fun o => Instr.matrixCmdComplete ⟨q, c.2, some o⟩) ++
  x.jobs.map (fun j => Instr.sloadComplete q j.ctx j.slot) ++
  x.reloading.map (fun c => Instr.slotReload q (c / 16) (c % 16))
/-- The start-up, then what is in flight. -/
def flightEvents (s : State) : List Instr :=
  (match s.mgmt.boot with
    | .off => [Instr.packageReset]
    | .selftest => [Instr.startedMark]
    | _ => []) ++
  (s.agents.flatMap fun p => accessEvents p.1 p.2) ++ s.quads.flatMap fun p => quadEvents s p.1 p.2

/-- The dispatch hardware's steps. -/
def dispatchEvents (s : State) : List Instr :=
  s.teams.map (fun p => Instr.teamRecordWrite p.1) ++ s.teams.map (fun p => Instr.teamRetire p.1) ++
  s.grids.map (fun p => Instr.gridRetire p.1) ++ s.quads.map (fun p => Instr.teamAdmit p.1) ++
  s.ctxs.flatMap fun p => p.2.boxes.map fun b => Instr.kickPoll p.1 b.1

/-- An ORDER for a new record of a grid, where the order of R361 and R365 puts it. -/
def State.orderFor (s : State) (q h : Nat) (g : Grid) (reload : Bool) : Nat :=
  match s.orderRange (s.quad q) h g reload with
  | (lo, none) => (lo / 64 + 1) * 64
  | (lo, some hi) => (lo + hi) / 2
/-- Placements a pass may make on its own: each grid's next teams on each quadrant of its logical device. -/
def plansOf (s : State) : List BindPlan :=
  s.grids.flatMap fun p =>
    (s.ldQuads (p.2.ctx / 16) (p.2.queue / 16)).flatMap fun q =>
      (p.2.reload.map fun r => { handle := p.1, quad := q, first := r.1, count := 1, order := s.orderFor q p.1 p.2 true }) ++
      if p.2.bound < p.2.nteams then
        [{ handle := p.1, quad := q, first := p.2.bound, count := p.2.nteams - p.2.bound, order := s.orderFor q p.1 p.2 false }] else []
def passEvents (s : State) : List Instr := (plansOf s).map (fun b => Instr.matinsPass [b]) ++ [Instr.matinsPass []]

/-- The first of a list of steps that changes the state. -/
def firstChange (run : State → Res) (s : State) : Option Res :=
  match run s with
  | .next t => if t = s then none else some (.next t)
  | _ => none
def firstMove (ex : Instr → State → Res) (s : State) : List Move → Option Res
  | [] => none
  | m :: ms => match firstChange (doMove ex m) s with
    | some r => some r
    | none => firstMove ex s ms

/-- The schedulers and sequencers of the quadrants with agents, from the one whose turn it is. -/
def agentMoves (s : State) : List Move :=
  let qs := ((s.agents.filter fun p => p.1 < orphanBase).map fun p => quadOf p.1).eraseDups
  let ms := qs.flatMap fun q => [.sched q 0, .sched q 1, .sched q 2, .sched q 3, .seq q false, .seq q true]
  let n := s.turn % max 1 ms.length
  ms.drop n ++ ms.take n

/-- With nothing laid down: what is in flight, then an agent in turn, then dispatch, then a pass of Matins. A part
that can do nothing stays as it is. -/
def autoMove (ex : Instr → State → Res) (s : State) : Res :=
  match firstMove ex s ((flightEvents s).map .event) with
  | some r => r
  | none => match firstMove ex { s with turn := s.turn + 1 } (agentMoves s) with
    | some r => r
    | none => match firstMove ex s ((dispatchEvents s ++ passEvents s).map .event) with
      | some r => r
      | none => .next s

/-- One step of the part: the move laid down for it, or the next of its own. -/
def planned (ex : Instr → State → Res) (s : State) : Res :=
  match s.agenda with
  | m :: ms => doMove ex m { s with agenda := ms }
  | [] => autoMove ex s

/-! A program's word placed for the next step (the interface's withFetchWord; log entry 1). -/

/-- The state with partition 0, context 0, a grid and a team of one gang on quadrant 0, in normal service. -/
def placedBase (s : State) (seq : Bool) (a : Agent) : State :=
  let key := if seq then 48 else 0
  let shape : KRec := { entry := 0x1000, gangs := 1, regs := 64, engines := true, lsgran := 1, bars := 1, cmem := 4096, rcps := [0] }
  let grid : Grid :=
    { ctx := 0, krec := 0, shape, args := 0, nteams := 1, depth := 0, parent := none, parentTeam := none, queue := 0, pri := 0,
      cor := false, j := false, reserve := false, order := 0, waits := [], done := 0, err := 0, errRec := none, bound := 1,
      retiredTeams := 0, saved := [], reload := [], kept := [], held := [], stuck := 0, st := .running }
  let team := { newTeam grid 1 0 0 shape 0 [0] with keys := [0], mRun := seq }
  { s with
    cur := key
    agenda := [if seq then .seq 0 false else .sched 0 0]
    mgmt := { s.mgmt with boot := .service, mode := .normal }
    grids := [(1, grid)], nextGrid := 2
    teams := [(1, team)], nextTeam := 2
    agents := [(key, a)], nextAgent := 1 }

def placedAgent (run : Option RunBuf) : Agent :=
  { Agent.start with
    team := 1, grid := 1, regs := 64, age := 1, run,
    slot0 := { pc := 0x1000, mask := BitVec.allOnes 32, rcv := none, st := .run } }

/-- The words NOP and an empty trailer. -/
def nopWord : Dword := 0x22E0000000180000#64
def emptyTrailer : Dword := 0xFC00000000000000#64

/-- A word as the part's memory holds it: little-endian (R1). -/
def placedRun (words : List Dword) (idx : Nat) : Option RunBuf :=
  some { header := 0x1000, words := words.map fun w => wordOfBytes (bytesOfWord w), idx, flow := .fall, noreuse := false, stalled := false, fallback := false }

/-- A space whose one page of 64 KiB at 0 holds a run's bytes at 0x1000: its path of tables and its leaf. -/
def placedSpace (s : State) (bytes : List Byte) : State :=
  let ptr (a : Nat) : Nat := 1 + a / 4096 * 2 ^ 16
  let leaf : Nat := 1 + 2 + 0x3C
  let tables := [(0x1000, ptr 0x2000), (0x2000, ptr 0x3000), (0x3000, ptr 0x4000), (0x4000, ptr 0x5000), (0x5000, leaf)]
  let sysm := tables.foldl (fun (m : Memory) (t : Nat × Nat) => m.writeNat t.1 8 t.2) s.sysm
  let sp : Space := { root := 0x1000, seed := 0, dies := [0], owner := 0, shared := false, resBase := 0, nrp := 0, ctx := 0 }
  let ctx : Ctx :=
    { sid := 0, attached := [], vf := none, hvec := 0x2000, shvec := 0x3000, resident := 0, caps := [], boxes := [], rx := [],
      early := [], expect := [], gaps := [], colls := [], serial := 0, groupNext := [], saveBase := 0, compline := 0, complineLen := 0,
      complineUsed := 0, refill := 0, tokens := 0, loan := 0, debt := 0, standing := [], sbDev := 0, launchOrder := 0, used := [],
      active := false, spare := 0, frozen := false, halted := false }
  let c := routeCg sp 0x1000
  { s.setAccess 0 0x83 with
    sysm, spaces := [(0, sp)], ctxs := [(0, ctx)]
    dmem := s.dmem.writeBytes (devKey 0 0x1000) bytes }.setCg c { s.cg c with chunks := [(chunkKey 0 0x1000, { gran := 0, frame := 0, moved := false })], nextFrame := 1 }

/-- The state whose next step runs the word: in the run buffer of a gang, or of the MSEQ for opcode 0x4C; a header in
memory at the gang's PC, its body words zero and its trailer empty. -/
def State.placeWord (s : State) (w : Dword) : State :=
  match opcOf w with
  | 0x7F =>
    let body := List.replicate (8 * (bits w 52 5).toNat) 0#8
    placedSpace (placedBase s false (placedAgent none)) (bytesOfWord w ++ body ++ bytesOfWord emptyTrailer)
  | 0x7E => placedSpace (placedBase s false (placedAgent (placedRun [nopWord, w] 1))) []
  | 0x4C => placedSpace (placedBase s true (placedAgent (placedRun [w, emptyTrailer] 0))) []
  | _ => placedSpace (placedBase s false (placedAgent (placedRun [w, emptyTrailer] 0))) []

end Sys2Proof.Machine
end

