-- ==== Sys2Proof/Machine/Step.lean ====
section
/-! DEFINITION. The step of the machine, and a word placed for the next step. -/

namespace Sys2Proof.Machine

/-- One step: the part's next move, its words executed by exec. -/
def step (s : State) : Host.Outcome State Fault Refusal := planned exec s

/-- s with the instruction whose bits are w placed where the next step takes it: a run's word in the run buffer of an
issuing agent, a header in memory at a gang's PC. Log entry 1 says how a program comes to run from reset. -/
def State.withFetchWord (s : State) (nbits w : Nat) : State := s.placeWord (BitVec.ofNat 64 (w % 2 ^ nbits))

end Sys2Proof.Machine
end

