-- ==== Sys2Proof/WellFormed.lean ====
section
/-! DEFINITION. Which terms of Instr are instructions: those some word of R30 encodes. A field outside its row's
limits, an odd pair, or a width an entry does not take makes a term ill-formed; the steps that are no words
carry no such limits. -/

namespace Sys2Proof

/-- A predicate destination: p0 to p6 or q0 to q6 (R96, R136). -/
def predDst (d : PNum) : Bool := d != 7#3
/-- A scope code 0 to 5 (R276). -/
def scopeOk (s : BitVec 3) : Bool := s ≤ 5#3
def scopeOpt : Option (BitVec 3) → Bool
  | some s => scopeOk s
  | none => true
/-- A matrix command's arrival: scope 1 or 2 (R217). -/
def arriveOk : Option Arrive → Bool
  | some a => a.scope == 1 || a.scope == 2
  | none => true
/-- A scope stands only beside a flag that uses it, and an arrival's is at least 1 (R312). -/
def xOrdOk (o : XOrd) (arr notify : Bool) : Bool :=
  scopeOk o.scope && (o.scope == 0 || o.acq || o.rel || arr || notify) && !(arr && !notify && o.scope == 0)
/-- An ordering has a scope, and none has scope 0 (R30). -/
def aOrdOk (o : AOrd) : Bool := scopeOk o.sc && (o.acq || o.rel || o.sc == 0)
/-- The base pair and the policy register of an access (R33, R267). -/
def baseOk (base : SReg) : Bool := even base
def polOk (pol : SReg) (cm : Bool) : Bool := !cm || pol == 0
/-- An ordered access is 32 bits wide (R267). -/
def ewOk (ew : BitVec 5) (o : Option (BitVec 3)) : Bool := ew != 0 && scopeOpt o && (o.isNone || ew == 31)
/-- The fields of FLASH (R38). -/
def flashOk (nv : BitVec 3) (a0 a1 a2 a3 : BitVec 8) (sb4 : BitVec 7) (ns : BitVec 5) : Bool :=
  nv ≤ 4#3 && ns ≤ 16#5 && decide (4 * sb4.toNat + ns.toNat ≤ 494) &&
  (nv > 0#3 || a0 == 0) && (nv > 1#3 || a1 == 0) && (nv > 2#3 || a2 == 0) && (nv > 3#3 || a3 == 0)
def qopOk : QOp → Bool
  | .and d _ _ | .or d _ _ | .xor d _ _ | .andn d _ _ => predDst d
  | .not d _ | .mov d _ | .any d _ | .all d _ => predDst d
  | .set d | .clr d | .froms d _ => predDst d
  | .tos _ _ => true
def popOk : POp → Bool
  | .and d _ _ | .or d _ _ | .xor d _ _ | .andn d _ _ => predDst d
  | .not d _ | .mov d _ => predDst d
  | .set d | .clr d | .fromv d _ => predDst d
  | .tov _ _ => true
/-- A raw drain takes no rounding, saturation or integer form (R226). -/
def drainOk (slot : BitVec 4) (rm : BitVec 2) (sat i32 : Bool) : Bool := slot != 0 || (rm == 0 && !sat && !i32)
def finOk : XDone → Bool
  | .notify r => even r
  | _ => true
/-- The assignments a trailer uses, and zeros in the others (R36). -/
def trailOk (na : BitVec 3) (a0 a1 a2 a3 : BitVec 12) : Bool :=
  na ≤ 4#3 && (if na > 0#3 then asgOk a0 else a0 == 0) && (if na > 1#3 then asgOk a1 else a1 == 0) &&
  (if na > 2#3 then asgOk a2 else a2 == 0) && (if na > 3#3 then asgOk a3 else a3 == 0)

def wellFormed : Instr → Bool
  | .scmp _ _ d _ _ => predDst d
  | .slea _ _ d a _ => even d && even a
  | .slih _ d _ => even d
  | .qop _ op => qopOk op
  | .swr _ n _ => n.writable
  | .call _ _ l => even l && l != 0
  | .ret _ l => even l && l != 0
  | .loop _ _ c => c != 0
  | .flash nv a0 a1 a2 a3 sb4 ns _ => flashOk nv a0 a1 a2 a3 sb4 ns
  | .growB _ m => m == 1 || m == 2 || m == 4
  | .growT _ d m => predDst d && m != 0
  | .shrink _ m => m != 0
  | .vcmp _ _ _ d _ _ => predDst d
  | .plop _ _ op => popOk op
  | .vvote _ _ _ d _ => predDst d
  | .vcmpImm _ _ _ d _ _ => predDst d
  | .fcmp _ _ _ _ d _ _ => predDst d
  | .sload _ slot desc _ => slot != 0 && even desc
  | .mloadw _ _ desc _ arr => even desc && arriveOk arr
  | .mloadws _ _ _ desc _ arr => even desc && arriveOk arr
  | .mstream _ _ _ _ desc _ arr => even desc && arriveOk arr
  | .mswap _ arr => arriveOk arr
  | .mdrain _ slot rm sat i32 desc _ arr => even desc && arriveOk arr && drainOk slot rm sat i32
  | .ld _ _ _ _ base pol ew acq cm => baseOk base && polOk pol cm && ewOk ew acq
  | .st _ _ _ _ base pol ew rel cm => baseOk base && polOk pol cm && ewOk ew rel
  | .ldc _ _ _ base pol acq cm => baseOk base && polOk pol cm && scopeOpt acq
  | .stc _ _ _ base pol rel cm => baseOk base && polOk pol cm && scopeOpt rel
  | .ldl _ _ _ _ base ew => baseOk base && ew != 0
  | .stl _ _ _ _ base ew => baseOk base && ew != 0
  | .sld _ _ _ _ base pol ew acq cm => baseOk base && polOk pol cm && ewOk ew acq
  | .sst _ _ _ _ base pol ew rel cm => baseOk base && polOk pol cm && ewOk ew rel
  | .pref _ _ _ base _ ew => baseOk base && ew != 0
  | .evict _ _ _ base ew => baseOk base && ew != 0
  | .fence _ acq rel scope => scopeOk scope && (acq || rel)
  | .tbar _ scope => scopeOk scope && scope != 0
  | .rdv _ scope => scopeOk scope && scope != 0
  | .atom _ _ op w d _ base pol ord cm => op < 0xC#4 && atomAccepts op w && atomAligned w d && baseOk base && polOk pol cm && aOrdOk ord
  | .atomn _ _ op w y _ base pol rel cm =>
    op < 0xC#4 && atomAccepts op w && (w != .a64 || evenOperand y) && baseOk base && polOk pol cm && scopeOpt rel
  | .acas _ _ w d _ base pol ord cm => acasAccepts w && acasAligned w d && baseOk base && polOk pol cm && aOrdOk ord
  | .boarr _ _ _ _ _ scope => scopeOk scope
  | .bowait _ _ _ scope => scopeOk scope
  | .botest _ _ _ _ scope => scopeOk scope
  | .xcopy _ _ _ ord fin => xOrdOk ord fin.isArrive fin.isNotify && finOk fin
  | .xwait _ _ scope => scopeOk scope
  | .xtest _ _ _ scope => scopeOk scope
  | .xfill _ dst _ _ ord arr => even dst && xOrdOk ord arr.isSome false
  | .xclone _ dst src _ ord arr => even dst && even src && xOrdOk ord arr.isSome false
  | .xpurge _ start _ _ scope => even start && scopeOk scope
  | .chsend _ src _ _ _ rel => even src && scopeOpt rel
  | .chrecv _ dst _ _ _ acq => even dst && scopeOpt acq
  | .chgrantWrite _ _ _ img _ => even img
  | .chgrantRevoke _ _ _ img _ => even img
  | .chgrantBind _ _ _ img _ => even img
  | .collr _ _ _ _ ord arr => xOrdOk ord arr false
  | .collg _ _ _ _ ord arr => xOrdOk ord arr false
  | .collb _ _ _ _ ord arr => xOrdOk ord arr false
  | .collq _ _ _ acq => scopeOpt acq
  | .launch _ _ _ dsts => even dsts
  | .ctxsave _ desc _ => even desc
  | .ctxload _ desc _ => even desc
  | .run len _ _ => len != 0 && len ≤ 24#5
  | .trail na a0 a1 a2 a3 => trailOk na a0 a1 a2 a3
  | .sadd .. | .ssub .. | .smul .. | .smulh .. | .sdiv .. | .smod .. | .sand .. | .sor .. | .sxor ..
  | .sandn .. | .sshl .. | .sshr .. | .ssra .. | .srot .. | .smin .. | .smax .. | .ssel .. | .smov ..
  | .saddc .. | .sclz .. | .spopc .. | .sbfe .. | .sbfi .. | .sli .. | .srd .. | .bra .. | .brq .. | .brv ..
  | .exit .. | .endGang .. | .yield .. | .nop .. | .vrdi .. | .vwri .. | .vadd .. | .vsub .. | .vmul ..
  | .vmulh .. | .vmad .. | .vadds .. | .vsubs .. | .vabs .. | .vneg .. | .vmin .. | .vmax .. | .vdot4 ..
  | .vsad .. | .vand .. | .vor .. | .vxor .. | .vandn .. | .vnot .. | .vshl .. | .vshr .. | .vsra .. | .vrot ..
  | .vclz .. | .vpopc .. | .vbfe .. | .vbfi .. | .vbrev .. | .vsel .. | .vmov .. | .vbcast .. | .vlane ..
  | .vext .. | .vpack .. | .pcnt .. | .pfirst .. | .vperm .. | .vpush .. | .vswz .. | .vmatch .. | .vred ..
  | .vscan .. | .vballot .. | .vaddImm .. | .vsubImm .. | .vmulImm .. | .vaddsImm .. | .vsubsImm ..
  | .vminImm .. | .vmaxImm .. | .vandImm .. | .vorImm .. | .vxorImm .. | .vandnImm .. | .vshlImm ..
  | .vshrImm .. | .vsraImm .. | .vrotImm .. | .vmovImm .. | .fadd .. | .fsub .. | .fmul .. | .ffma ..
  | .fmin .. | .fmax .. | .fclass .. | .frnd .. | .fscale .. | .fcvt .. | .fcvti .. | .icvtf .. | .frcp ..
  | .frsq .. | .fsqrt .. | .fexp2 .. | .flog2 .. | .fsin .. | .fcos .. | .ftanh .. | .fdot .. | .fmxq ..
  | .fmxe .. | .sfence .. | .sdesc .. | .mflip .. | .mclear .. | .mfuse .. | .msplit .. | .mwait ..
  | .accspill .. | .accfill .. | .mreadv .. | .wstc .. | .boinit .. | .xclose .. | .xlease .. | .chpoll ..
  | .chcap .. | .chkey .. | .ljoin .. | .fork .. | .mbrecv .. | .mbsend .. | .trap .. | .eret .. | .replay ..
  | .loadValueReturn .. | .parkedLoadTrap .. | .storeAck .. | .cgAccess .. | .throttleWindowEnd ..
  | .hubAccess .. | .leaseExpiry .. | .copyComplete .. | .copyFault .. | .bowaitWake .. | .matrixCmdComplete ..
  | .sloadComplete .. | .slotReload .. | .matinsPass .. | .pdlExpiry .. | .teamRecordWrite .. | .teamAdmit ..
  | .teamRetire .. | .gridRetire .. | .contextCreate .. | .spaceCreate .. | .spaceDestroy ..
  | .partitionConfigure .. | .trustKeyRemove .. | .tenantReset .. | .kick .. | .kickPoll ..
  | .hostRingCfgWrite .. | .standingBindRequest .. | .registerWrite .. | .bootctlReset | .packageReset
  | .startedMark | .startTimeout .. | .getVersion | .getCapabilities | .negotiateAlgorithms | .getDigests
  | .getCertificate | .challenge .. | .getMeasurements .. | .vendorDefinedRequest .. | .firmwareSwap ..
  | .swapTimeout | .slotScrub .. | .hbmRecalibration .. | .linkRecalibration .. | .quadrantRetirement ..
  | .cgRetirement .. | .powerLimit .. | .thermalTrip | .portReassign .. | .packetReceive .. | .messageSkip ..
  | .keyRenewal .. | .chkeyTimeout .. | .collDeadline .. | .collNoResultTimeout .. | .functionLevelReset ..
  | .contextDestroy .. | .hostStopRequest .. | .sharedSpaceAttach .. | .partitionCreate .. | .partitionReset ..
  | .retryRound .. => true

end Sys2Proof
end

