-- ==== Sys2Proof/Safety.lean ====
section
/-! DEFINITION. The terms claims use: when a word runs with nothing to wait for and no trap due, what an effect leaves
alone, and the invariants every step keeps. -/

namespace Sys2Proof.Machine

/-! When a word runs. A code is R32's for a vector register, 512 + n for uniform register n. -/

/-- No register a word reads or writes awaits a result, and none it reads awaits a parked load (R37, R376). -/
abbrev Agent.clear (a : Agent) (reads writes : List Nat) : Prop :=
  (∀ c ∈ reads ++ writes, a.busy c = false) ∧ ∀ c ∈ reads, a.parkedOn c = none

/-- A uniform word meets no wait and no trap before its predicate: the issuer may execute it (R46), the mode may write
its destinations (R49, R73), and its registers are clear. -/
abbrev UniClear (who : Who) (sv : Bool) (dsts reads : List Nat) (s : State) (a : Agent) : Prop :=
  s.agent? s.cur = some a ∧ who.admits s.cur = true ∧ (a.sv = true ∨ (sv = false ∧ ∀ n ∈ dsts, n < 496)) ∧
  a.clear (reads.map sCode) (dsts.map sCode)

/-- And its predicate holds (R29). -/
abbrev UniReady (who : Who) (sv : Bool) (dsts : List Nat) (p : Pred) (reads : List Nat) (s : State) (a : Agent) : Prop :=
  UniClear who sv dsts reads s a ∧ a.holds p = true

/-- A vector word meets no wait and no trap before its lanes: a gang issues it (R49), the registers it names lie in
its blocks (R107), and its registers are clear. -/
abbrev VecClear (reads writes named : List Nat) (s : State) (a : Agent) : Prop :=
  s.agent? s.cur = some a ∧ isSeq s.cur = false ∧ (∀ n ∈ named, a.hasV n = true) ∧ a.clear reads writes

/-- And some lane is active (R29). -/
abbrev VecReady (p : Pred) (reads writes named : List Nat) (s : State) (a : Agent) : Prop :=
  VecClear reads writes named s a ∧ a.active p ≠ 0

/-- The agent without the parked loads of its own run whose destination a word writes (R376). -/
def Agent.discard (a : Agent) (writes : List Nat) : Agent :=
  { a with accs := a.accs.filter fun x => !x.overwrittenBy a.runs writes }

/-! What an effect leaves alone. -/

/-- Every byte of every memory reads as before. -/
def SameMemory (s t : State) : Prop :=
  (∀ n, t.dmem.read n = s.dmem.read n) ∧ (∀ n, t.hmem.read n = s.hmem.read n) ∧ (∀ n, t.sysm.read n = s.sysm.read n) ∧
  (∀ n, t.cmem.read n = s.cmem.read n) ∧ (∀ n, t.lmem.read n = s.lmem.read n) ∧ ∀ n, t.savm.read n = s.savm.read n

/-- Every agent but one is as before. -/
def SameOthers (s t : State) (k : Nat) : Prop := ∀ j, j ≠ k → t.agent? j = s.agent? j

/-- Every s register, q and p predicate of an agent is as before. -/
def SameUniform (a b : Agent) : Prop := ∀ n, b.s n = a.s n
def SamePreds (a b : Agent) : Prop := (∀ n, b.q n = a.q n) ∧ ∀ n, b.p n = a.p n
/-- Every v register and temporary of an agent is as before. -/
def SameVectors (a b : Agent) : Prop := (∀ n, b.v n = a.v n) ∧ ∀ n, b.t n = a.t n
/-- The mode, the trap frame, the slots and the divergence stack are as before (R79, R370, R372). -/
def SamePlace (a b : Agent) : Prop :=
  b.sv = a.sv ∧ b.frame = a.frame ∧ b.slot0 = a.slot0 ∧ b.slot1 = a.slot1 ∧ b.which = a.which ∧ b.stack = a.stack

/-- Of the whole state, only the issuing agent, the value store and reuse table of its quadrant (R110, R115) and the
place of the free choices may differ. -/
def OnlyAgent (s t : State) (k : Nat) : Prop :=
  t = { s with agents := t.agents, quads := t.quads, fresh := t.fresh } ∧ SameOthers s t k ∧
  (∀ q, q ≠ quadOf k → t.quad q = s.quad q) ∧
  t.quad (quadOf k) = { s.quad (quadOf k) with
    vs := (t.quad (quadOf k)).vs, vclock := (t.quad (quadOf k)).vclock, rt := (t.quad (quadOf k)).rt }

/-- Agent a's vector word has completed in t: the active lanes of d hold f's values and its other lanes what they held
(R108), fl's flags are set, and nothing else has changed but the count of retired words and the place in the run; a reuse
hit counts (R120). -/
def VecDone (s t : State) (a : Agent) (act : Mask) (d : VDst) (f : Nat → Word) (fl : Flags) : Prop :=
  OnlyAgent s t s.cur ∧ ∃ b, t.agent? s.cur = some b ∧
    b = { (a.discard [vdstCodeOf d]).retire with
      vreg := b.vreg, temps := b.temps, names := b.names, reused := b.reused, flags := a.flags ||| fl } ∧
    (b.reused = a.reused ∨ b.reused = a.reused + 1) ∧
    (∀ i, i < 32 → b.lane (VDst.src d) i = if act.getLsbD i then f i else a.lane (VDst.src d) i) ∧
    (∀ n, vdstCodeOf d ≠ vCode n → b.v n = a.v n) ∧ ∀ n, vdstCodeOf d ≠ tCode n → b.t n = a.t n

/-! Invariants. -/

/-- Every memory is in its canonical form: rising addresses, no entry equal to what an unlisted byte reads as. -/
abbrev MemoriesWf (s : State) : Prop :=
  s.dmem.wf = true ∧ s.hmem.wf = true ∧ s.sysm.wf = true ∧ s.cmem.wf = true ∧ s.lmem.wf = true ∧ s.savm.wf = true
/-- And so are the mailbox slots of every virtual function, and the firmware window. -/
abbrev WindowsWf (s : State) : Prop := (∀ p ∈ s.vfs, p.2.slots.wf = true) ∧ s.mgmt.fwwin.wf = true

end Sys2Proof.Machine
end

