-- ==== Sys2Proof/Certificates/Slice0/Obligations.lean ====
section
/-! DEFINITION. The statements of the DXC-4840 model, one def each, with the manual's values they compare against
written beside them. -/

/-! The manual's result values, on numbers and words (R89 to R96). -/

namespace Sys2Proof.Spec
open Sys2Proof.Machine

/-- The word of an unbounded integer: its value mod 2^32. -/
def mod32 (x : Int) : Word := BitVec.ofInt 32 x
/-- The numbers a word stands for, signed or unsigned. -/
def num (z : Bool) (x : Word) : Int := if z then Int.ofNat x.toNat else x.toInt
/-- Bits [63:32] of the product of two 32-bit numbers (R89). -/
def highProduct (z : Bool) (x y : Word) : Word := mod32 (num z x * num z y / 4294967296)
/-- SDIV and SMOD with the corners of R90. -/
def quotient (z : Bool) (x y : Word) : Word := if y = 0#32 then 0xFFFFFFFF#32 else mod32 ((num z x).tdiv (num z y))
def remainder (z : Bool) (x y : Word) : Word := if y = 0#32 then x else mod32 ((num z x).tmod (num z y))
/-- The word whose bit i is f i. -/
def bitsWord (f : Nat → Bool) : Word := maskFn f
/-- Shifts by an unsigned count, bit by bit: what comes from outside the word is zero, or the sign. -/
def shiftLeft (x y : Word) : Word := bitsWord fun i => decide (y.toNat ≤ i) && x.getLsbD (i - y.toNat)
def shiftRight (x y : Word) : Word := bitsWord fun i => x.getLsbD (i + y.toNat)
def shiftArith (x y : Word) : Word := bitsWord fun i => x.getLsbD (min 31 (i + y.toNat))
def rotateLeft (x y : Word) : Word := bitsWord fun i => x.getLsbD ((i + 32 - y.toNat % 32) % 32)
def lesser (z : Bool) (x y : Word) : Word := if num z x ≤ num z y then x else y
def greater (z : Bool) (x y : Word) : Word := if num z x ≤ num z y then y else x
/-- The conditions of R91. -/
def condition (c : BitVec 3) (x y : Word) : Bool :=
  match c.toNat with
  | 0 => decide (x = y)
  | 1 => decide (x ≠ y)
  | 2 => decide (num false x < num false y)
  | 3 => decide (num false y ≤ num false x)
  | 4 => decide (num true x < num true y)
  | 5 => decide (num true y ≤ num true x)
  | 6 => decide (x &&& y ≠ 0#32)
  | _ => decide (x &&& y = 0#32)
/-- SADDC: the carry, or the borrow (R92). -/
def carry (borrow : Bool) (x y : Word) : Word :=
  if (if borrow then num true x < num true y else 4294967296 ≤ num true x + num true y) then 1#32 else 0#32
/-- Leading zeros: 32 less the bits the number needs (R89). -/
def leadingZeros (x : Word) : Word := mod32 (32 - Int.ofNat (((List.range 33).find? fun n => decide (x.toNat < 2 ^ n)).getD 32))
def setBits (x : Word) : Word := mod32 (Int.ofNat ((List.range 32).countP fun i => x.getLsbD i))
/-- pos and len of a field operand (R94). -/
def pos (y : Word) : Nat := y.toNat % 32
def len (y : Word) : Nat := min (y.toNat / 32 % 64) 32
/-- SBFE: bit i of the field, above its length zero or its sign. -/
def extractField (z : Bool) (x y : Word) : Word :=
  bitsWord fun i => if i < len y then x.getLsbD (pos y + i) else !z && decide (0 < len y) && x.getLsbD (pos y + len y - 1)
/-- SBFI: bits pos to min(pos + len, 32) - 1 of the base take bits 0 upwards of x. -/
def insertField (base x y : Word) : Word :=
  bitsWord fun i => if pos y ≤ i ∧ i < min (pos y + len y) 32 then x.getLsbD (i - pos y) else base.getLsbD i
/-- The second operand of opcode 0x00: SB, or IMM15 sign-extended (R88). -/
def operandB (a : Agent) : UOp → Word
  | .reg r => a.s r.toNat
  | .imm i => mod32 i.toInt
def readsB : UOp → List Nat
  | .reg r => [r.toNat]
  | .imm _ => []

/-- The uniform words that write one s register: predicate, destination, the registers read, and the value (R89 to R96). -/
def uniformRow : Instr → Option (Pred × SReg × List Nat × (Agent → Word))
  | .sadd p d x y => some (p, d, x.toNat :: readsB y, fun a => mod32 (num true (a.s x.toNat) + num true (operandB a y)))
  | .ssub p d x y => some (p, d, x.toNat :: readsB y, fun a => mod32 (num true (a.s x.toNat) - num true (operandB a y)))
  | .smul p d x y => some (p, d, x.toNat :: readsB y, fun a => mod32 (num true (a.s x.toNat) * num true (operandB a y)))
  | .smulh p z d x y => some (p, d, x.toNat :: readsB y, fun a => highProduct z (a.s x.toNat) (operandB a y))
  | .sdiv p z d x y => some (p, d, x.toNat :: readsB y, fun a => quotient z (a.s x.toNat) (operandB a y))
  | .smod p z d x y => some (p, d, x.toNat :: readsB y, fun a => remainder z (a.s x.toNat) (operandB a y))
  | .sand p d x y => some (p, d, x.toNat :: readsB y, fun a => bitsWord fun i => (a.s x.toNat).getLsbD i && (operandB a y).getLsbD i)
  | .sor p d x y => some (p, d, x.toNat :: readsB y, fun a => bitsWord fun i => (a.s x.toNat).getLsbD i || (operandB a y).getLsbD i)
  | .sxor p d x y => some (p, d, x.toNat :: readsB y, fun a => bitsWord fun i => (a.s x.toNat).getLsbD i != (operandB a y).getLsbD i)
  | .sandn p d x y => some (p, d, x.toNat :: readsB y, fun a => bitsWord fun i => (a.s x.toNat).getLsbD i && !(operandB a y).getLsbD i)
  | .sshl p d x y => some (p, d, x.toNat :: readsB y, fun a => shiftLeft (a.s x.toNat) (operandB a y))
  | .sshr p d x y => some (p, d, x.toNat :: readsB y, fun a => shiftRight (a.s x.toNat) (operandB a y))
  | .ssra p d x y => some (p, d, x.toNat :: readsB y, fun a => shiftArith (a.s x.toNat) (operandB a y))
  | .srot p d x y => some (p, d, x.toNat :: readsB y, fun a => rotateLeft (a.s x.toNat) (operandB a y))
  | .smin p z d x y => some (p, d, x.toNat :: readsB y, fun a => lesser z (a.s x.toNat) (operandB a y))
  | .smax p z d x y => some (p, d, x.toNat :: readsB y, fun a => greater z (a.s x.toNat) (operandB a y))
  | .ssel p c d x y => some (p, d, x.toNat :: readsB y, fun a => if a.q c then a.s x.toNat else operandB a y)
  | .smov p d y => some (p, d, readsB y, fun a => operandB a y)
  | .saddc p bw d x y => some (p, d, x.toNat :: readsB y, fun a => carry bw (a.s x.toNat) (operandB a y))
  | .sclz p d x => some (p, d, [x.toNat], fun a => leadingZeros (a.s x.toNat))
  | .spopc p d x => some (p, d, [x.toNat], fun a => setBits (a.s x.toNat))
  | .sbfe p z d x y => some (p, d, x.toNat :: readsB y, fun a => extractField z (a.s x.toNat) (operandB a y))
  | .sbfi p d x y => some (p, d, d.toNat :: x.toNat :: readsB y, fun a => insertField (a.s d.toNat) (a.s x.toNat) (operandB a y))
  | .sli p d imm => some (p, d, [], fun _ => imm)
  | .qop p (.tos d q) => some (p, d, [], fun a => if a.q q then 1#32 else 0#32)
  | _ => none

/-- The uniform words that write one q predicate: who executes it, predicate, destination, registers read, value (R91, R96). -/
def predicateRow : Instr → Option (Who × Pred × PNum × List Nat × (Agent → Bool))
  | .scmp p c d x y => some (.all, p, d, x.toNat :: readsB y, fun a => condition c (a.s x.toNat) (operandB a y))
  | .qop p (.and d x y) => some (.all, p, d, [], fun a => a.q x && a.q y)
  | .qop p (.or d x y) => some (.all, p, d, [], fun a => a.q x || a.q y)
  | .qop p (.xor d x y) => some (.all, p, d, [], fun a => a.q x != a.q y)
  | .qop p (.andn d x y) => some (.all, p, d, [], fun a => a.q x && !a.q y)
  | .qop p (.not d x) => some (.all, p, d, [], fun a => !a.q x)
  | .qop p (.mov d x) => some (.all, p, d, [], fun a => a.q x)
  | .qop p (.set d) => some (.all, p, d, [], fun _ => true)
  | .qop p (.clr d) => some (.all, p, d, [], fun _ => false)
  | .qop p (.froms d x) => some (.all, p, d, [x.toNat], fun a => decide (a.s x.toNat ≠ 0#32))
  | .qop p (.any d x) => some (.gang, p, d, [], fun a => (List.range 32).any fun i => a.slot.mask.getLsbD i && (a.p x).getLsbD i)
  | .qop p (.all d x) => some (.gang, p, d, [], fun a => (List.range 32).all fun i => !a.slot.mask.getLsbD i || (a.p x).getLsbD i)
  | _ => none

/-- The uniform words that write a pair of s registers: destination, registers read, value (R93, R95). -/
def pairRow : Instr → Option (Pred × SReg × List Nat × (Agent → Dword))
  | .slea p sh d x y => some (p, d, x.toNat :: (x.toNat + 1) :: readsB y, fun a =>
      BitVec.ofInt 64 (Int.ofNat ((a.s (x.toNat + 1)).toNat * 4294967296 + (a.s x.toNat).toNat) + (operandB a y).toInt * 2 ^ sh.toNat))
  | .slih p d imm => some (p, d, [], fun _ => BitVec.ofNat 64 (imm.toNat * 4294967296))
  | _ => none

end Sys2Proof.Spec

open Sys2Proof Sys2Proof.Machine Sys2Proof.Spec

/-- R89, R90, R92, R94 to R96: each uniform word of one s result writes its value and nothing else. -/
def Sys2Proof.Spec.UniformWordsWriteTheirValue : Prop :=
  ∀ (i : Instr) (s : State) (a : Agent) (p : Pred) (d : SReg) (reads : List Nat) (f : Agent → Word),
    uniformRow i = some (p, d, reads, f) → UniReady .all false [d.toNat] p reads s a →
    exec i s = .next (s.setAgent s.cur ((a.discard [sCode d.toNat]).setS d.toNat (f a)).retire)

/-- R91, R96: SCMP and QOP write one uniform predicate and nothing else. -/
def Sys2Proof.Spec.UniformPredicatesWriteTheirValue : Prop :=
  ∀ (i : Instr) (s : State) (a : Agent) (w : Who) (p : Pred) (d : PNum) (reads : List Nat) (f : Agent → Bool),
    predicateRow i = some (w, p, d, reads, f) → UniReady w false [] p reads s a →
    exec i s = .next (s.setAgent s.cur (a.setQ d (f a)).retire)

/-- R93, R95: SLEA and SLIH write a pair, low word first. -/
def Sys2Proof.Spec.UniformPairsWriteTheirValue : Prop :=
  ∀ (i : Instr) (s : State) (a : Agent) (p : Pred) (d : SReg) (reads : List Nat) (f : Agent → Dword),
    pairRow i = some (p, d, reads, f) → UniReady .all false [d.toNat, d.toNat + 1] p reads s a →
    exec i s = .next (s.setAgent s.cur
      (((a.discard [sCode d.toNat, sCode (d.toNat + 1)]).setS d.toNat ((f a).setWidth 32)).setS (d.toNat + 1)
        ((f a).extractLsb' 32 32)).retire)

/-! System registers, control flow and slots. -/

namespace Sys2Proof.Spec
open Sys2Proof.Machine

/-- The system registers a read of which is a plain value (R76, R77, R78): all but CYCLEL and STALLS, which the clock
and the pipeline move. A sequencer reads GANGID, TEAMID and SLOTMASK as zero. -/
def sysValue (s : State) (a : Agent) : SysReg → Option Word
  | .cyclel | .stalls => none
  | .cycleh => some a.cycleh
  | .flags => some (BitVec.ofNat 32 a.flags.toNat)
  | .warn => some (if a.warn then 1#32 else 0#32)
  | .mode => some (if a.noreuse then 1#32 else 0#32)
  | .gangid => some (if isSeq s.cur then 0#32 else BitVec.ofNat 32 (a.gang % 16))
  | .teamid => some (if isSeq s.cur then 0#32 else BitVec.ofNat 32 a.tindex)
  | .ctxid => some (BitVec.ofNat 32 (a.ctx % 512))
  | .quadid => some (BitVec.ofNat 32 (quadOf s.cur % 256 + 256 * if isSeq s.cur then 0 else schedOf s.cur))
  | .slotmask => some (if isSeq s.cur then 0#32 else a.slot.mask)
  | .ddepth => some (BitVec.ofNat 32 (a.stack.length % 512))
  | .retired => some a.retired
  | .reused => some a.reused
  | .ldreused => some a.ldreused
  | .cause => some a.frame.cause
  | .epcl => some (a.frame.epc.extractLsb' 0 32)
  | .epch => some (a.frame.epc.extractLsb' 32 32)
  | .fmask => some a.frame.fmask
  | .tdetail => some a.frame.tdetail

/-- A system register after a write (R76 to R78): WARN is cleared by a one, and the others take the value's bits. -/
def sysWrite (a : Agent) (v : Word) : SysReg → Option Agent
  | .flags => some { a with flags := BitVec.ofNat 6 v.toNat }
  | .warn => some { a with warn := a.warn && !v.getLsbD 0 }
  | .mode => some { a with noreuse := v.getLsbD 0 }
  | .stalls => some { a with stalls := v, since := 0 }
  | .retired => some { a with retired := v, retMark := a.ids }
  | .reused => some { a with reused := v }
  | .ldreused => some { a with ldreused := v }
  | .epcl => some { a with frame := { a.frame with epc := a.frame.epc.extractLsb' 32 32 ++ v, epcWritten := true } }
  | .epch => some { a with frame := { a.frame with epc := v ++ a.frame.epc.extractLsb' 0 32, epcWritten := true } }
  | .fmask => some { a with frame := { a.frame with fmask := v } }
  | .cyclel | .cycleh | .gangid | .teamid | .ctxid | .quadid | .slotmask | .ddepth | .cause | .tdetail => none

/-- The registers of R76 that only supervisor mode reaches, and those whose words wait for every earlier one (R97). -/
def svReg (n : SysReg) : Bool := [SysReg.cause, .epcl, .epch, .fmask, .tdetail].contains n
def waitsAll (n : SysReg) : Bool := [SysReg.flags, .warn, .retired, .reused, .ldreused].contains n

/-- The address a branch names: the header of its run and 8 × TGT (R40). -/
def branchTarget (a : Agent) (off : BitVec 24) : Dword := a.header + BitVec.ofInt 64 (8 * off.toInt)

/-- The uniform words whose false predicate leaves nothing but a retired word: their destinations, sources and modes. -/
def uniformShape : Instr → Option (Who × Pred × Bool × List Nat × List Nat)
  | .brq p _ => some (.all, p, false, [], [])
  | .call p _ l => some (.all, p, false, [l.toNat, l.toNat + 1], [])
  | .ret p l => some (.all, p, false, [l.toNat, l.toNat + 1], [l.toNat, l.toNat + 1])
  | .loop p _ c => some (.all, p, false, [c.toNat], [c.toNat])
  | .exit p | .endGang p | .yield p | .nop p => some (.all, p, false, [], [])
  | .eret p => some (.all, p, true, [], [])
  | .sfence p => some (.gangMseq, p, false, [], [])
  | i => match uniformRow i, predicateRow i, pairRow i with
    | some (p, d, r, _), _, _ => some (.all, p, false, [d.toNat], r)
    | _, some (w, p, _, r, _), _ => some (w, p, false, [], r)
    | _, _, some (p, d, r, _) => some (.all, p, false, [d.toNat, d.toNat + 1], r)
    | _, _, _ => none

/-- Gang a has entered its handler, and b is the gang (R372 to R374): what the frame holds, where it runs, and what
S[496], S[497] and S[508] are; every other register is as it was. -/
def Entered (s : State) (a b : Agent) (cause tdetail : Nat) (epc restart : Dword) (fmask : Mask) (faddr : Nat) : Prop :=
  b.sv = true ∧ b.rewindable = false ∧
  b.frame.cause = BitVec.ofNat 32 cause ∧ b.frame.tdetail = BitVec.ofNat 32 tdetail ∧ b.frame.epc = epc ∧ b.frame.fmask = fmask ∧
  b.frame.tslot = { a.slot with pc := restart } ∧ b.frame.susp = a.other ∧ b.frame.depth = a.stack.length ∧
  b.slot = { pc := s.hvec a, mask := a.slot.mask, rcv := none, st := .run } ∧ b.other = deadSlot ∧ b.stack = a.stack ∧
  b.s 496 = BitVec.ofNat 32 faddr ∧ b.s 497 = BitVec.ofNat 32 (faddr / 2 ^ 32) ∧ b.s 508 = BitVec.ofNat 32 (256 * s.lsgranOf a) ∧
  (∀ n, n ≠ 496 → n ≠ 497 → n ≠ 508 → b.s n = a.s n) ∧ (∀ n, b.q n = a.q n) ∧ (∀ n, b.p n = a.p n) ∧ (∀ n, b.v n = a.v n) ∧
  b.flags = a.flags

/-- An agent whose word waits: where its gang is blocked no run of it is ready, so its slots' waits restart (R85). -/
def waits (a : Agent) : Agent :=
  if a.block = .none ∨ a.block = .handler ∨ a.block = .stopped then a else { a with wait0 := 0, wait1 := 0 }
/-- A gang in user mode whose context has a handler (R370, R372). -/
abbrev MayTrap (s : State) (a : Agent) : Prop :=
  s.agent? s.cur = some a ∧ isSeq s.cur = false ∧ a.sv = false ∧ s.hvec a ≠ 0

end Sys2Proof.Spec

open Sys2Proof Sys2Proof.Machine Sys2Proof.Spec

/-- R76, R97: SRD of every register with a plain value. That QUADID [9:8] reads 0 on a sequencer, and what a read that waits for the
agent's words does behind a parked load, is the model's choice (log 68). -/
def Sys2Proof.Spec.SystemRegistersRead : Prop :=
  ∀ (p : Pred) (d : SReg) (n : SysReg) (v : Word) (s : State) (a : Agent),
    sysValue s a n = some v → (isSeq s.cur = true → svReg n = false) → (waitsAll n = true → s.uncompleted s.cur a = false) →
    UniReady .all (svReg n) [d.toNat] p [] s a →
    exec (.srd p d n) s = .next (s.setAgent s.cur ((a.discard [sCode d.toNat]).setS d.toNat v).retire)

/-- R75, R37: SRD of CYCLEL returns the low half of a counter that never goes back, and latches the high half for CYCLEH; SRD of
STALLS returns the counter, which holds what was read: each word completed since it was last read or written may have added
one. How far either has moved is free (log entry 4). -/
def Sys2Proof.Spec.CounterReadsAdvance : Prop :=
  ∀ (p : Pred) (d : SReg) (s : State) (a : Agent), UniReady .all false [d.toNat] p [] s a →
    (∃ t c, exec (.srd p d .cyclel) s = .next t ∧ (s.quad (quadOf s.cur)).cycle ≤ c ∧
      t.quad (quadOf s.cur) = { s.quad (quadOf s.cur) with cycle := c } ∧
      t.agent? s.cur = some (({ a.discard [sCode d.toNat] with cycleh := BitVec.ofNat 32 (c / 2 ^ 32) }).setS d.toNat (BitVec.ofNat 32 c)).retire ∧
      SameMemory s t ∧ SameOthers s t s.cur) ∧
    ∃ t v n, exec (.srd p d .stalls) s = .next t ∧ n < max 1 a.since ∧ v = a.stalls + BitVec.ofNat 32 n ∧
      t.agent? s.cur = some (({ a.discard [sCode d.toNat] with stalls := v, since := 0 }).setS d.toNat v).retire ∧
      SameMemory s t ∧ SameOthers s t s.cur

/-- R76 to R78, R97: SWR writes its register, and the word it retires counts after the write. -/
def Sys2Proof.Spec.SystemRegistersWrite : Prop :=
  ∀ (p : Pred) (n : SysReg) (x : SReg) (s : State) (a b : Agent),
    sysWrite a (a.s x.toNat) n = some b → (isSeq s.cur = true → svReg n = false) → (waitsAll n = true → s.uncompleted s.cur a = false) →
    UniReady .all (svReg n) [] p [x.toNat] s a →
    exec (.swr p n x) s = .next (s.setAgent s.cur b.retire)

/-- R29, R31: a uniform word under a false predicate changes nothing, whatever its registers await; it retires (R76). -/
def Sys2Proof.Spec.FalsePredicateOnlyRetires : Prop :=
  ∀ (i : Instr) (w : Who) (p : Pred) (sv : Bool) (dsts reads : List Nat) (s : State) (a : Agent),
    uniformShape i = some (w, p, sv, dsts, reads) → s.agent? s.cur = some a → w.admits s.cur = true →
    (a.sv = true ∨ (sv = false ∧ ∀ n ∈ dsts, n < 496)) → a.holds p = false →
    exec i s = .next (s.setAgent s.cur a.retire)

/-- R73, R49: a uniform word that would write s496 to s511 in user mode traps ILLEGAL with reason 0x16, whatever its
predicate, and writes nothing. -/
def Sys2Proof.Spec.SupervisorBankWriteTraps : Prop :=
  ∀ (i : Instr) (p : Pred) (dsts reads : List Nat) (s : State) (a : Agent),
    uniformShape i = some (.all, p, false, dsts, reads) → (∃ n ∈ dsts, 496 ≤ n) → MayTrap s a →
    ∃ b, exec i s = .next (s.setAgent s.cur b) ∧ Entered s a b 0x01 0x16 a.wordAddr a.header a.slot.mask 0

/-- R72: a write to s0 is discarded, and s0 reads zero. -/
def Sys2Proof.Spec.RegisterZeroIsHardwired : Prop :=
  (∀ a : Agent, a.s 0 = 0#32) ∧
  ∀ (i : Instr) (s : State) (a : Agent) (p : Pred) (d : SReg) (reads : List Nat) (f : Agent → Word),
    uniformRow i = some (p, d, reads, f) → d = 0#9 → UniReady .all false [d.toNat] p reads s a →
    ∃ b, exec i s = .next (s.setAgent s.cur b) ∧ (∀ n, b.s n = a.s n) ∧ b.qreg = a.qreg ∧ b.preg = a.preg ∧ b.vreg = a.vreg

/-- R98 to R100: BRA, BRQ, CALL, RET and LOOP set where the issuing slot continues when its run has completed. -/
def Sys2Proof.Spec.BranchesMoveTheSlot : Prop :=
  ∀ (s : State) (a : Agent) (r : RunBuf), a.run = some r →
    (∀ tgt, UniReady .all false [] always [] s a →
      exec (.bra tgt) s = .next (s.setAgent s.cur { a with run := some { r with flow := .goto (branchTarget a tgt) } }.retire)) ∧
    (∀ p tgt, UniReady .all false [] p [] s a →
      exec (.brq p tgt) s = .next (s.setAgent s.cur { a with run := some { r with flow := .goto (branchTarget a tgt) } }.retire)) ∧
    (∀ p tgt (l : SReg), UniReady .all false [l.toNat, l.toNat + 1] p [] s a →
      let link : Dword := r.header + 8#64 * BitVec.ofNat 64 (r.words.length + 1)
      exec (.call p tgt l) s = .next (s.setAgent s.cur
        ((({ a.discard [sCode l.toNat, sCode (l.toNat + 1)] with run := some { r with flow := .goto (branchTarget a tgt) } }).setS l.toNat
          (link.setWidth 32)).setS (l.toNat + 1) (link.extractLsb' 32 32)).retire)) ∧
    (∀ p (l : SReg), UniReady .all false [l.toNat, l.toNat + 1] p [l.toNat, l.toNat + 1] s a →
      exec (.ret p l) s = .next (s.setAgent s.cur
        { a.discard [sCode l.toNat, sCode (l.toNat + 1)] with run := some { r with flow := .goto (a.s (l.toNat + 1) ++ a.s l.toNat) } }.retire)) ∧
    ∀ p tgt (c : SReg), c ≠ 0#9 → UniReady .all false [c.toNat] p [c.toNat] s a →
      let n := mod32 (num true (a.s c.toNat) - 1)
      let b := (a.discard [sCode c.toNat]).setS c.toNat n
      exec (.loop p tgt c) s = .next (s.setAgent s.cur
        (if n = 0#32 then b else { b with run := some { r with flow := .goto (branchTarget a tgt) } }).retire)

/-- R81, R83: BRV without a split moves the slot; with one it pushes what R81 says and splits the lanes over the slots; what
is no longer among the newest four entries goes to the context area, a fault there being fatal. -/
def Sys2Proof.Spec.BrvSplitsTheLanes : Prop :=
  ∀ (p : Pred) (tgt rcv : BitVec 24) (s : State) (a : Agent) (r : RunBuf),
    s.agent? s.cur = some a → isSeq s.cur = false → a.run = some r →
    (a.active p = a.slot.mask →
      exec (.brv p tgt rcv) s = .next (s.setAgent s.cur { a with run := some { r with flow := .goto (branchTarget a tgt) } }.retire)) ∧
    (a.active p ≠ a.slot.mask → a.active p = 0 →
      exec (.brv p tgt rcv) s = .next (s.setAgent s.cur { a with run := some { r with flow := .fall } }.retire)) ∧
    (a.active p ≠ a.slot.mask → a.active p ≠ 0 → a.stack.length + (if a.other.st = .dead then 1 else 2) ≤ 256 →
      ∃ b : Agent, (b.stack.length ≤ 4 → exec (.brv p tgt rcv) s = .next (s.setAgent s.cur b.retire)) ∧
        (∀ u, s.spillEntries s.cur a.ctx (spilled a.stack b.stack) = .ok u → exec (.brv p tgt rcv) s = .next (u.setAgent s.cur b.retire)) ∧
        (∀ e, s.spillEntries s.cur a.ctx (spilled a.stack b.stack) = .error e →
          exec (.brv p tgt rcv) s = .next (s.fatalStop s.cur a 0x11 0 a.wordAddr (a.active p) 0)) ∧
        b = { a with slot0 := b.slot0, slot1 := b.slot1, stack := b.stack, run := some { r with flow := .stay } } ∧
        b.slot = { pc := branchTarget a tgt, mask := a.active p, rcv := some (branchTarget a rcv), st := .run } ∧
        b.other = { pc := r.header + 8#64 * BitVec.ofNat 64 (r.words.length + 1), mask := a.slot.mask &&& ~~~ a.active p,
                    rcv := some (branchTarget a rcv), st := .run } ∧
        b.stack = .join (branchTarget a rcv) a.slot.mask a.slot.rcv :: if a.other.st = .dead then a.stack else .side a.other :: a.stack) ∧
    (a.active p ≠ a.slot.mask → a.active p ≠ 0 → 256 < a.stack.length + (if a.other.st = .dead then 1 else 2) → MayTrap s a →
      ∃ b, exec (.brv p tgt rcv) s = .next (s.setAgent s.cur b) ∧ Entered s a b 0x04 0 a.wordAddr a.header (a.active p) 0)

/-- R101, R105: NOP, YIELD, and EXIT of a slot that leaves lanes behind. -/
def Sys2Proof.Spec.NopYieldAndExitOfASlot : Prop :=
  ∀ (p : Pred) (s : State) (a : Agent), UniReady .all false [] p [] s a →
    exec (.nop p) s = .next (s.setAgent s.cur a.retire) ∧
    (isSeq s.cur = true → exec (.yield p) s = .next (s.setAgent s.cur a.retire)) ∧
    (isSeq s.cur = false → exec (.yield p) s = .next (s.setAgent s.cur
      { a with block := .yield, wait0 := if a.which then a.wait0 else 0, wait1 := if a.which then 0 else a.wait1 }.retire)) ∧
    (isSeq s.cur = false → (((a.setSlot deadSlot).setFlow .stay).settle).isSome = true →
      exec (.exit p) s = .next (s.setAgent s.cur ((a.setSlot deadSlot).setFlow .stay).retire))

/-- R101, R102: END, and EXIT of the last lanes, end the gang; END of a sequencer with no command outstanding stops it. -/
def Sys2Proof.Spec.EndLeavesTheTeam : Prop :=
  ∀ (p : Pred) (s : State) (a : Agent) (x : Team), UniReady .all false [] p [] s a → s.team? a.team = some x →
    (isSeq s.cur = false → s.cur < orphanBase → a.cmds.any Cmd.keepsGang = false →
      ∃ t y, exec (.endGang p) s = .next t ∧ t.agent? s.cur = none ∧ t.team? a.team = some y ∧ y.live = x.live - 1 ∧ SameMemory s t ∧
        ((((a.setSlot deadSlot).setFlow .stay).settle).isSome = false → exec (.exit p) s = .next t)) ∧
    (isMseq s.cur = true → (s.quad (quadOf s.cur)).queue.any (fun c => c.agent == s.cur) = false →
      ∃ t y, exec (.endGang p) s = .next t ∧ exec (.exit p) s = .next t ∧ t.agent? s.cur = none ∧ t.team? a.team = some y ∧ y.mRun = false ∧ SameMemory s t) ∧
    (isDseq s.cur = true → a.cmds.any Cmd.keepsGang = false →
      ∃ t y, exec (.endGang p) s = .next t ∧ exec (.exit p) s = .next t ∧ t.agent? s.cur = none ∧ t.team? a.team = some y ∧ y.dRun = false ∧ SameMemory s t)

/-! Vector integer, predicate and cross-lane words (R128 to R146), register blocks and indirect access (R121 to R127). -/

namespace Sys2Proof.Spec
open Sys2Proof.Machine

/-- Element k, of w bits, of a word (R132). -/
def element (z : Bool) (w k : Nat) (x : Word) : Int :=
  if z then Int.ofNat (x.extractLsb' (w * k) w).toNat else (x.extractLsb' (w * k) w).toInt
/-- The number nearest to e that w bits hold. -/
def saturate (z : Bool) (w : Nat) (e : Int) : Int :=
  let lo : Int := if z then 0 else -(2 ^ (w - 1))
  let hi : Int := if z then 2 ^ w - 1 else 2 ^ (w - 1) - 1
  if e < lo then lo else if hi < e then hi else e
/-- The word whose element k of w bits holds f k. -/
def elements (w : Nat) (f : Nat → Int) : Word := bitsWord fun i => (BitVec.ofInt 32 (f (i / w))).getLsbD (i % w)
def bits : Width → Nat
  | .w32 => 32
  | .w16 => 16
  | .w8 => 8
def saturatedSum (z : Bool) (w : Width) (x y : Word) : Word :=
  elements (bits w) fun k => saturate z (bits w) (element z (bits w) k x + element z (bits w) k y)
def saturatedDifference (z : Bool) (w : Width) (x y : Word) : Word :=
  elements (bits w) fun k => saturate z (bits w) (element z (bits w) k x - element z (bits w) k y)
/-- Every element the low bits of a word (R135). -/
def everyElement (w : Width) (x : Word) : Word := bitsWord fun i => x.getLsbD (i % bits w)
def sum (l : List Int) : Int := l.foldr (· + ·) 0
def absolute (sat : Bool) (x : Word) : Word :=
  let e : Int := if x.toInt < 0 then -x.toInt else x.toInt
  mod32 (if sat then saturate false 32 e else e)
def negated (sat : Bool) (x : Word) : Word := mod32 (if sat then saturate false 32 (-x.toInt) else -x.toInt)
def dot4 (az bz sat : Bool) (x y z : Word) : Word :=
  let e := z.toInt + sum ([0, 1, 2, 3].map fun k => element az 8 k x * element bz 8 k y)
  mod32 (if sat then saturate false 32 e else e)
def absDifferences (w : Nat) (x y z : Word) : Word :=
  mod32 (num true z + sum ((List.range (32 / w)).map fun k => Int.ofNat (element true w k x - element true w k y).natAbs))
def extended (sx : Bool) (w : Nat) (x y : Word) : Word := mod32 (element (!sx) w (y.toNat % (32 / w)) x)
/-- VPACK: halves or bytes saturated (R138). -/
def packed (z : Bool) (w lo : Nat) (x y : Word) (rest : Word) : Word :=
  bitsWord fun i =>
    if lo ≤ i ∧ i < lo + w then (BitVec.ofInt 32 (saturate z w (num z x))).getLsbD (i - lo)
    else if lo + w ≤ i ∧ i < lo + 2 * w then (BitVec.ofInt 32 (saturate z w (num z y))).getLsbD (i - lo - w)
    else rest.getLsbD i
/-- The active lanes, lowest first. -/
def lanes (m : Mask) : List Nat := (List.range 32).filter fun i => m.getLsbD i
/-- An operation of VRED and VSCAN over some lanes (R144). -/
def reduce (op : BitVec 3) (ls : List Nat) (f : Nat → Word) : Word :=
  let pick (id : Word) (g : Word → Word → Word) : Word := ls.foldr (fun i acc => g (f i) acc) id
  match op.toNat with
  | 0 => mod32 (sum (ls.map fun i => num true (f i)))
  | 1 => pick 0x7FFFFFFF#32 (lesser false)
  | 2 => pick 0xFFFFFFFF#32 (lesser true)
  | 3 => pick 0x80000000#32 (greater false)
  | 4 => pick 0#32 (greater true)
  | 5 => bitsWord fun b => ls.all fun i => (f i).getLsbD b
  | 6 => bitsWord fun b => ls.any fun i => (f i).getLsbD b
  | _ => bitsWord fun b => (ls.countP fun i => (f i).getLsbD b) % 2 == 1
/-- The source lane of VSWZ (R142). -/
def swizzled (pat : BitVec 3) (i : Nat) : Nat :=
  ([i ^^^ 1, i ^^^ 2, i ^^^ 4, i ^^^ 8, i ^^^ 16, i - i % 4, i - i % 4 + 3 - i % 4, 31 - i]).getD pat.toNat 0
/-- The value of the highest-numbered active lane that pushes to a lane (R141). -/
def pushed (x y z : Nat → Word) (act : Mask) (i : Nat) : Word :=
  match (lanes act).reverse.find? fun j => (y j).toNat % 32 == i with
  | some j => x j
  | none => z i
def imm24 (imm : BitVec 24) : Word := mod32 imm.toInt

/-- A vector word computed lane by lane: its predicate, sources and destination, and the value of lane i under the
active lanes (R131 to R145). -/
structure LaneRow where
  p : Pred
  srcs : List Operand
  d : VDst
  value : Agent → Mask → Nat → Word

def row1 (p : Pred) (d : VDst) (x : Operand) (f : Word → Word) : Option LaneRow :=
  some ⟨p, [x], d, fun a _ i => f (a.lane x i)⟩
def row2 (p : Pred) (d : VDst) (x y : Operand) (f : Word → Word → Word) : Option LaneRow :=
  some ⟨p, [x, y], d, fun a _ i => f (a.lane x i) (a.lane y i)⟩
def row3 (p : Pred) (d : VDst) (x y z : Operand) (f : Word → Word → Word → Word) : Option LaneRow :=
  some ⟨p, [x, y, z], d, fun a _ i => f (a.lane x i) (a.lane y i) (a.lane z i)⟩
def rowI (p : Pred) (d : VDst) (x : Operand) (imm : BitVec 24) (f : Word → Word → Word) : Option LaneRow :=
  some ⟨p, [x], d, fun a _ i => f (a.lane x i) (imm24 imm)⟩
def sumOf (x y : Word) : Word := mod32 (num true x + num true y)
def differenceOf (x y : Word) : Word := mod32 (num true x - num true y)
def productOf (x y : Word) : Word := mod32 (num true x * num true y)
def andOf (x y : Word) : Word := bitsWord fun i => x.getLsbD i && y.getLsbD i
def orOf (x y : Word) : Word := bitsWord fun i => x.getLsbD i || y.getLsbD i
def xorOf (x y : Word) : Word := bitsWord fun i => x.getLsbD i != y.getLsbD i
def andNotOf (x y : Word) : Word := bitsWord fun i => x.getLsbD i && !y.getLsbD i
def notOf (x : Word) : Word := bitsWord fun i => !x.getLsbD i

/-- The arithmetic, logic, shift and field words (R131 to R135). -/
def arithmeticRow : Instr → Option LaneRow
  | .vadd p _ d x y => row2 p d x y sumOf
  | .vsub p _ d x y => row2 p d x y differenceOf
  | .vmul p _ d x y => row2 p d x y productOf
  | .vmulh p _ z d x y => row2 p d x y (highProduct z)
  | .vmad p _ d x y z => row3 p d x y z fun x y z => sumOf (productOf x y) z
  | .vadds p _ z w d x y => row2 p d x y (saturatedSum z w)
  | .vsubs p _ z w d x y => row2 p d x y (saturatedDifference z w)
  | .vabs p _ sat d x => row1 p d x (absolute sat)
  | .vneg p _ sat d x => row1 p d x (negated sat)
  | .vmin p _ z d x y => row2 p d x y (lesser z)
  | .vmax p _ z d x y => row2 p d x y (greater z)
  | .vdot4 p _ az bz sat d x y z => row3 p d x y z (dot4 az bz sat)
  | .vsad p _ h d x y z => row3 p d x y z (absDifferences (if h then 16 else 8))
  | .vand p _ d x y => row2 p d x y andOf
  | .vor p _ d x y => row2 p d x y orOf
  | .vxor p _ d x y => row2 p d x y xorOf
  | .vandn p _ d x y => row2 p d x y andNotOf
  | .vnot p _ d x => row1 p d x notOf
  | .vshl p _ d x y => row2 p d x y shiftLeft
  | .vshr p _ d x y => row2 p d x y shiftRight
  | .vsra p _ d x y => row2 p d x y shiftArith
  | .vrot p _ d x y => row2 p d x y rotateLeft
  | .vclz p _ d x => row1 p d x leadingZeros
  | .vpopc p _ d x => row1 p d x setBits
  | .vbfe p _ z d x y => row2 p d x y (extractField z)
  | .vbfi p _ d x y z => row3 p d x y z fun x y z => insertField z x y
  | .vbrev p _ d x => row1 p d x fun x => bitsWord fun i => x.getLsbD (31 - i)
  | .vaddImm p _ d x imm => rowI p d x imm sumOf
  | .vsubImm p _ d x imm => rowI p d x imm differenceOf
  | .vmulImm p _ d x imm => rowI p d x imm productOf
  | .vaddsImm p _ z w d x imm => rowI p d x imm fun x y => saturatedSum z w x (everyElement w y)
  | .vsubsImm p _ z w d x imm => rowI p d x imm fun x y => saturatedDifference z w x (everyElement w y)
  | .vminImm p _ z d x imm => rowI p d x imm (lesser z)
  | .vmaxImm p _ z d x imm => rowI p d x imm (greater z)
  | .vandImm p _ d x imm => rowI p d x imm andOf
  | .vorImm p _ d x imm => rowI p d x imm orOf
  | .vxorImm p _ d x imm => rowI p d x imm xorOf
  | .vandnImm p _ d x imm => rowI p d x imm andNotOf
  | .vshlImm p _ d x imm => rowI p d x imm shiftLeft
  | .vshrImm p _ d x imm => rowI p d x imm shiftRight
  | .vsraImm p _ d x imm => rowI p d x imm shiftArith
  | .vrotImm p _ d x imm => rowI p d x imm rotateLeft
  | _ => none

/-- The select, move and cross-lane words (R137, R138, R139, R141 to R144). -/
def moveRow : Instr → Option LaneRow
  | .vsel p _ c d x y => some ⟨p, [x, y], d, fun a _ i => if (a.p c).getLsbD i then a.lane x i else a.lane y i⟩
  | .vmov p _ d y => row1 p d y id
  | .vmovImm p _ d imm => some ⟨p, [], d, fun _ _ _ => imm24 imm⟩
  | .vbcast p _ d x (.sreg n) => some ⟨p, [x, .b n], d, fun a _ _ => a.lane x ((a.s n.toNat).toNat % 32)⟩
  | .vbcast p _ d x .first => some ⟨p, [x], d, fun a act _ => a.lane x ((lanes act).headD 0)⟩
  | .vlane p _ m d => some ⟨p, [], d, fun a _ i => BitVec.ofNat 32 ([i, i / 4, i % 4, 32 * a.gang + i].getD m.toNat 0)⟩
  | .vext p _ sx half d x y => row2 p d x y (extended sx (if half then 16 else 8))
  | .vpack p _ z .half d x y => row2 p d x y fun x y => packed z 16 0 x y 0#32
  | .vpack p _ z (.byteLo w) d x y => row3 p d x y w (packed z 8 0)
  | .vpack p _ z (.byteHi w) d x y => row3 p d x y w (packed z 8 16)
  | .plop p _ (.tov d c) => some ⟨p, [], d, fun a _ i => if (a.p c).getLsbD i then 1#32 else 0#32⟩
  | .vperm p _ d x y => some ⟨p, [x, y], d, fun a _ i => a.lane x ((a.lane y i).toNat % 32)⟩
  | .vpush p _ d x y z => some ⟨p, [x, y, z], d, fun a act i => pushed (a.lane x) (a.lane y) (a.lane z) act i⟩
  | .vswz p _ pat d x => some ⟨p, [x], d, fun a _ i => a.lane x (swizzled pat i)⟩
  | .vmatch p _ d x => some ⟨p, [x], d, fun a act i => bitsWord fun j => act.getLsbD j && decide (a.lane x j = a.lane x i)⟩
  | .vscan p _ ex op d x => some ⟨p, [x], d, fun a act i =>
      reduce op ((lanes act).filter fun j => decide (j < i) || (!ex && j == i)) (a.lane x)⟩
  | _ => none

/-- The words that write a vector predicate: its bit of lane i (R136, R139, R145). -/
def lanePredRow : Instr → Option (Pred × List Operand × PNum × (Agent → Mask → Nat → Bool))
  | .vcmp p _ cc d x y => some (p, [x, y], d, fun a _ i => condition cc (a.lane x i) (a.lane y i))
  | .vcmpImm p _ cc d x imm => some (p, [x], d, fun a _ i => condition cc (a.lane x i) (imm24 imm))
  | .plop p _ (.and d x y) => some (p, [], d, fun a _ i => (a.p x).getLsbD i && (a.p y).getLsbD i)
  | .plop p _ (.or d x y) => some (p, [], d, fun a _ i => (a.p x).getLsbD i || (a.p y).getLsbD i)
  | .plop p _ (.xor d x y) => some (p, [], d, fun a _ i => (a.p x).getLsbD i != (a.p y).getLsbD i)
  | .plop p _ (.andn d x y) => some (p, [], d, fun a _ i => (a.p x).getLsbD i && !(a.p y).getLsbD i)
  | .plop p _ (.not d x) => some (p, [], d, fun a _ i => !(a.p x).getLsbD i)
  | .plop p _ (.mov d x) => some (p, [], d, fun a _ i => (a.p x).getLsbD i)
  | .plop p _ (.set d) => some (p, [], d, fun _ _ _ => true)
  | .plop p _ (.clr d) => some (p, [], d, fun _ _ _ => false)
  | .plop p _ (.fromv d x) => some (p, [x], d, fun a _ i => decide (a.lane x i ≠ 0#32))
  | .vvote p _ m d x => some (p, [], d, fun a act _ =>
      let some' := (lanes act).any fun i => (a.p x).getLsbD i
      let all' := (lanes act).all fun i => (a.p x).getLsbD i
      match m with
      | .any => some'
      | .all => all'
      | .eq => all' || !some')
  | _ => none

/-- The words of one result for a uniform register or every active lane (R140, R144, R145). -/
def eitherRow : Instr → Option (Pred × List Operand × Operand × (Agent → Mask → Word))
  | .pcnt p _ d x => some (p, [], d, fun a act => BitVec.ofNat 32 ((lanes act).countP fun i => (a.p x).getLsbD i))
  | .pfirst p _ last d x => some (p, [], d, fun a act =>
      BitVec.ofNat 32 (((if last then (lanes act).reverse else lanes act).find? fun i => (a.p x).getLsbD i).getD 32))
  | .vred p _ op d x => some (p, [x], d, fun a act => reduce op (lanes act) (a.lane x))
  | .vballot p _ d x => some (p, [], d, fun a act => bitsWord fun i => act.getLsbD i && (a.p x).getLsbD i)
  | _ => none

/-- The sources, destination code and named registers of every vector integer word. -/
def vectorShape (i : Instr) : Option (Pred × List Nat × List Nat × List Nat) :=
  match arithmeticRow i, moveRow i, lanePredRow i, eitherRow i with
  | some r, _, _, _ | _, some r, _, _ =>
    some (r.p, r.srcs.map operandCodeOf, [vdstCodeOf r.d], namedDst r.d ++ r.srcs.flatMap namedOf)
  | _, _, some (p, srcs, _, _), _ => some (p, srcs.map operandCodeOf, [], srcs.flatMap namedOf)
  | _, _, _, some (p, srcs, d, _) => some (p, srcs.map operandCodeOf, [operandCodeOf d], namedOf d ++ srcs.flatMap namedOf)
  | _, _, _, _ => none

end Sys2Proof.Spec

open Sys2Proof Sys2Proof.Machine Sys2Proof.Spec

/-- R131 to R135: every vector arithmetic, logic, shift and field word gives each active lane its value. -/
def Sys2Proof.Spec.VectorArithmetic : Prop :=
  ∀ (i : Instr) (r : LaneRow) (s : State) (a : Agent), arithmeticRow i = some r →
    VecReady r.p (r.srcs.map operandCodeOf) [vdstCodeOf r.d] (namedDst r.d ++ r.srcs.flatMap namedOf) s a →
    ∃ t, exec i s = .next t ∧ VecDone s t a (a.active r.p) r.d (r.value a (a.active r.p)) 0

/-- R137, R138, R139, R141 to R144: every select, move and cross-lane word. -/
def Sys2Proof.Spec.VectorMoves : Prop :=
  ∀ (i : Instr) (r : LaneRow) (s : State) (a : Agent), moveRow i = some r →
    VecReady r.p (r.srcs.map operandCodeOf) [vdstCodeOf r.d] (namedDst r.d ++ r.srcs.flatMap namedOf) s a →
    ∃ t, exec i s = .next t ∧ VecDone s t a (a.active r.p) r.d (r.value a (a.active r.p)) 0

/-- R129, R136, R139, R145: a predicate word writes the bits of the active lanes of one predicate, and nothing else. -/
def Sys2Proof.Spec.VectorPredicates : Prop :=
  ∀ (i : Instr) (p : Pred) (srcs : List Operand) (d : PNum) (f : Agent → Mask → Nat → Bool) (s : State) (a : Agent),
    lanePredRow i = some (p, srcs, d, f) → VecReady p (srcs.map operandCodeOf) [] (srcs.flatMap namedOf) s a →
    exec i s = .next (s.setAgent s.cur (a.setP d (bitsWord fun i =>
      if (a.active p).getLsbD i then f a (a.active p) i else (a.p d).getLsbD i)).retire)

/-- R130, R140, R144, R145: PCNT, PFIRST, VRED and VBALLOT write one uniform register, or every active lane. -/
def Sys2Proof.Spec.VectorReductions : Prop :=
  ∀ (i : Instr) (p : Pred) (srcs : List Operand) (d : Operand) (f : Agent → Mask → Word) (s : State) (a : Agent),
    eitherRow i = some (p, srcs, d, f) →
    VecReady p (srcs.map operandCodeOf) [operandCodeOf d] (namedOf d ++ srcs.flatMap namedOf) s a →
    (∀ n, d = .b n → exec i s = .next (s.setAgent s.cur ((a.discard [sCode n.toNat]).setS n.toNat (f a (a.active p))).retire)) ∧
    ∀ v : VDst, d = VDst.src v → ∃ t, exec i s = .next t ∧ VecDone s t a (a.active p) v (fun _ => f a (a.active p)) 0

/-- R128, R29: a vector word with no active lane changes nothing, whatever its registers await; it retires. -/
def Sys2Proof.Spec.NoActiveLaneOnlyRetires : Prop :=
  ∀ (i : Instr) (p : Pred) (reads writes named : List Nat) (s : State) (a : Agent),
    vectorShape i = some (p, reads, writes, named) → s.agent? s.cur = some a → isSeq s.cur = false →
    (∀ n ∈ named, a.hasV n = true) → a.active p = 0 →
    exec i s = .next (s.setAgent s.cur a.retire)

/-- R107, R371: a vector word that names a register outside the gang's blocks traps REGBLOCK with that register.
Where several lie outside, which of them TDETAIL names (the destination first) is the model's choice (log 66). -/
def Sys2Proof.Spec.RegisterOutsideBlocksTraps : Prop :=
  ∀ (i : Instr) (p : Pred) (reads writes named : List Nat) (n : Nat) (s : State) (a : Agent),
    vectorShape i = some (p, reads, writes, named) → named.find? (fun n => !a.hasV n) = some n → MayTrap s a →
    ∃ b, exec i s = .next (s.setAgent s.cur b) ∧
      Entered s a b 0x02 n a.wordAddr a.header (if a.active p = 0 then a.slot.mask else a.active p) 0

/-! Rewind points, register blocks and indirect access. -/

namespace Sys2Proof.Spec
open Sys2Proof.Machine

/-- No gang is blocked in GROW.B (R124). -/
def noneGrowing (s : State) : Prop := ∀ x ∈ s.agents, x.2.growing = none
/-- The quadrant of s in t, but for the value store and a new growth reserve (R114). -/
def SameButReserve (s t : State) (k n : Nat) : Prop :=
  t = { s with agents := t.agents, quads := t.quads } ∧ SameOthers s t k ∧ (∀ q, q ≠ quadOf k → t.quad q = s.quad q) ∧
  t.quad (quadOf k) = { s.quad (quadOf k) with
    vs := (t.quad (quadOf k)).vs, vclock := (t.quad (quadOf k)).vclock, reserve := n }
/-- Whether register n lies in a block of a mask (R106). -/
def inBlocks (m : BitVec 3) (n : Nat) : Bool := decide (64 ≤ n) && decide (n < 256) && m.getLsbD (n / 64 - 1)
/-- A gang that has taken the blocks of a mask: their registers are zero (R108, R122). -/
def withBlocks (a : Agent) (m : BitVec 3) : Agent :=
  { a with
    blocks := a.blocks ||| m, block := .none,
    vreg := a.vreg.filter (fun x => !inBlocks m x.1), names := a.names.filter fun x => !inBlocks m x.1 }
/-- The index of VRDI and VWRI (R127). -/
def index (a : Agent) (r : BitVec 7) (imm : BitVec 24) : Int := (a.s r.toNat).toInt + imm.toInt

end Sys2Proof.Spec

open Sys2Proof Sys2Proof.Machine Sys2Proof.Spec

/-- R103: FLASH of a gang that has not diverged records its rewind point; otherwise the gang is not rewindable. -/
def Sys2Proof.Spec.FlashRecordsTheRewindPoint : Prop :=
  ∀ (nv : BitVec 3) (a0 a1 a2 a3 : BitVec 8) (sb : BitVec 7) (ns rcp : BitVec 5) (s : State) (a : Agent),
    let anchors := ([a0, a1, a2, a3].take nv.toNat).map (·.toNat)
    let scalars := (List.range ns.toNat).map (4 * sb.toNat + ·)
    s.agent? s.cur = some a → isSeq s.cur = false → rcp.toNat < (s.recipes a).length → (∀ n ∈ anchors, a.hasV n = true) →
    a.clear (anchors.map vCode ++ scalars.map sCode) [] →
    (a.other.st = .dead → a.stack = [] →
      ∃ t b r, exec (.flash nv a0 a1 a2 a3 sb ns rcp) s = .next t ∧ OnlyAgent s t s.cur ∧ t.agent? s.cur = some b ∧
        b = { a with rewindable := true, rwpt := some r }.retire ∧ r.header = a.header ∧ r.rcv = a.slot.rcv ∧ r.mask = a.slot.mask ∧
        r.recipe = BitVec.ofNat 64 ((s.recipes a).getD rcp.toNat 0) ∧ r.anchors = anchors ∧ r.vecs = anchors.map a.v ∧
        r.sb = sb.toNat ∧ r.scalars = scalars.map a.s ∧ r.blocks = a.blocks) ∧
    (a.other.st ≠ .dead ∨ a.stack ≠ [] →
      exec (.flash nv a0 a1 a2 a3 sb ns rcp) s = .next (s.setAgent s.cur { a with rewindable := false }.retire))

/-- R122, R124: GROW.B of a block already held does nothing; otherwise the gang, the only one blocked, is granted the
block, its registers zero, from the full reserve, or else from free capacity, or it waits. -/
def Sys2Proof.Spec.GrowBlockedIsGrantedOrWaits : Prop :=
  ∀ (p : Pred) (b : Nat) (s : State) (a : Agent), b < 3 → UniReady .gang false [] p [] s a → s.cur < orphanBase →
    let m : BitVec 3 := 1#3 <<< b
    let q := s.quad (quadOf s.cur)
    let waiting := s.setAgent s.cur { a with block := .grow b, wait0 := 0, wait1 := 0 }
    let granted := (withBlocks a m).retire
    (m &&& ~~~a.blocks = 0 → exec (.growB p m) s = .next (s.setAgent s.cur ({ a with block := .none } : Agent).retire)) ∧
    (m &&& ~~~a.blocks ≠ 0 → noneGrowing s →
      (q.reserve = 64 →
        exec (.growB p m) s = .next ((s.setQuad (quadOf s.cur) { q with reserve := 0 }).setAgent s.cur granted)) ∧
      (q.reserve ≠ 64 → 64 ≤ waiting.freeEntries (quadOf s.cur) → exec (.growB p m) s = .next (s.setAgent s.cur granted)) ∧
      (q.reserve ≠ 64 → waiting.freeEntries (quadOf s.cur) < 64 → exec (.growB p m) s = .next waiting))

/-- R122: GROW.T never waits: its predicate says whether every block of its mask is now held; the registers of those it takes
are zero. -/
def Sys2Proof.Spec.GrowTestNeverWaits : Prop :=
  ∀ (p : Pred) (d : PNum) (m : BitVec 3) (s : State) (a : Agent), UniReady .gang false [] p [] s a →
    let missing := m &&& ~~~a.blocks
    let fits := (s.oldestGrow (quadOf s.cur)).isNone ∧ 64 * ((List.range 3).countP fun i => missing.getLsbD i) ≤ s.freeEntries (quadOf s.cur)
    (missing = 0 → exec (.growT p d m) s = .next (s.setAgent s.cur (a.setQ d true).retire)) ∧
    (missing ≠ 0 → fits → exec (.growT p d m) s = .next (s.setAgent s.cur ((withBlocks a missing).setQ d true).retire)) ∧
    (missing ≠ 0 → ¬ fits → exec (.growT p d m) s = .next (s.setAgent s.cur (a.setQ d false).retire))

/-- R122, R108, R124: SHRINK releases the blocks of its mask that are held, once no result for their registers is under way (log
entry 66); they then read zero, and the freed capacity refills the reserve. -/
def Sys2Proof.Spec.ShrinkReleasesBlocks : Prop :=
  ∀ (p : Pred) (m : BitVec 3) (s : State) (a : Agent), UniReady .gang false [] p [] s a → noneGrowing s →
    (s.quad (quadOf s.cur)).reserve ≤ 64 → (∀ n, inBlocks (m &&& a.blocks) n = true → a.busy (vCode n) = false) →
    ∃ t b, exec (.shrink p m) s = .next t ∧ t.agent? s.cur = some b ∧
      SameButReserve s t s.cur (if m &&& a.blocks = 0 then (s.quad (quadOf s.cur)).reserve else 64) ∧
      b = { a with blocks := a.blocks &&& ~~~m, vreg := b.vreg, names := b.names }.retire ∧
      ∀ n, (inBlocks (m &&& a.blocks) n = true → b.v n = laneZero ∧ b.name n = 0) ∧
        (inBlocks (m &&& a.blocks) n = false → b.v n = a.v n ∧ b.name n = a.name n)

/-- R126, R127: VRDI reads, and VWRI writes, the register that the index names. -/
def Sys2Proof.Spec.IndirectAccess : Prop :=
  ∀ (p : Pred) (nr : Bool) (d : VDst) (r : BitVec 7) (imm : BitVec 24) (n : Nat) (s : State) (a : Agent),
    s.agent? s.cur = some a → isSeq s.cur = false → (∀ x ∈ namedDst d, a.hasV x = true) → a.clear [sCode r.toNat] [] →
    index a r imm = Int.ofNat n → n < 256 → a.hasV n = true → a.active p ≠ 0 →
    (a.clear [vCode n] [vdstCodeOf d] →
      ∃ t, exec (.vrdi p nr d r imm) s = .next t ∧ VecDone s t a (a.active p) d (fun i => lane (a.v n) i) 0) ∧
    (a.clear [vdstCodeOf d] [vCode n] →
      ∃ t, exec (.vwri p nr d r imm) s = .next t ∧
        VecDone s t a (a.active p) (.v (BitVec.ofNat 8 n)) (fun i => a.lane (VDst.src d) i) 0)

/-- R127, R107: an index outside 0 to 255, or outside the gang's blocks, traps REGBLOCK with its low 8 bits, active
lanes or none. -/
def Sys2Proof.Spec.IndirectAccessOutsideTraps : Prop :=
  ∀ (i : Instr) (p : Pred) (nr : Bool) (d : VDst) (r : BitVec 7) (imm : BitVec 24) (s : State) (a : Agent),
    i = .vrdi p nr d r imm ∨ i = .vwri p nr d r imm → MayTrap s a → (∀ x ∈ namedDst d, a.hasV x = true) → a.clear [sCode r.toNat] [] →
    index a r imm < 0 ∨ 255 < index a r imm ∨ a.hasV (index a r imm).toNat = false →
    ∃ b, exec i s = .next (s.setAgent s.cur b) ∧
      Entered s a b 0x02 (index a r imm % 256).toNat a.wordAddr a.header (if a.active p = 0 then a.slot.mask else a.active p) 0

/-! Slot arithmetic and conversions (R182 to R204). -/

namespace Sys2Proof.Spec
open Sys2Proof.Machine

/-- The operand of slot arithmetic: the value of lane i's code (R182). -/
def val (a : Agent) (im : Image) (o : Operand) (i : Nat) : Val := decodeCode im (((a.lane o i).toNat) % 2 ^ im.ew)
/-- One rounding of what the core has computed exactly, with the flags of both (R152, R184). -/
def rounded (im : Image) (rm : BitVec 2) (sat : Bool) (r : Val × Flags) : Nat × Flags :=
  ((encodeVal im rm.toNat sat r.1).1, (encodeVal im rm.toNat sat r.1).2 ||| r.2)
def first (ims : List Image) : Image := ims.headD fp32
def second (ims : List Image) : Image := (ims.drop 1).headD fp32
/-- A block record in the lanes of a source (R202). -/
def record (a : Agent) (o : Operand) : Nat := (List.range 16).foldr (fun j r => (a.lane o j).toNat * 2 ^ (32 * j) + r) 0

/-- A slot word: its slots with what its entry asks of each, its sources and destination, whether it writes every
lane, and lane i's code and flags (R187 to R202). -/
structure SlotRow where
  p : Pred
  slots : List (BitVec 4 × BlockNeed × Bool)
  srcs : List Operand
  d : VDst
  all : Bool
  value : List Image → Agent → Mask → Nat → Nat × Flags

def slotRow (p : Pred) (slot : BitVec 4) (srcs : List Operand) (d : VDst) (f : Image → Agent → Nat → Nat × Flags) : Option SlotRow :=
  some ⟨p, [(slot, .none, false)], srcs, d, false, fun ims a _ i => f (first ims) a i⟩

def floatRow : Instr → Option SlotRow
  | .fadd p _ sl rm sat d x y => slotRow p sl [x, y] d fun im a i => rounded im rm sat (addVal rm.toNat (val a im x i) (val a im y i))
  | .fsub p _ sl rm sat d x y => slotRow p sl [x, y] d fun im a i => rounded im rm sat (addVal rm.toNat (val a im x i) (negVal (val a im y i)))
  | .fmul p _ sl rm sat d x y => slotRow p sl [x, y] d fun im a i => rounded im rm sat (mulVal (val a im x i) (val a im y i))
  | .ffma p _ sl rm sat d x y z => slotRow p sl [x, y, z] d fun im a i =>
      rounded im rm sat (fmaVal rm.toNat (val a im x i) (val a im y i) (val a im z i))
  | .fmin p _ sl d x y => slotRow p sl [x, y] d fun im a i => ((encodeVal im 0 false (pickVal false (val a im x i) (val a im y i))).1, 0)
  | .fmax p _ sl d x y => slotRow p sl [x, y] d fun im a i => ((encodeVal im 0 false (pickVal true (val a im x i) (val a im y i))).1, 0)
  | .fclass p _ sl d x => slotRow p sl [x] d fun im a i => (classifyCode im ((a.lane x i).toNat % 2 ^ im.ew), 0)
  | .frnd p _ sl rm sat d x => slotRow p sl [x] d fun im a i => frndVal im rm.toNat sat (val a im x i)
  | .fscale p _ sl rm sat d x y => slotRow p sl [x, y] d fun im a i => rounded im rm sat (scaleVal (val a im x i) (a.lane y i).toInt, 0)
  | .fcvt p _ sl src rm sat d x => some ⟨p, [(sl, .none, false), (src, .none, false)], [x], d, false,
      fun ims a _ i => encodeVal (first ims) rm.toNat sat (val a (second ims) x i)⟩
  | .fcvti p _ sl rm w z d x => slotRow p sl [x] d fun im a i => cvtInt rm.toNat (bits w) z (val a im x i)
  | .icvtf p _ sl rm w z sat d x => slotRow p sl [x] d fun im a i => rounded im rm sat (intVal (bits w) z (a.lane x i).toNat, 0)
  | .frcp p _ sl rm sat d x => slotRow p sl [x] d fun im a i => rounded im rm sat (specialVal 0 (val a im x i))
  | .frsq p _ sl rm sat d x => slotRow p sl [x] d fun im a i => rounded im rm sat (specialVal 1 (val a im x i))
  | .fsqrt p _ sl rm sat d x => slotRow p sl [x] d fun im a i => rounded im rm sat (fsqrtVal (val a im x i))
  | .fexp2 p _ sl rm sat d x => slotRow p sl [x] d fun im a i => rounded im rm sat (specialVal 3 (val a im x i))
  | .flog2 p _ sl rm sat d x => slotRow p sl [x] d fun im a i => rounded im rm sat (specialVal 4 (val a im x i))
  | .fsin p _ sl rm sat d x => slotRow p sl [x] d fun im a i => rounded im rm sat (specialVal 5 (val a im x i))
  | .fcos p _ sl rm sat d x => slotRow p sl [x] d fun im a i => rounded im rm sat (specialVal 6 (val a im x i))
  | .ftanh p _ sl rm sat d x => slotRow p sl [x] d fun im a i => rounded im rm sat (specialVal 7 (val a im x i))
  | .fdot p _ sl d x y z => some ⟨p, [(sl, .none, true)], [x, y, z], d, false, fun ims a _ i =>
      fdotCode (first ims) (a.lane x i).toNat (a.lane y i).toNat (a.lane z i).toNat⟩
  | .fmxe p _ sl ds rm sat d x => some ⟨p, [(sl, .block, false), (ds, .none, false)], [x], d, false,
      fun ims a _ i => rounded (second ims) rm sat (blockDecode (first ims) (record a x) i)⟩
  | .fmxq p _ sl src rm d x => some ⟨p, [(sl, .block, false), (src, .none, false)], [x], d, true, fun ims a act j =>
      let vs := (List.range 32).map fun i => if act.getLsbD i then val a (second ims) x i else .num false 0 0
      let q := if (first ims).blk = 2 then fp4xEncode vs else mxEncode (first ims) rm.toNat vs
      (q.1 / 2 ^ (32 * j) % 2 ^ 32, q.2)⟩
  | _ => none

/-- Whether an image is what a word asks of a slot, else the FORMAT detail (R154, R186). -/
def slotDetail (need : BlockNeed) (classed : Bool) : Option Image → Nat
  | none => 1
  | some im =>
    if need = .none ∧ im.blk ≠ 0 then 2 else if need = .block ∧ im.blk = 0 then 4 else if classed ∧ im.cls = 0 then 3 else 0
/-- No slot of a word is loading, and none must be reloaded (R177, R178). -/
abbrev slotsSteady (s : State) (a : Agent) (slots : List (BitVec 4 × BlockNeed × Bool)) : Prop :=
  ∀ x ∈ slots, s.slotLoading (quadOf s.cur) a.ctx x.1 = false ∧ s.slotStale (quadOf s.cur) a.ctx x.1 = false
/-- The slots hold these images, and each fits. -/
abbrev slotsHold (s : State) (a : Agent) (slots : List (BitVec 4 × BlockNeed × Bool)) (ims : List Image) : Prop :=
  slots.map (fun x => s.image (quadOf s.cur) a.ctx x.1) = ims.map some ∧
  ∀ x ∈ slots, slotDetail x.2.1 x.2.2 (s.image (quadOf s.cur) a.ctx x.1) = 0
/-- The flags that some active lane sets (R184). -/
def anyFlags (act : Mask) (f : Nat → Flags) : Flags := (lanes act).foldr (fun i x => f i ||| x) 0

/-! Magnitudes m × 2^e. -/

/-- In units of 2^b, for b at most the exponent. -/
def units (x : Nat × Int) (b : Int) : Int := Int.ofNat (x.1 * 2 ^ (x.2 - b).toNat)
/-- The magnitude of exponent-and-mantissa bits c of a float format with subnormals (R156). -/
def codeMag (im : Image) (c : Nat) : Nat × Int :=
  let f := c / 2 ^ im.manb
  let t := c % 2 ^ im.manb
  if f = 0 then (t, 1 - im.bias - im.manb) else (2 ^ im.manb + t, Int.ofNat f - im.bias - im.manb)
/-- c is v rounded under rm (R30, R152): nearest, a tie to the even multiple
of the grid of v's binade, or the neighbour on the side rm says. -/
def RoundedCode (im : Image) (rm : Nat) (neg : Bool) (c : Nat) (v : Nat × Int) : Prop :=
  let b := min v.2 (1 - im.bias - im.manb)
  let x (n : Nat) : Int := units (codeMag im n) b
  let y := units v b
  if rm = 0 then
    2 * y ≤ x c + x (c + 1) ∧ (2 * y = x c + x (c + 1) → (codeMag im c).1 % 2 = 0) ∧
    (0 < c → x (c - 1) + x c ≤ 2 * y ∧ (x (c - 1) + x c = 2 * y → (codeMag im (c - 1)).1 % 2 = 1))
  else if rm = 1 ∨ (rm = 2 ∧ neg = false) ∨ (rm = 3 ∧ neg = true) then x c ≤ y ∧ y < x (c + 1)
  else y ≤ x c ∧ (0 < c → x (c - 1) < y)

end Sys2Proof.Spec

open Sys2Proof Sys2Proof.Machine Sys2Proof.Spec

/-- R182 to R202: every slot word that writes a vector destination gives each active lane its code, and joins the flags
of those lanes to FLAGS. -/
def Sys2Proof.Spec.SlotArithmetic : Prop :=
  ∀ (i : Instr) (r : SlotRow) (ims : List Image) (s : State) (a : Agent), floatRow i = some r →
    VecReady r.p (r.srcs.map operandCodeOf) [vdstCodeOf r.d] (namedDst r.d ++ r.srcs.flatMap namedOf) s a →
    slotsSteady s a r.slots → slotsHold s a r.slots ims →
    let act := a.active r.p
    ∃ t, exec i s = .next t ∧ VecDone s t a (if r.all then BitVec.allOnes 32 else act) r.d
      (fun j => BitVec.ofNat 32 (r.value ims a act j).1) (anyFlags act fun j => (r.value ims a act j).2)

/-- R190: FCMP writes the predicate bits of the active lanes and its invalid flags. -/
def Sys2Proof.Spec.SlotCompare : Prop :=
  ∀ (p : Pred) (nr : Bool) (sl : BitVec 4) (cc : BitVec 3) (d : PNum) (x y : Operand) (im : Image) (s : State) (a : Agent),
    VecReady p [operandCodeOf x, operandCodeOf y] [] (namedOf x ++ namedOf y) s a →
    slotsSteady s a [(sl, .none, false)] → slotsHold s a [(sl, .none, false)] [im] →
    let act := a.active p
    let r (i : Nat) : Option Ordering := cmpVal (val a im x i) (val a im y i)
    let holds (i : Nat) : Bool := match cc.toNat, r i with
      | 0, o => o == some .eq
      | 1, o => o != some .eq
      | 2, o => o == some .lt
      | 3, o => o == some .lt || o == some .eq
      | 4, o => o == some .gt
      | 5, o => o == some .gt || o == some .eq
      | 6, o => o.isNone
      | _, o => o.isSome
    let invalid (i : Nat) : Bool := decide (2 ≤ cc.toNat) && decide (cc.toNat ≤ 5) && (r i).isNone
    exec (.fcmp p nr sl cc d x y) s = .next (s.setAgent s.cur
      { (a.setP d (bitsWord fun i => if act.getLsbD i then holds i else (a.p d).getLsbD i)).retire with
        flags := a.flags ||| if (lanes act).any invalid then 1#6 else 0#6 })

/-- R154, R186: a slot word traps FORMAT at the first of its slots that does not hold what its entry asks, with the
detail of R154. -/
def Sys2Proof.Spec.SlotFormatTraps : Prop :=
  ∀ (i : Instr) (r : SlotRow) (pre post : List (BitVec 4 × BlockNeed × Bool)) (x : BitVec 4 × BlockNeed × Bool) (ims : List Image)
    (s : State) (a : Agent), floatRow i = some r → MayTrap s a →
    VecReady r.p (r.srcs.map operandCodeOf) [vdstCodeOf r.d] (namedDst r.d ++ r.srcs.flatMap namedOf) s a →
    slotsSteady s a r.slots → r.slots = pre ++ x :: post → slotsHold s a pre ims →
    slotDetail x.2.1 x.2.2 (s.image (quadOf s.cur) a.ctx x.1) ≠ 0 →
    ∃ b, exec i s = .next (s.setAgent s.cur b) ∧
      Entered s a b 0x05 (slotDetail x.2.1 x.2.2 (s.image (quadOf s.cur) a.ctx x.1)) a.wordAddr a.header (a.active r.p) 0

/-- R152, R157, R158: in every float format with subnormals, encode rounds a finite value correctly under each rounding
mode, NX says whether it rounded, and a value that rounds above MAXF gives the result of the format's OVF field. -/
def Sys2Proof.Spec.EncodeRoundsCorrectly : Prop :=
  ∀ (im : Image) (rm : BitVec 2) (sat neg : Bool) (m : Nat) (e : Int), imageOk im = true → im.kind = 0 → im.sub = true → 0 < m →
    (neg = true → im.sign = true) →
    let r := encodeVal im rm.toNat sat (.num neg m e)
    let sign (c : Nat) : Nat := if im.sign && neg then c + 2 ^ (im.ew - 1) else c
    (r.2 &&& 4#6 = 0#6 → ∃ c, c ≤ maxCode im ∧ RoundedCode im rm.toNat neg c (m, e) ∧
      (c ≠ 0 → r.1 = sign c) ∧ (c = 0 → r.1 = if im.nz = 0 then sign 0 else 0) ∧
      (r.2 &&& 16#6 = 0#6 ↔ units (codeMag im c) (min e (1 - im.bias - im.manb)) = units (m, e) (min e (1 - im.bias - im.manb)))) ∧
    (r.2 &&& 4#6 ≠ 0#6 → ∃ c, maxCode im < c ∧ RoundedCode im rm.toNat neg c (m, e) ∧ r.2 = 20#6 ∧
      r.1 = if sat = true ∨ im.ovf = 1 then sign (maxCode im) else if im.ovf = 2 then cnan im
        else if rm = 1 ∨ (rm = 2 ∧ neg = false) ∨ (rm = 3 ∧ neg = true) then sign (maxCode im)
        else sign ((2 ^ im.expb - 1) * 2 ^ im.manb))

/-- R183, R188: the core adds and multiplies finite values exactly; a zero sum is +0, or -0 under RM. -/
def Sys2Proof.Spec.TheCoreIsExact : Prop :=
  ∀ (rm : BitVec 2) (s t : Bool) (m n : Nat) (e f : Int),
    let signed (neg : Bool) (x : Nat × Int) (b : Int) : Int := if neg then -units x b else units x b
    mulVal (.num s m e) (.num t n f) = (.num (s != t) (m * n) (e + f), 0) ∧
    ∃ neg k g, addVal rm.toNat (.num s m e) (.num t n f) = (.num neg k g, 0) ∧
      (∀ b, b ≤ e → b ≤ f → b ≤ g → signed neg (k, g) b = signed s (m, e) b + signed t (n, f) b) ∧
      (k = 0 → 0 < m ∨ 0 < n → neg = (rm == 2#2)) ∧ (m = 0 → n = 0 → k = 0 ∧ neg = if s = t then s else rm == 2#2)

/-! Memory (R237 to R295). -/

namespace Sys2Proof.Spec
open Sys2Proof.Machine

/-- A word that starts an access: its predicate, the register codes it reads and writes, the registers it names (for a
uniform word, one that runs on the uniform path: the s registers), what it does, its record's word number, whether it
names cluster memory, its element width and width code, its address pair and policy, its release and acquire, each
lane's element offset and values, its destination, and whether its elements must be aligned (R265 to R270, R291). -/
structure AccessRow where
  p : Pred
  uniform : Bool
  reads : List Nat
  writes : List Nat
  named : List Nat
  kind : AccKind
  word : Nat
  cm : Bool
  bits : Nat
  ew : Nat
  base : SReg
  pol : SReg
  rel : Option Nat
  acq : Option Nat
  off : Agent → Nat → Int
  data : Agent → Nat → Nat
  cmp : Agent → Nat → Nat
  dst : Option Nat
  aligned : Bool

/-- The bits and the width code of an atomic (R291). -/
def abits : AWidth → Nat
  | .a16 => 16
  | .a32 => 32
  | .a64 => 64
  | .a128 => 128
def acode : AWidth → Nat
  | .a16 => 15
  | .a32 => 31
  | .a64 => 30
  | .a128 => 29
/-- The value of n registers from r upwards, the low word first. -/
def wide (a : Agent) (r n i : Nat) : Nat := (List.range n).foldr (fun j x => (lane (a.v (r + j)) i).toNat * 2 ^ (32 * j) + x) 0
def regsOf (w : AWidth) : Nat := (abits w + 31) / 32
def policyRead (pol : SReg) : List Nat := if pol = 0 then [] else [pol.toNat]

/-- The vector loads and the loads of the uniform path. -/
def loadRow : Instr → Option AccessRow
  | .ld p _ d o base pol ew acq cm => some
      { p, uniform := false, reads := operandCodeOf o :: (base.toNat :: (base.toNat + 1) :: policyRead pol).map sCode, writes := [vdstCodeOf d],
        named := namedDst d ++ namedOf o, kind := .load, word := 4, cm, bits := ew.toNat + 1, ew := ew.toNat, base, pol, rel := none,
        acq := acq.map (·.toNat), off := fun a i => (a.lane o i).toInt, data := fun _ _ => 0, cmp := fun _ _ => 0,
        dst := some (vdstCodeOf d), aligned := false }
  | .ldc p _ d base pol acq cm => some
      { p, uniform := false, reads := (base.toNat :: (base.toNat + 1) :: policyRead pol).map sCode, writes := [vdstCodeOf d],
        named := namedDst d, kind := .load, word := 5, cm, bits := 32, ew := 31, base, pol, rel := none,
        acq := acq.map (·.toNat), off := fun _ i => Int.ofNat i, data := fun _ _ => 0, cmp := fun _ _ => 0,
        dst := some (vdstCodeOf d), aligned := false }
  | .sld p _ d x base pol ew acq cm => some
      { p, uniform := true, reads := x.toNat :: base.toNat :: (base.toNat + 1) :: policyRead pol, writes := [d.toNat],
        named := [], kind := .load, word := 6, cm, bits := ew.toNat + 1, ew := ew.toNat, base, pol, rel := none,
        acq := acq.map (·.toNat), off := fun a _ => (a.s x.toNat).toInt, data := fun _ _ => 0, cmp := fun _ _ => 0,
        dst := some (sCode d.toNat), aligned := false }
  | _ => none

/-- The stores and the atomics. -/
def writeRow : Instr → Option AccessRow
  | .st p _ y o base pol ew rel cm => some
      { p, uniform := false, reads := operandCodeOf y :: operandCodeOf o :: (base.toNat :: (base.toNat + 1) :: policyRead pol).map sCode,
        writes := [], named := namedOf y ++ namedOf o, kind := .store, word := 0, cm, bits := ew.toNat + 1, ew := ew.toNat, base, pol,
        rel := rel.map (·.toNat), acq := none, off := fun a i => (a.lane o i).toInt, data := fun a i => (a.lane y i).toNat % 2 ^ (ew.toNat + 1),
        cmp := fun _ _ => 0, dst := none, aligned := false }
  | .stc p _ y base pol rel cm => some
      { p, uniform := false, reads := operandCodeOf y :: (base.toNat :: (base.toNat + 1) :: policyRead pol).map sCode,
        writes := [], named := namedOf y, kind := .store, word := 1, cm, bits := 32, ew := 31, base, pol,
        rel := rel.map (·.toNat), acq := none, off := fun _ i => Int.ofNat i, data := fun a i => (a.lane y i).toNat,
        cmp := fun _ _ => 0, dst := none, aligned := false }
  | .sst p _ y x base pol ew rel cm => some
      { p, uniform := true, reads := y.toNat :: x.toNat :: base.toNat :: (base.toNat + 1) :: policyRead pol,
        writes := [], named := [], kind := .store, word := 2, cm, bits := ew.toNat + 1, ew := ew.toNat, base, pol,
        rel := rel.map (·.toNat), acq := none, off := fun a _ => (a.s x.toNat).toInt, data := fun a _ => (a.s y.toNat).toNat % 2 ^ (ew.toNat + 1),
        cmp := fun _ _ => 0, dst := none, aligned := false }
  | .atom p _ op w d o base pol ord cm => some
      { p, uniform := false, reads := (List.range (regsOf w)).map (d.toNat + ·) ++ operandCodeOf o :: (base.toNat :: (base.toNat + 1) :: policyRead pol).map sCode,
        writes := (List.range (regsOf w)).map (d.toNat + ·), named := (List.range (regsOf w)).map (d.toNat + ·) ++ namedOf o,
        kind := .atom op.toNat (abits w) true, word := 7, cm, bits := abits w, ew := acode w, base, pol, rel := if ord.rel then some ord.sc.toNat else none,
        acq := if ord.acq then some ord.sc.toNat else none, off := fun a i => (a.lane o i).toInt,
        data := fun a i => wide a d.toNat (regsOf w) i % 2 ^ abits w, cmp := fun _ _ => 0, dst := some d.toNat, aligned := true }
  | .acas p _ w d o base pol ord cm => some
      { p, uniform := false, reads := (List.range (2 * regsOf w)).map (d.toNat + ·) ++ operandCodeOf o :: (base.toNat :: (base.toNat + 1) :: policyRead pol).map sCode,
        writes := (List.range (2 * regsOf w)).map (d.toNat + ·), named := (List.range (2 * regsOf w)).map (d.toNat + ·) ++ namedOf o,
        kind := .cas (abits w), word := 7, cm, bits := abits w, ew := acode w, base, pol, rel := if ord.rel then some ord.sc.toNat else none,
        acq := if ord.acq then some ord.sc.toNat else none, off := fun a i => (a.lane o i).toInt,
        data := fun a i => wide a (d.toNat + regsOf w) (regsOf w) i, cmp := fun a i => wide a d.toNat (regsOf w) i,
        dst := some d.toNat, aligned := true }
  | .atomn p _ op w y o base pol rel cm => some
      { p, uniform := false,
        reads := (operandCodeOf y :: if w = .a64 then [operandCodeOf (Operand.succ y)] else []) ++
          operandCodeOf o :: (base.toNat :: (base.toNat + 1) :: policyRead pol).map sCode,
        writes := [], named := (namedOf y ++ if w = .a64 then namedOf (Operand.succ y) else []) ++ namedOf o,
        kind := .atom op.toNat (abits w) false, word := 3, cm, bits := abits w, ew := acode w, base, pol, rel := rel.map (·.toNat),
        acq := none, off := fun a i => (a.lane o i).toInt,
        data := fun a i => ((a.lane y i).toNat + if w = .a64 then (a.lane (Operand.succ y) i).toNat * 2 ^ 32 else 0) % 2 ^ abits w,
        cmp := fun _ _ => 0, dst := none, aligned := true }
  | _ => none

/-- The word may issue: nothing it names awaits a result, and it is active. -/
abbrev AccessRow.Ready (r : AccessRow) (s : State) (a : Agent) : Prop :=
  if r.uniform then UniReady .all false r.writes r.p r.reads s a else VecReady r.p r.reads r.writes r.named s a
def AccessRow.codes (r : AccessRow) : List Nat := if r.uniform then r.writes.map sCode else r.writes
def AccessRow.lanes (r : AccessRow) (a : Agent) : List Nat := if r.uniform then [0] else Spec.lanes (a.active r.p)
/-- The bit of memory at which lane i's element begins (R244): 8 × base + width × offset. -/
def AccessRow.bit (r : AccessRow) (a : Agent) (i : Nat) : Int := 8 * Int.ofNat (a.pair r.base.toNat).toNat + Int.ofNat r.bits * r.off a i
def AccessRow.policy (r : AccessRow) (a : Agent) : Option Word := if r.pol = 0 then none else some (a.s r.pol.toNat)
/-- The access as it stands in flight, lane by lane. -/
def AccessRow.access (r : AccessRow) (a : Agent) : Access :=
  let m := bitsWord fun i => (r.lanes a).contains i
  { id := a.ids, kind := r.kind, word := r.word, space := if r.cm then 1 else 0, ew := r.ew, base := a.pair r.base.toNat, pol := r.policy a,
    lanes := (r.lanes a).map fun i => { lane := i, bit := r.bit a i, data := r.data a i, cmp := r.cmp a i, value := 0, got := [] },
    todo := m, pend := m, faulted := 0, codes := [], dst := r.dst, run := a.runs, sup := a.sv, told := false, acq := r.acq,
    l1 := match r.policy a with | some w => !w.getLsbD 26 | none => true, memo := none }
/-- The agent once the word has issued: a reserved policy bit has set WARN (R260), and loads it overwrites are gone. -/
def AccessRow.agent (r : AccessRow) (a : Agent) : Agent :=
  { a.discard r.codes with warn := a.warn || match r.policy a with | some w => decide (w.toNat / 2 ^ 28 ≠ 0) | none => false }

/-- An element a quadrant lets pass (R240, R241, R255, R404): cluster elements lie in the team's own allocation, whose access
table admits the quadrant, or name another team's; global ones lie in a space of the context. -/
abbrev elementOk (s : State) (a : Agent) (cm : Bool) (base : Dword) (w : Nat) (b : Int) : Prop :=
  if cm then
    base.getLsbD 31 = true ∨ (base.toNat / 2 ^ 22 % 2 ^ 9 = 0 ∧ base.toNat / 2 ^ 32 = 0 ∧ s.clusterAdmits a = true ∧ ∃ t ∈ s.team? a.team,
      8 * Int.ofNat base.toNat ≤ b + 8 * Int.ofNat (base.toNat % 2 ^ 22) ∧
      b - 8 * Int.ofNat base.toNat + 8 * Int.ofNat (base.toNat % 2 ^ 22) + Int.ofNat w ≤ 8 * Int.ofNat t.csize)
  else 0 ≤ b ∧ (s.spaceOf a.ctx (b / 8).toNat).isSome = true ∧ (s.spaceOf a.ctx ((b + Int.ofNat w - 1) / 8).toNat).isSome = true
abbrev AccessRow.NoFault (r : AccessRow) (s : State) (a : Agent) : Prop :=
  (a.pair r.base.toNat).toNat % 4 = 0 ∧
  ∀ i ∈ r.lanes a, (r.aligned = true → r.bit a i % Int.ofNat r.bits = 0) ∧
    elementOk s a r.cm (a.pair r.base.toNat) r.bits (r.bit a i)
/-- No acquire is awaited, still out or parked (R281), and a release may take place: every earlier access is out, and no
faulted store is held (R287); a load that has faulted holds it back no longer (R407). -/
abbrev AccessRow.Ordered (r : AccessRow) (s : State) (a : Agent) : Prop :=
  (∀ x ∈ a.accs, x.acq.isSome = true → x.pend = 0 ∧ a.sees x = false) ∧
  (r.rel ≠ none → (∀ x ∈ a.accs, x.pend = 0 ∧ (x.dst = none → x.faulted = 0 ∨ a.sv = true)) ∧
    ∀ c ∈ (s.quad (quadOf s.cur)).queue, c.agent ≠ s.cur)
/-- There is room for it: 128 results in flight to the vector registers of a quadrant (R114), 64 store records in an agent
(R377). -/
abbrev AccessRow.Room (r : AccessRow) (s : State) (a : Agent) : Prop :=
  ((r.access a).results ≠ 0 → (s.overwrite s.cur a r.codes).1.inFlight (quadOf s.cur) + (r.access a).results ≤ 128) ∧
  (r.dst = none → (a.accs.filter fun x => x.dst.isNone).length < 64)

/-- The state after the agent's release: its earlier stores are released in the runs that others hold (R45, R281). -/
def releasedBy (s : State) (a : Agent) (rel : Option Nat) : State := match rel with | some sc => s.released a sc | none => s
/-- The quadrant's L1, reuse table and fetched runs aside, only the issuing agent differs. -/
def SameButL1 (s t : State) (k : Nat) : Prop :=
  t = { s with agents := t.agents, quads := t.quads } ∧ SameOthers s t k ∧ (∀ q, q ≠ quadOf k → t.quad q = s.quad q) ∧
  t.quad (quadOf k) = { s.quad (quadOf k) with l1 := (t.quad (quadOf k)).l1, rt := (t.quad (quadOf k)).rt, fetched := (t.quad (quadOf k)).fetched }

/-- Bit b of a memory (R1). -/
def memBit (m : Memory) (b : Nat) : Bool := (m.read (b / 8)).getLsbD (b % 8)
/-- Memory n is memory m with w bits from bit b replaced by those of v, and every other bit as it was. -/
def BitsWritten (m n : Memory) (b w v : Nat) : Prop :=
  ∀ i, memBit n i = if b ≤ i ∧ i < b + w then v.testBit (i - b) else memBit m i
/-- v is the number the w bits from bit b of a memory hold. -/
def BitsRead (m : Memory) (b w v : Nat) : Prop := ∀ i, v.testBit i = (decide (i < w) && memBit m (b + i))
/-- All memories but one are as before. -/
def SameMemoryBut (s t : State) (dev host sys cluster lane : Bool) : Prop :=
  (dev = false → ∀ n, t.dmem.read n = s.dmem.read n) ∧ (host = false → ∀ n, t.hmem.read n = s.hmem.read n) ∧
  (sys = false → ∀ n, t.sysm.read n = s.sysm.read n) ∧ (cluster = false → ∀ n, t.cmem.read n = s.cmem.read n) ∧
  (lane = false → ∀ n, t.lmem.read n = s.lmem.read n) ∧ ∀ n, t.savm.read n = s.savm.read n

/-- The two's-complement number of w bits. -/
def twos (w x : Nat) : Int := if x < 2 ^ (w - 1) then Int.ofNat x else Int.ofNat x - 2 ^ w
/-- What an access leaves at an element that held old (R268, R292, R294): none where it writes nothing. -/
def leaves (k : AccKind) (data cmp old : Nat) : Option Nat :=
  match k with
  | .load | .probe => none
  | .store => some data
  | .cas _ => if old = cmp then some data else none
  | .atom op w _ =>
    let less (x y : Nat) : Bool := decide (twos w x < twos w y)
    some (match op with
      | 0 => (old + data) % 2 ^ w
      | 1 => if less data old then data else old
      | 2 => min old data
      | 3 => if less old data then data else old
      | 4 => max old data
      | 5 => old &&& data
      | 6 => old ||| data
      | 7 => old ^^^ data
      | 8 => data
      | 9 => if data ≤ old then 0 else old + 1
      | 10 => if old = 0 ∨ data < old then data else old - 1
      | _ =>
        let im := if w = 16 then bf16 else fp32
        match (addVal 0 (decodeCode im old) (decodeCode im data)).1 with
        | .nan _ => if w = 16 then 0x7FC0 else 0x7FC00000
        | v => (encodeVal im 0 false v).1)
/-- An access after lane i has been performed with a value, or has faulted (R248, R255). -/
def laneDone (x : Access) (i v : Nat) : Access :=
  { x with lanes := x.lanes.map fun l => if l.lane = i then { l with value := v } else l, todo := x.todo &&& ~~~(1#32 <<< i) }
/-- A lane of a write keeps which of its two chunks refused it, the model's own note (log 41). -/
def laneFault (x : Access) (i code at_ : Nat) : Access :=
  { x with lanes := x.lanes.map (fun l => if l.lane = i && x.dst.isNone then { l with value := at_ } else l), todo := x.todo &&& ~~~(1#32 <<< i), faulted := x.faulted ||| 1#32 <<< i, codes := x.codes ++ [(i, code)] }
def replaceAccess (a : Agent) (x : Access) : Agent := { a with accs := a.accs.map fun y => if y.id = x.id then x else y }
/-- The registers of agent b that an access delivers to hold, lane by lane, the values its lanes returned (R272, R291); a
register given back since takes none (R108). -/
def Delivered (x : Access) (a b : Agent) (good : LaneAcc → Prop) : Prop :=
  (∀ j n, x.dsts[j]? = some (vCode n) → n < 256 → a.hasV n = true → ∀ l ∈ x.lanes, good l → lane (b.v n) l.lane = BitVec.ofNat 32 (l.value / 2 ^ (32 * j))) ∧
  (∀ j n, x.dsts[j]? = some (tCode n) → n < 8 → x.run = a.runs → a.run ≠ none → ∀ l ∈ x.lanes, good l →
    lane (b.t n) l.lane = BitVec.ofNat 32 (l.value / 2 ^ (32 * j))) ∧
  ∀ n l, x.dst = some (sCode n) → 0 < n → x.lanes = [l] → good l → b.s n = BitVec.ofNat 32 l.value
/-- The row of an address is not throttled, and no earlier request of the partition waits for it (R264). -/
abbrev RowFree (s : State) (ctx va : Nat) : Prop :=
  ∀ c row th, s.rowAt ctx va = some (c, row, th) → th = false ∧ s.sideQueue c row = []
/-- Lane l of access x of agent a is the next to be performed: no earlier access, nor a lower lane of its own, holds it
back, and no faulted write of its chunk does (R244, R279, R377); no byte of it has gone ahead (R277). -/
abbrev LaneNext (s : State) (a : Agent) (x : Access) (l : LaneAcc) : Prop :=
  (a.accs.find? fun y => y.id == x.id) = some x ∧ (x.lanes.find? fun m => m.lane == l.lane) = some l ∧
  x.todo.getLsbD l.lane = true ∧ l.got = [] ∧ s.laneBlocked a x l = false ∧ s.heldBy a x l = none

end Sys2Proof.Spec

open Sys2Proof Sys2Proof.Machine Sys2Proof.Spec

/-- R265 to R270, R272, R285: a load enters flight with its elements' addresses and changes no memory. Lanes whose lines
the L1 holds may be served at once, with the L1's bytes, unless the lines have just been evicted, which then leave the L1;
where all are, the load returns. What `memo` keeps for the reuse table (R273) is left open. -/
def Sys2Proof.Spec.LoadsIssue : Prop :=
  ∀ (i : Instr) (r : AccessRow) (s : State) (a : Agent), loadRow i = some r → s.agent? s.cur = some a → r.Ready s a →
    r.NoFault s a → r.Ordered s a → r.Room s a →
    let x := r.access a
    let b := r.agent a
    let hit (l : LaneAcc) : Option Nat := if r.cm then none else s.l1Value s.cur b x l
    let some_ : Prop := ∃ l ∈ x.lanes, hit l ≠ none
    ∃ (t : State) (served : Bool) (memo : Option Memo), exec i s = .next t ∧ SameMemory s t ∧ SameOthers s t s.cur ∧
      let got (l : LaneAcc) : Option Nat := if served then hit l else none
      let y : Access := { x with
        lanes := x.lanes.map fun l => { l with value := (got l).getD 0 }
        todo := bitsWord fun i => x.lanes.any fun l => l.lane == i && (got l).isNone
        memo := memo }
      let flying := ({ b with accs := b.accs ++ [y], ids := a.ids + 1 } : Agent).retire
      ((∃ l ∈ x.lanes, got l = none) →
        (some_ → served = true → t = ({ s with fresh := s.fresh + 1 } : State).setAgent s.cur flying) ∧
        (some_ → served = false → t = (({ s with fresh := s.fresh + 1 } : State).setQuad (quadOf s.cur)
          ((s.quad (quadOf s.cur)).dropLines (s.accessLines b x))).setAgent s.cur flying) ∧
        (¬ some_ → t = s.setAgent s.cur flying)) ∧
      ((∀ l ∈ x.lanes, got l ≠ none) →
        ∃ c, t.agent? s.cur = some c ∧ c.accs.filter (fun y => y.id != a.ids) = b.accs.filter (fun y => y.id != a.ids) ∧
          Delivered y a c (fun _ => True) ∧
          c.qreg = a.qreg ∧ c.preg = a.preg ∧ c.flags = a.flags ∧ SamePlace a c)

/-- R265 to R270, R287, R291, R377: a store or an atomic enters flight with its elements' addresses and data; memory
changes only when its lanes are performed. A release takes place (R281, R287). -/
def Sys2Proof.Spec.WritesIssue : Prop :=
  ∀ (i : Instr) (r : AccessRow) (s : State) (a : Agent), writeRow i = some r → s.agent? s.cur = some a → r.Ready s a →
    r.NoFault s a → r.Ordered s a → r.Room s a →
    let u := releasedBy s a r.rel
    ∃ t, exec i s = .next t ∧ SameButL1 u t s.cur ∧ (t.quad (quadOf s.cur)).fetched = (u.quad (quadOf s.cur)).fetched ∧
      t.agent? s.cur = some ({ r.agent a with
        accs := (r.agent a).accs ++ [r.access a], ids := a.ids + 1,
        rewindable := if r.kind = .store then a.rewindable else false } : Agent).retire ∧
      (r.cm = true → t.quad (quadOf s.cur) = u.quad (quadOf s.cur))

/-- R243, R255, R256, R374: an access word whose elements are misaligned, or leave their space, traps MEM before any
effect: the lowest code, the lanes of that code, and the address of the lowest of them. That SLD and SST report lane 0 as their lane is
the model's reading (log 22). -/
def Sys2Proof.Spec.AccessFaultsArePrecise : Prop :=
  ∀ (i : Instr) (r : AccessRow) (m : Mask) (j : Nat) (s : State) (a : Agent), loadRow i = some r ∨ writeRow i = some r →
    MayTrap s a → r.Ready s a → j < 32 → m.getLsbD j = true → (∀ n, n < j → m.getLsbD n = false) →
    let bad (n : Nat) : Prop := (a.pair r.base.toNat).toNat % 4 ≠ 0 ∨ (r.aligned = true ∧ r.bit a n % Int.ofNat r.bits ≠ 0)
    let off (n : Nat) : Prop := ¬ elementOk s a r.cm (a.pair r.base.toNat) r.bits (r.bit a n)
    let traps (code : Nat) : Prop := ∃ b, exec i s = .next (s.setAgent s.cur b) ∧
      Entered s a b 0x09 (code + 65536 * min a.heldCount 255) a.wordAddr a.header m (r.bit a j / 8 % 2 ^ 64).toNat
    ((∀ n, n < 32 → (m.getLsbD n = true ↔ n ∈ r.lanes a ∧ bad n)) → traps 1) ∧
    ((∀ n ∈ r.lanes a, ¬ bad n) → (∀ n, n < 32 → (m.getLsbD n = true ↔ n ∈ r.lanes a ∧ off n)) → traps (if r.cm then 3 else 2))

/-- R241, R244, R248, R292: one lane of an access to cluster memory reads its element's bits, and leaves what the
access leaves there; every other bit of every memory stays. -/
def Sys2Proof.Spec.ClusterLanePerforms : Prop :=
  ∀ (ag : Nat) (s : State) (a : Agent) (x : Access) (l : LaneAcc) (t : Team), s.agent? ag = some a → LaneNext s a x l → x.space = 1 →
    s.clusterTeam a x.base.toNat = some t →
    let rel := l.bit - 8 * Int.ofNat x.base.toNat + 8 * Int.ofNat (x.base.toNat % 2 ^ 22)
    let b := 8 * (clusterOf t.quad * 2 ^ 32 + t.cbase) + rel.toNat
    (0 ≤ rel → rel + Int.ofNat x.width ≤ 8 * Int.ofNat t.csize →
      ∃ u old, exec (.cgAccess ag x.id ⟨l.lane, none⟩) s = .next u ∧ BitsRead s.cmem b x.width old ∧
        u = { s with agents := u.agents, cmem := u.cmem } ∧ SameOthers s u ag ∧
        u.agent? ag = some (replaceAccess a (laneDone x l.lane (if x.kind = .probe then 0 else old))) ∧
        match leaves x.kind l.data l.cmp old with
        | some v => BitsWritten s.cmem u.cmem b x.width v
        | none => ∀ n, u.cmem.read n = s.cmem.read n) ∧
    (rel < 0 ∨ 8 * Int.ofNat t.csize < rel + Int.ofNat x.width →
      ∃ at_, exec (.cgAccess ag x.id ⟨l.lane, none⟩) s = .next (s.setAgent ag (replaceAccess a (laneFault x l.lane 3 at_))))

/-- R241, R277: one byte of an element of a load or a store to cluster memory that no single access reads or writes goes
ahead of the rest: the bits of the element that lie in the byte are read, and for a store written; every other bit stays. -/
def Sys2Proof.Spec.ClusterBytePerforms : Prop :=
  ∀ (ag : Nat) (s : State) (a : Agent) (x : Access) (l : LaneAcc) (t : Team) (j : Nat), s.agent? ag = some a → LaneNext s a x l →
    x.space = 1 → x.kind = .load ∨ x.kind = .store → l.bit / 32 ≠ (l.bit + Int.ofNat x.width - 1) / 32 →
    s.clusterTeam a x.base.toNat = some t →
    let first := max l.bit (8 * (l.bit / 8 + Int.ofNat j))
    let last := min (l.bit + Int.ofNat x.width) (8 * (l.bit / 8 + Int.ofNat j) + 8)
    let rel := first - 8 * Int.ofNat x.base.toNat + 8 * Int.ofNat (x.base.toNat % 2 ^ 22)
    let w := (last - first).toNat
    let b := 8 * (clusterOf t.quad * 2 ^ 32 + t.cbase) + rel.toNat
    first < last → 0 ≤ rel → rel + Int.ofNat w ≤ 8 * Int.ofNat t.csize →
    ∃ u v, exec (.cgAccess ag x.id ⟨l.lane, some j⟩) s = .next u ∧ BitsRead s.cmem b w v ∧
      u = { s with agents := u.agents, cmem := u.cmem } ∧ SameOthers s u ag ∧
      u.agent? ag = some (replaceAccess a { x with lanes := x.lanes.map fun m => if m.lane = l.lane then { l with got := [(j, v)] } else m }) ∧
      if x.kind = .store then BitsWritten s.cmem u.cmem b w (l.data / 2 ^ (first - l.bit).toNat) else ∀ n, u.cmem.read n = s.cmem.read n

/-- R244, R247, R248, R292: one lane of an access to a chunk of device memory that holds a frame, whose translation
succeeds, whose units are sound and whose row is not throttled, reads its element's bits at their place and leaves what the
access leaves there. -/
def Sys2Proof.Spec.DeviceLanePerforms : Prop :=
  ∀ (ag : Nat) (s s1 : State) (a : Agent) (x : Access) (l : LaneAcc) (c sid va e : Nat) (ch : Chunk), s.agent? ag = some a → LaneNext s a x l →
    x.space = 0 → 0 ≤ l.bit → x.width ≤ 128 → 0 < x.width →
    (l.bit / 8).toNat / 4096 = ((l.bit + Int.ofNat x.width - 1) / 8).toNat / 4096 → inLeafWindow (l.bit / 8).toNat = false →
    s.translate (quadOf ag) a.ctx (l.bit / 8).toNat x.need = .ok (.device c sid va e, s1) →
    RowFree s a.ctx (l.bit / 8).toNat →
    tabGet (s1.cg c).chunks (chunkKey sid va) = some ch → ch.gran = pteGran e → (s1.cg c).errors = [] → (s1.cg c).poison = [] →
    let b := 8 * devKey sid va + (l.bit % 8).toNat
    ∃ u old, exec (.cgAccess ag x.id ⟨l.lane, none⟩) s = .next u ∧ BitsRead s.dmem b x.width old ∧ SameOthers s u ag ∧
      SameMemoryBut s u true false true false false ∧
      u.agent? ag = some (replaceAccess a (laneDone x l.lane (if x.kind = .probe then 0 else old))) ∧
      match leaves x.kind l.data l.cmp old with
      | some v => BitsWritten s.dmem u.dmem b x.width v
      | none => ∀ n, u.dmem.read n = s.dmem.read n

/-- R248: a chunk with no frame reads as zero, and a load takes none for it. -/
def Sys2Proof.Spec.UnallocatedChunkReadsZero : Prop :=
  ∀ (ag : Nat) (s s1 : State) (a : Agent) (x : Access) (l : LaneAcc) (c sid va e : Nat), s.agent? ag = some a → LaneNext s a x l →
    x.space = 0 → x.kind = .load → 0 ≤ l.bit →
    (l.bit / 8).toNat / 4096 = ((l.bit + Int.ofNat x.width - 1) / 8).toNat / 4096 → inLeafWindow (l.bit / 8).toNat = false →
    s.translate (quadOf ag) a.ctx (l.bit / 8).toNat .read = .ok (.device c sid va e, s1) → tabGet (s1.cg c).chunks (chunkKey sid va) = none →
    ∃ u, exec (.cgAccess ag x.id ⟨l.lane, none⟩) s = .next u ∧ u.agent? ag = some (replaceAccess a (laneDone x l.lane 0)) ∧
      SameOthers s u ag ∧ SameMemoryBut s u false false true false false ∧ ∀ c, (u.cg c).chunks = (s.cg c).chunks

/-- R252, R290: the hub performs a lane whose leaf is host memory. -/
def Sys2Proof.Spec.HostLanePerforms : Prop :=
  ∀ (ag : Nat) (s s1 : State) (a : Agent) (x : Access) (l : LaneAcc) (pa e : Nat), s.agent? ag = some a → LaneNext s a x l →
    x.space = 0 → 0 ≤ l.bit → x.width ≤ 128 → 0 < x.width →
    (l.bit / 8).toNat / 4096 = ((l.bit + Int.ofNat x.width - 1) / 8).toNat / 4096 → inLeafWindow (l.bit / 8).toNat = false →
    s.translate (quadOf ag) a.ctx (l.bit / 8).toNat x.need = .ok (.host pa e, s1) →
    let offered : Prop := match x.kind with
      | .atom op w _ => (op = 0 ∨ op = 8) ∧ (w = 32 ∨ w = 64)
      | .cas w => w = 32 ∨ w = 64 ∨ w = 128
      | _ => True
    let b := 8 * pa + (l.bit % 8).toNat
    (offered → ∃ u old, exec (.hubAccess ag x.id ⟨l.lane, none⟩) s = .next u ∧ BitsRead s.hmem b x.width old ∧ SameOthers s u ag ∧
      SameMemoryBut s u false true true false false ∧
      u.agent? ag = some (replaceAccess a (laneDone x l.lane (if x.kind = .probe then 0 else old))) ∧
      match leaves x.kind l.data l.cmp old with
      | some v => BitsWritten s.hmem u.hmem b x.width v
      | none => ∀ n, u.hmem.read n = s.hmem.read n) ∧
    (¬ offered → ∃ at_, exec (.hubAccess ag x.id ⟨l.lane, none⟩) s = .next (s.setAgent ag (replaceAccess a (laneFault x l.lane 6 at_))))

/-- R252, R288, R290: the hub sends a lane whose leaf names a peer context as one packet to that context, which is the
access's own until the peer has acknowledged it; what a peer's read returns is free. How the packet
is laid out is the model's choice (log 28). -/
def Sys2Proof.Spec.PeerLanePerforms : Prop :=
  ∀ (ag : Nat) (s s1 : State) (a : Agent) (x : Access) (l : LaneAcc) (en pva e : Nat), s.agent? ag = some a → LaneNext s a x l →
    x.space = 0 → 0 ≤ l.bit → x.width ≤ 128 → 0 < x.width →
    (l.bit / 8).toNat / 4096 = ((l.bit + Int.ofNat x.width - 1) / 8).toNat / 4096 → inLeafWindow (l.bit / 8).toNat = false →
    s.translate (quadOf ag) a.ctx (l.bit / 8).toNat x.need = .ok (.peer en pva e, s1) →
    ∃ u v, exec (.hubAccess ag x.id ⟨l.lane, none⟩) s = .next u ∧ SameOthers s u ag ∧ SameMemoryBut s u false false true false false ∧
      u.agent? ag = some (replaceAccess a (laneDone x l.lane (if x.kind = .probe then 0 else v))) ∧
      u.hub.outbox = s.hub.outbox ++ [{
        session := some (en / 2 ^ 24), owner := some (a.uid, x.id),
        packet := .access (en % 2 ^ 16) (en / 2 ^ 16 % 16) pva (byteSpan l.bit x.width) (x.request l) }]

/-- A leaf after a store of new bits to it (R417): a live mapping of which only A and D would change keeps those that are set. -/
def Sys2Proof.Spec.leafKept (held new : Nat) : Nat :=
  if held.testBit 0 = true ∧ ∀ i, i < 64 → i ≠ 6 → i ≠ 7 → held.testBit i = new.testBit i then new ||| (held &&& 0xC0) else new

/-- R417: SLD and SST of a handler within the leaf window read and write the leaf of a page of the reservation. -/
def Sys2Proof.Spec.LeafLanePerforms : Prop :=
  ∀ (ag : Nat) (s : State) (a : Agent) (x : Access) (l : LaneAcc) (sid e : Nat) (sp : Space), s.agent? ag = some a → LaneNext s a x l →
    x.space = 0 → x.word = 2 ∨ x.word = 6 → x.sup = true → 0 ≤ l.bit → 0 < x.width → inLeafWindow (l.bit / 8).toNat = true →
    RowFree s a.ctx (l.bit / 8).toNat →
    let b := (l.bit % 64).toNat
    let at_ := (l.bit / 8).toNat - leafWindow
    b + x.width ≤ 64 → s.spaceOf a.ctx (l.bit / 8).toNat = some sid → s.space? sid = some sp → at_ + byteSpan l.bit x.width ≤ 8 * sp.nrp →
    leafAddr (s.pte sp.owner) (sp.resBase + at_ / 8 * 65536) ptLevels sp.root = some e →
    let held := s.pte sp.owner e
    let old := held / 2 ^ b % 2 ^ x.width
    ∃ u, exec (.cgAccess ag x.id ⟨l.lane, none⟩) s = .next u ∧ u = { s with agents := u.agents, sysm := u.sysm } ∧ SameOthers s u ag ∧
      u.agent? ag = some (replaceAccess a (laneDone x l.lane (if x.kind = .probe then 0 else old))) ∧
      match leaves x.kind l.data l.cmp old with
      | some v => ∃ new, (∀ i, new.testBit i = if b ≤ i ∧ i < b + x.width then v.testBit (i - b) else held.testBit i) ∧
          BitsWritten s.sysm u.sysm (8 * sysKey sp.owner e) 64 (leafKept held new)
      | none => ∀ n, u.sysm.read n = s.sysm.read n

/-- R256, R277: a load or a store of an element across two 4 KiB chunks is two accesses, one in each, in order: a load
joins what they read, a store to device memory leaves its low bits in the first and its high bits in the second. Where both
fail the lane has the lower code of R255; where one fails it has that one's, and whether the other has taken place is free
(log 41). -/
def Sys2Proof.Spec.CrossingLanePerforms : Prop :=
  ∀ (ag : Nat) (s : State) (a : Agent) (x : Access) (l : LaneAcc) (v₁ n₁ v₂ n₂ : Nat), s.agent? ag = some a → LaneNext s a x l →
    x.space = 0 → x.kind = .load ∨ x.kind = .store → 0 ≤ l.bit → 0 < x.width → inLeafWindow (l.bit / 8).toNat = false →
    piecesOf (l.bit / 8).toNat (byteSpan l.bit x.width) = [(v₁, n₁), (v₂, n₂)] →
    RowFree s a.ctx v₁ → RowFree s a.ctx v₂ →
    let o := (l.bit % 8).toNat
    let w := 8 * n₁ - o
    let all (bs : List Byte) : List Byte := putElement bs l.bit x.width l.data
    let one (c : State) : Except Nat (List Byte × Loc × State) := c.performPiece (quadOf ag) a.ctx v₁ n₁ x.need x.msOp x.kind x.pol (x.request l ++ [0]) fun bs =>
      if x.kind = .store then some ((all (bs ++ List.replicate n₂ 0)).take n₁) else none
    let two (c : State) : Except Nat (List Byte × Loc × State) := c.performPiece (quadOf ag) a.ctx v₂ n₂ x.need x.msOp x.kind x.pol (x.request l ++ [n₁]) fun bs =>
      if x.kind = .store then some (((all (List.replicate n₁ 0 ++ bs)).drop n₁).take n₂) else none
    let act : Instr := if s.atHub a.ctx v₁ || s.atHub a.ctx v₂ then .hubAccess ag x.id ⟨l.lane, none⟩ else .cgAccess ag x.id ⟨l.lane, none⟩
    (∀ b₁ c₁ s₁ b₂ c₂ s₂, one s = .ok (b₁, c₁, s₁) → two s₁ = .ok (b₂, c₂, s₂) →
      ∃ u, exec act s = .next u ∧ SameOthers s u ag ∧ u.dmem = s₂.dmem ∧ u.hmem = s₂.hmem ∧ u.cmem = s.cmem ∧ u.lmem = s.lmem ∧
        u.agent? ag = some (replaceAccess a (laneDone x l.lane (natOfBytes (b₁ ++ b₂) / 2 ^ o % 2 ^ x.width))) ∧
        (x.kind = .load → u.dmem = s.dmem ∧ u.hmem = s.hmem) ∧
        ∀ g₁ d₁ p₁ e₁ g₂ d₂ p₂ e₂, x.kind = .store → c₁ = .device g₁ d₁ p₁ e₁ → c₂ = .device g₂ d₂ p₂ e₂ → ∃ m,
          BitsWritten s.dmem m (8 * devKey d₁ p₁ + o) w l.data ∧ BitsWritten m u.dmem (8 * devKey d₂ p₂) (x.width - w) (l.data / 2 ^ w)) ∧
    (∀ c₁ c₂, one s = .error c₁ → two s = .error c₂ → min c₁ c₂ ≠ 100 →
      ∃ at_, exec act s = .next (s.setAgent ag (replaceAccess a (laneFault x l.lane (min c₁ c₂) at_)))) ∧
    (∀ c₁ r s₂, one s = .error c₁ → two s = .ok (r, s₂) → c₁ ≠ 100 →
      ∃ u at_, exec act s = .next u ∧ SameOthers s u ag ∧ u.agent? ag = some (replaceAccess a (laneFault x l.lane c₁ at_)) ∧
        ((u.dmem = s.dmem ∧ u.hmem = s.hmem) ∨ (u.dmem = s₂.2.dmem ∧ u.hmem = s₂.2.hmem))) ∧
    ∀ r s₁ c₂, one s = .ok (r, s₁) → two s₁.2 = .error c₂ → c₂ ≠ 100 →
      ∃ u at_, exec act s = .next u ∧ SameOthers s u ag ∧ u.agent? ag = some (replaceAccess a (laneFault x l.lane c₂ at_)) ∧
        ((u.dmem = s.dmem ∧ u.hmem = s.hmem) ∨ (u.dmem = s₁.2.dmem ∧ u.hmem = s₁.2.hmem))

/-- R250, R255, R377: a lane whose translation fails (its row not throttled), or whose chunk an earlier write of its agent faulted in, faults
with that code and changes no memory. That a walk which faults leaves no lease and sets no A bit is the model's reading (log 30). -/
def Sys2Proof.Spec.LaneFaultsAreRecorded : Prop :=
  ∀ (ag : Nat) (s : State) (a : Agent) (x : Access) (l : LaneAcc) (code : Nat), s.agent? ag = some a →
    (a.accs.find? fun y => y.id == x.id) = some x → (x.lanes.find? fun m => m.lane == l.lane) = some l →
    x.todo.getLsbD l.lane = true → s.laneBlocked a x l = false → l.got = [] → x.space = 0 → 0 ≤ l.bit → 0 < x.width →
    (l.bit / 8).toNat / 4096 = ((l.bit + Int.ofNat x.width - 1) / 8).toNat / 4096 → inLeafWindow (l.bit / 8).toNat = false →
    (∃ c, s.heldBy a x l = some (code, c)) ∨
      (s.heldBy a x l = none ∧ RowFree s a.ctx (l.bit / 8).toNat ∧ s.translate (quadOf ag) a.ctx (l.bit / 8).toNat x.need = .error code) →
    ∃ at_, exec (if s.atHub a.ctx (l.bit / 8).toNat then .hubAccess ag x.id ⟨l.lane, none⟩ else .cgAccess ag x.id ⟨l.lane, none⟩) s =
      .next (s.setAgent ag (replaceAccess a (laneFault x l.lane code at_)))

/-- R272, R376: a load or atomic whose lanes have all been performed delivers them; where some have faulted it delivers
the others and is parked; one of a peer's awaits the peer (R288). (An MREADV, which stands as an access of space 2, is the subject of VisibleBankReads.) -/
def Sys2Proof.Spec.LoadsReturn : Prop :=
  ∀ (ag : Nat) (s : State) (a : Agent) (x : Access), s.agent? ag = some a → (a.accs.find? fun y => y.id == x.id) = some x →
    x.dst.isSome = true → x.space ≠ 2 → x.pend ≠ 0 → x.todo = 0 → s.sentBy a.uid x.id = false → (x.lanes.map (·.lane)).Nodup → (∀ l ∈ x.lanes, l.lane < 32) →
    ∃ t b, exec (.loadValueReturn ag x.id) s = .next t ∧ t.agent? ag = some b ∧ SameMemory s t ∧ SameOthers s t ag ∧
      Delivered x a b (fun l => x.faulted.getLsbD l.lane = false ∨ x.faulted = 0) ∧
      (x.faulted = 0 → b.accs = a.accs.filter fun y => y.id != x.id) ∧
      (x.faulted ≠ 0 → b.accs = (replaceAccess a { x with pend := 0, memo := none }).accs) ∧
      b.qreg = a.qreg ∧ b.preg = a.preg ∧ b.flags = a.flags ∧ b.run = a.run ∧ SamePlace a b

/-- R287, R377: an acknowledged store or ATOMN leaves its agent, or stays as a held record where lanes have faulted; a
resumed agent's replay is over when none is out. -/
def Sys2Proof.Spec.StoresAreAcknowledged : Prop :=
  ∀ (ag : Nat) (s : State) (a : Agent) (x : Access), s.agent? ag = some a → (a.accs.find? fun y => y.id == x.id) = some x →
    x.dst = none → x.pend ≠ 0 → x.todo = 0 → s.sentBy a.uid x.id = false → ag < orphanBase →
    let after (b : Agent) : Agent := { b with restoring := b.restoring && b.accs.any fun y => y.dst.isNone && y.pend != 0 }
    (x.faulted = 0 → exec (.storeAck ag x.id) s = .next (s.setAgent ag (after { a with accs := a.accs.filter fun y => y.id != x.id }))) ∧
    (x.faulted ≠ 0 → a.ended = false →
      exec (.storeAck ag x.id) s = .next (s.setAgent ag (after (replaceAccess a { x with pend := 0 }))))

/-- R376: at a run boundary a parked load of which a faulting lane is left traps MEM with kind 1. -/
def Sys2Proof.Spec.ParkedLoadsTrap : Prop :=
  ∀ (ag : Nat) (s : State) (a : Agent) (x : Access) (xs : List Access), s.agent? ag = some a → isSeq ag = false → a.sv = false →
    s.hvec a ≠ 0 → a.run = none → a.runsNow = true →
    let c := Agent.dropGone ag { a with which := a.nextWhich, last := a.nextWhich }
    c.accs.filter (fun y => y.parked) = x :: xs →
    ∃ b, exec (.parkedLoadTrap ag) s = .next (s.setAgent ag b) ∧
      Entered s c b 0x09 (x.report.1 + 256 + 65536 * min a.heldCount 255) c.slot.pc c.slot.pc x.report.2 x.faultAddr

/-- R242, R244, R268: LDL reads, and STL writes, each active lane's element in the lane's own slice of the lane store,
and no other bit of it; they wait for an acquire that has not taken place (R281). -/
def Sys2Proof.Spec.LaneStoreAccess : Prop :=
  ∀ (p : Pred) (nr : Bool) (d : VDst) (y o : Operand) (base : SReg) (ew : BitVec 5) (s : State) (a : Agent) (t : Team),
    let w := ew.toNat + 1
    let reads := operandCodeOf o :: [base.toNat, base.toNat + 1].map sCode
    let off (i : Nat) : Int := 8 * Int.ofNat (a.pair base.toNat).toNat + Int.ofNat w * (a.lane o i).toInt
    let place (i : Nat) : Nat := 8 * (quadOf s.cur * 2 ^ 32 + t.lbase.getD a.gang 0 + i * (256 * t.lsgran)) + (off i).toNat
    let act := a.active p
    s.team? a.team = some t → (a.pair base.toNat).toNat % 4 = 0 →
    (∀ i ∈ lanes act, 0 ≤ off i ∧ off i + Int.ofNat w ≤ 8 * Int.ofNat (256 * t.lsgran)) →
    (∀ x ∈ a.accs, x.acq.isSome = true → x.pend = 0 ∧ a.sees x = false) →
    (VecReady p reads [vdstCodeOf d] (namedDst d ++ namedOf o) s a →
      ∃ u f, exec (.ldl p nr d o base ew) s = .next u ∧ VecDone s u a act d f 0 ∧
        ∀ i ∈ lanes act, BitsRead s.lmem (place i) w (f i).toNat) ∧
    (VecReady p (operandCodeOf y :: reads) [] (namedOf y ++ namedOf o) s a →
      ∃ u, exec (.stl p nr y o base ew) s = .next u ∧ u = { s with agents := u.agents, lmem := u.lmem } ∧ SameOthers s u s.cur ∧
        u.agent? s.cur = some a.retire ∧
        (∀ i ∈ lanes act, ∀ j, j < w → memBit u.lmem (place i + j) = (a.lane y i).getLsbD j) ∧
        ∀ n, (∀ i ∈ lanes act, n < place i ∨ place i + w ≤ n) → memBit u.lmem n = memBit s.lmem n)

/-- R242, R243, R255: a lane whose element leaves its slice faults PERM, and a misaligned base faults ALIGN in every
active lane; nothing is read or written. -/
def Sys2Proof.Spec.LaneStoreFaults : Prop :=
  ∀ (i : Instr) (p : Pred) (nr : Bool) (d : VDst) (y o : Operand) (base : SReg) (ew : BitVec 5) (m : Mask) (j : Nat)
    (s : State) (a : Agent) (t : Team),
    let w := ew.toNat + 1
    let reads := operandCodeOf o :: [base.toNat, base.toNat + 1].map sCode
    let off (i : Nat) : Int := 8 * Int.ofNat (a.pair base.toNat).toNat + Int.ofNat w * (a.lane o i).toInt
    (i = .ldl p nr d o base ew ∧ VecReady p reads [vdstCodeOf d] (namedDst d ++ namedOf o) s a) ∨
      (i = .stl p nr y o base ew ∧ VecReady p (operandCodeOf y :: reads) [] (namedOf y ++ namedOf o) s a) →
    MayTrap s a → s.team? a.team = some t → j < 32 → m.getLsbD j = true → (∀ n, n < j → m.getLsbD n = false) →
    let traps (code : Nat) : Prop := ∃ b, exec i s = .next (s.setAgent s.cur b) ∧
      Entered s a b 0x09 (code + 65536 * min a.heldCount 255) a.wordAddr a.header m (off j / 8 % 2 ^ 64).toNat
    ((a.pair base.toNat).toNat % 4 ≠ 0 → m = a.active p → traps 1) ∧
    ((a.pair base.toNat).toNat % 4 = 0 →
      (∀ n, n < 32 → (m.getLsbD n = true ↔ n ∈ lanes (a.active p) ∧ (off n < 0 ∨ 8 * Int.ofNat (256 * t.lsgran) < off n + Int.ofNat w))) →
      traps 3)

/-- R271: PREF and EVICT write no register and no byte a program reads: only leaves' A bits (bit 7 of a
byte of the system space, R254), leases, and lines of the L1 and the MSC. -/
def Sys2Proof.Spec.HintsChangeNoData : Prop :=
  ∀ (p : Pred) (nr : Bool) (o : Operand) (base pol : SReg) (ew : BitVec 5) (s : State) (a : Agent),
    (VecReady p (operandCodeOf o :: (base.toNat :: (base.toNat + 1) :: policyRead pol).map sCode) [] (namedOf o) s a →
      ∃ t, exec (.pref p nr o base pol ew) s = .next t ∧ SameOthers s t s.cur ∧ SameMemoryBut s t false false true false false ∧
        (∀ n, t.sysm.read n = s.sysm.read n ∨ t.sysm.read n = s.sysm.read n ||| 0x80#8) ∧
        t.agent? s.cur = some ({ a with warn := a.warn ||
          (decide (pol ≠ 0) && decide ((a.s pol.toNat).toNat / 2 ^ 28 ≠ 0)) } : Agent).retire) ∧
    (VecReady p (operandCodeOf o :: [base.toNat, base.toNat + 1].map sCode) [] (namedOf o) s a →
      ∃ t, exec (.evict p nr o base ew) s = .next t ∧ SameOthers s t s.cur ∧ SameMemory s t ∧ t.agent? s.cur = some a.retire)

/-- R253, R264: a lease ends, and a throttled row's window ends, where there is one, and the requests that waited go on in the order of
their queue. -/
def Sys2Proof.Spec.LeasesAndThrottlesEnd : Prop :=
  ∀ (cg sid page part bank row : Nat) (s : State),
    let hit (l : Lease) : Bool := l.sid == sid && l.page == page
    (cg < 128 → (s.cg cg).leases.any hit = true →
      exec (.leaseExpiry cg sid page) s = .next (s.setCg cg { s.cg cg with leases := (s.cg cg).leases.filter fun l => !hit l })) ∧
    (s.hub.leases.any hit = true →
      exec (.leaseExpiry 128 sid page) s = .next { s with hub := { s.hub with leases := s.hub.leases.filter fun l => !hit l } }) ∧
    ((s.cg cg).throttled.contains (part, bank, row) = true → ∃ x, exec (.throttleWindowEnd cg part bank row) s = .next (s.setCg cg x) ∧
      x = { s.cg cg with throttled := (s.cg cg).throttled.filter fun t => t != (part, bank, row), acts := x.acts } ∧
      mapGet 0 x.acts (part * 2 ^ 64 + bank * 2 ^ 20 + row) = 0)

/-! Barrier objects, fences, the team barrier and the rendezvous (R281, R287, R296 to R304). -/

namespace Sys2Proof.Spec
open Sys2Proof.Machine

/-- Nothing holds a later access back (R281): no load that acquires is out, or parked. -/
abbrev NotAcquiring (a : Agent) : Prop := ∀ x ∈ a.accs, x.acq.isSome = true → x.pend = 0 ∧ a.sees x = false
/-- A release may take place (R287): every earlier access is out (a load that has faulted holds it back no longer, R407), no
faulted store is held, or a handler runs, and no matrix command of the agent is outstanding (R216). -/
abbrev Released (s : State) (a : Agent) : Prop :=
  (∀ x ∈ a.accs, x.pend = 0 ∧ (x.dst = none → x.faulted = 0 ∨ a.sv = true)) ∧ ∀ c ∈ (s.quad (quadOf s.cur)).queue, c.agent ≠ s.cur
/-- At a scope from the cluster upwards, no load entry of the reuse table of a line of the context's spaces is left (R274). -/
def ReuseEnded (s t : State) (k ctx sc : Nat) : Prop :=
  (sc < 2 → (t.quad (quadOf k)).rt = (s.quad (quadOf k)).rt) ∧
  (2 ≤ sc → ∀ c, s.ctx? ctx = some c →
    (t.quad (quadOf k)).rt = (s.quad (quadOf k)).rt.filter fun e => !e.lines.any fun l => (c.sid :: c.attached.map (·.2)).contains l.1)
/-- An acquire of agent k of a context at a scope (R281): from the cluster upwards, the quadrant's L1 keeps no line of its
spaces; the agent fetches afresh the runs it holds of which every store noted has been released, at scopes that include both
(R45; how the stores are noted with the runs held is the model's choice, log 15 and log 67). -/
def Acquired (s t : State) (k ctx sc : Nat) : Prop :=
  (∀ a, s.agent? k = some a → (t.quad (quadOf k)).fetched = (s.quad (quadOf k)).fetched.filter fun f =>
    !(f.uid == a.uid && f.wrote.all fun w => s.reaches sc k a w && match w.rel with | some r => s.reaches r k a w | none => false)) ∧
  ReuseEnded s t k ctx sc ∧
  (sc < 2 → (t.quad (quadOf k)).l1 = (s.quad (quadOf k)).l1) ∧
  (2 ≤ sc → ∀ c, s.ctx? ctx = some c →
    (t.quad (quadOf k)).l1 = (s.quad (quadOf k)).l1.filter fun l => !(c.sid :: c.attached.map (·.2)).contains l.sid)
/-- The place in cluster memory of a barrier object (R296, R300): aligned, and inside the allocation its address names. -/
abbrev BarrierAt (s : State) (a : Agent) (addr key : Nat) : Prop :=
  addr % 8 = 0 ∧ ∃ t ∈ s.clusterTeam a addr, addr % 2 ^ 22 + 8 ≤ t.csize ∧
    key = clusterOf t.quad * 2 ^ 32 + t.cbase + addr % 2 ^ 22
/-- A barrier object as its fields EXP, ARR, PEND and PHASE (R296). -/
structure Barrier where
  exp : Nat
  arr : Nat
  pend : Nat
  phase : Nat
def Barrier.of (o : Nat) : Barrier := ⟨o % 2 ^ 16, o / 2 ^ 16 % 2 ^ 16, o / 2 ^ 32 % 2 ^ 16, o / 2 ^ 48 % 2 ^ 15⟩
def Barrier.num (b : Barrier) : Nat := b.exp + b.arr * 2 ^ 16 + b.pend * 2 ^ 32 + b.phase * 2 ^ 48
/-- R297: n arrivals, x units added, y units completed. -/
def Barrier.update (b : Barrier) (n x y : Nat) : Barrier :=
  let pend := ((Int.ofNat b.pend + Int.ofNat x - Int.ofNat y) % 65536).toNat
  let arr := min (b.arr + n) 65535
  if b.exp ≤ arr ∧ pend = 0 then { b with arr := 0, pend, phase := (b.phase + 1) % 32768 } else { b with arr, pend }
/-- The phase of the object at a place. -/
def phaseAt (s : State) (key : Nat) : Nat := (Barrier.of (s.cmem.readNat key 8)).phase
/-- The team of a gang has its sequencers (R304). -/
abbrev EnginesTeam (s : State) (a : Agent) (t : Team) : Prop := s.team? a.team = some t ∧ t.engines = true

end Sys2Proof.Spec

open Sys2Proof Sys2Proof.Machine Sys2Proof.Spec

/-- R274, R281, R283, R287, R302: FENCE completes once its release may take place, and its acquire, which follows the earlier
loads (log 71), invalidates the L1; WSTC completes when no store is out. A store that only a parked load holds back is awaited no
longer (log 70). -/
def Sys2Proof.Spec.FencesComplete : Prop :=
  ∀ (p : Pred) (acq rel : Bool) (sc : BitVec 3) (s : State) (a : Agent), UniReady .all false [] p [] s a →
    (NotAcquiring a → (rel = true → Released s a) → (acq = true → ∀ x ∈ a.accs, (x.dst.isSome = true → x.pend = 0) ∧ a.sees x = false) →
      let u := releasedBy s a (if rel then some sc.toNat else none)
      ∃ t, exec (.fence p acq rel sc) s = .next t ∧ SameButL1 u t s.cur ∧ t.agent? s.cur = some a.retire ∧
        ReuseEnded u t s.cur a.ctx sc.toNat ∧
        (acq = false → (t.quad (quadOf s.cur)).l1 = (u.quad (quadOf s.cur)).l1 ∧
          (t.quad (quadOf s.cur)).fetched = (u.quad (quadOf s.cur)).fetched) ∧
        (acq = true → Acquired u t s.cur a.ctx sc.toNat)) ∧
    ((∀ x ∈ a.accs, x.acq.isSome = true → a.sees x = false) →
      (rel = true ∧ ∃ x ∈ a.accs, x.pend ≠ 0 ∧ (x.dst.isSome = true ∨ s.heldBack a x = false)) ∨ (rel = false ∧ acq = true ∧ ∃ x ∈ a.accs, x.dst.isSome = true ∧ x.pend ≠ 0) →
      exec (.fence p acq rel sc) s = .next (s.setAgent s.cur (waits a))) ∧
    ((∀ x ∈ a.accs, x.dst = none → x.pend = 0 ∧ (x.faulted = 0 ∨ a.sv = true)) →
      exec (.wstc p) s = .next (s.setAgent s.cur a.retire)) ∧
    ((∃ x ∈ a.accs, x.dst = none ∧ x.pend ≠ 0 ∧ s.heldBack a x = false) → exec (.wstc p) s = .next (s.setAgent s.cur (waits a)))

/-- R287, R374, R377: a release, or WSTC, reports the oldest held store record as MEM of kind 2. -/
def Sys2Proof.Spec.HeldStoreFaultsAreReported : Prop :=
  ∀ (i : Instr) (p : Pred) (acq : Bool) (sc : BitVec 3) (s : State) (a : Agent) (x : Access) (xs : List Access),
    i = .wstc p ∨ i = .fence p acq true sc → MayTrap s a → UniReady .all false [] p [] s a → (∀ y ∈ a.accs, y.pend = 0 ∧ (y.acq.isSome = true → a.sees y = false)) →
    (∀ c ∈ (s.quad (quadOf s.cur)).queue, c.agent ≠ s.cur) →
    a.accs.filter (fun y => y.dst.isNone && y.faulted != 0) = x :: xs →
    ∃ b, exec i s = .next (s.setAgent s.cur b) ∧
      Entered s a b 0x09 (x.report.1 + 512 + 65536 * min a.heldCount 255) a.wordAddr a.header x.report.2 x.faultAddr

/-- R303: TBAR counts one arrival of the gang and blocks it; the last arrival completes the generation, and a gang whose
generation is complete returns and acquires. -/
def Sys2Proof.Spec.TeamBarrier : Prop :=
  ∀ (p : Pred) (sc : BitVec 3) (s : State) (a : Agent) (t : Team), UniReady .gang false [] p [] s a → s.team? a.team = some t →
    let b : Agent := { a with rewindable := false, block := .tbar t.tbarGen }
    let r := s.released a sc.toNat
    ((∀ g, a.block ≠ .tbar g) → NotAcquiring a → Released s a → t.tbarArr + 1 < t.live →
      exec (.tbar p sc) s = .next ((r.setAgent s.cur (waits b)).setTeam a.team { t with tbarArr := t.tbarArr + 1 })) ∧
    ((∀ g, a.block ≠ .tbar g) → NotAcquiring a → Released s a → t.live ≤ t.tbarArr + 1 →
      ∃ u, exec (.tbar p sc) s = .next u ∧ u = { s with agents := u.agents, teams := u.teams, quads := u.quads } ∧ SameOthers s u s.cur ∧
        u.agent? s.cur = some b.retire ∧ Acquired r u s.cur a.ctx sc.toNat ∧
        (∀ n, n ≠ a.team → u.team? n = s.team? n) ∧ u.team? a.team = some { t with tbarGen := t.tbarGen + 1, tbarArr := 0 }) ∧
    (∀ g, a.block = .tbar g →
      (g < t.tbarGen → ∃ u, exec (.tbar p sc) s = .next u ∧ SameButL1 s u s.cur ∧ u.agent? s.cur = some a.retire ∧
        Acquired s u s.cur a.ctx sc.toNat) ∧
      (t.tbarGen ≤ g → exec (.tbar p sc) s = .next (s.setAgent s.cur (waits a))))

/-- R304: a sequencer's RDV counts once its commands have completed; a gang's counts once, waits, and returns when both
counts have reached its own. -/
def Sys2Proof.Spec.Rendezvous : Prop :=
  ∀ (p : Pred) (sc : BitVec 3) (s : State) (a : Agent) (t : Team), UniReady .all false [] p [] s a → EnginesTeam s a t →
    let r := s.released a sc.toNat
    (isMseq s.cur = true → NotAcquiring a → Released s a →
      exec (.rdv p sc) s = .next ((r.setAgent s.cur ({ a with rewindable := false } : Agent).retire).setTeam a.team { t with cM := t.cM + 1 })) ∧
    (isDseq s.cur = true → a.cmds = [] → NotAcquiring a → Released s a →
      exec (.rdv p sc) s = .next ((r.setAgent s.cur ({ a with rewindable := false } : Agent).retire).setTeam a.team { t with cD := t.cD + 1 })) ∧
    (isSeq s.cur = false →
      let b : Agent := if a.block = .rdv then a else { a with cG := a.cG + 1, block := .rdv, rewindable := false }
      let met : Prop := (t.mRun = true → b.cG ≤ t.cM) ∧ (t.dRun = true → b.cG ≤ t.cD)
      (met → ∃ u, exec (.rdv p sc) s = .next u ∧ SameButL1 s u s.cur ∧ u.agent? s.cur = some b.retire ∧ Acquired s u s.cur a.ctx sc.toNat) ∧
      (¬ met → exec (.rdv p sc) s = .next (s.setAgent s.cur (waits b))))

/-- R241, R404: an own-allocation address names the gang's team; one with WIN set names another team of its grid by its index;
where the cluster memory's access table does not admit the quadrant neither names one. -/
def Sys2Proof.Spec.ClusterAddressesNameTeams : Prop :=
  ∀ (s : State) (a : Agent) (addr : Nat),
    (addr / 2 ^ 22 % 2 ^ 9 ≠ 0 ∨ (∃ t, s.team? a.team = some t ∧ s.admits .cluster t.quad (a.ctx / 16) true = false) → s.clusterTeam a addr = none) ∧
    (addr / 2 ^ 22 % 2 ^ 9 = 0 → (∀ t, s.team? a.team = some t → s.admits .cluster t.quad (a.ctx / 16) true = true) → addr.testBit 31 = false → s.clusterTeam a addr = if addr / 2 ^ 32 % 2 ^ 32 = 0 then s.team? a.team else none) ∧
    (addr / 2 ^ 22 % 2 ^ 9 = 0 → addr.testBit 31 = true → ∀ t, s.clusterTeam a addr = some t →
      t.grid = a.grid ∧ t.index = addr / 2 ^ 32 % 2 ^ 32)

/-- R281, R297, R299: BOARR releases, updates its object by R297 and returns the phase before the update. -/
def Sys2Proof.Spec.BarrierArrivals : Prop :=
  ∀ (p : Pred) (d n u r : SReg) (sc : BitVec 3) (s : State) (a : Agent) (key : Nat),
    let arr := if n = 0 then 1 else (a.s n.toNat).toNat
    let units := (a.s u.toNat).toNat
    UniReady .all false [r.toNat] p [d.toNat, n.toNat, u.toNat] s a → 1 ≤ arr → arr ≤ 65535 → units ≤ 32767 →
    BarrierAt s a (a.s d.toNat).toNat key → NotAcquiring a → Released s a →
    let z := s.released a sc.toNat
    ∃ t, exec (.boarr p d n u r sc) s = .next t ∧ t = { z with agents := t.agents, cmem := t.cmem } ∧ SameOthers s t s.cur ∧
      t.agent? s.cur = some (({ a.discard [sCode r.toNat] with rewindable := false } : Agent).setS r.toNat (BitVec.ofNat 32 (phaseAt s key))).retire ∧
      BitsWritten s.cmem t.cmem (8 * key) 64 ((Barrier.of (s.cmem.readNat key 8)).update arr units 0).num

/-- R296, R299: BOINIT issues one 8-byte store of a fresh object, counted among the agent's stores. -/
def Sys2Proof.Spec.BarrierInitialises : Prop :=
  ∀ (p : Pred) (d n : SReg) (s : State) (a : Agent) (key : Nat), UniReady .all false [] p [d.toNat, n.toNat] s a →
    1 ≤ (a.s n.toNat).toNat → (a.s n.toNat).toNat ≤ 65535 → BarrierAt s a (a.s d.toNat).toNat key → NotAcquiring a →
    (a.accs.filter fun x => x.dst.isNone).length < 64 →
    ∃ x : Access, exec (.boinit p d n) s = .next (s.setAgent s.cur ({ a with accs := a.accs ++ [x], ids := a.ids + 1 } : Agent).retire) ∧
      x.id = a.ids ∧ x.dst = none ∧ x.space = 1 ∧ x.base.toNat = (a.s d.toNat).toNat ∧ x.todo = 1 ∧ x.pend = 1 ∧ x.faulted = 0 ∧
      x.width = 64 ∧ x.lanes = [{ lane := 0, bit := 8 * Int.ofNat (a.s d.toNat).toNat, data := (a.s n.toNat).toNat, cmp := 0, value := 0, got := [] }] ∧
      ∀ old, leaves x.kind (a.s n.toNat).toNat 0 old = some (Barrier.num ⟨(a.s n.toNat).toNat, 0, 0, 0⟩)

/-- R299: BOWAIT waits while the object's phase is the one named, BOTEST reports whether it has moved, and each acquires
when it has; a waiter whose phase has moved completes its BOWAIT. A read of the object follows the agent's own stores of the
uniform path to cluster memory (R279). -/
def Sys2Proof.Spec.BarrierWaits : Prop :=
  ∀ (p : Pred) (d ph r : SReg) (sc : BitVec 3) (s : State) (a : Agent) (key : Nat), BarrierAt s a (a.s d.toNat).toNat key → NotAcquiring a →
    let same : Prop := phaseAt s key = (a.s ph.toNat).toNat % 32768
    (a.ownStoresOut = true → UniReady .all false [] p [d.toNat, ph.toNat] s a →
      exec (.bowait p d ph sc) s = .next (s.setAgent s.cur (waits a))) ∧
    (a.ownStoresOut = false → UniReady .all false [] p [d.toNat, ph.toNat] s a →
      (¬ same → ∃ t, exec (.bowait p d ph sc) s = .next t ∧ SameButL1 s t s.cur ∧ t.agent? s.cur = some a.retire ∧
        Acquired s t s.cur a.ctx sc.toNat) ∧
      (same → exec (.bowait p d ph sc) s = .next (s.setAgent s.cur (waits { a with block := .bowait }))) ∧
      (¬ same → a.block = .bowait → ∀ rb w, a.run = some rb → rb.words[rb.idx]? = some w → decodeWord true w = .ok (.bowait p d ph sc) →
        ∃ t, exec (.bowaitWake s.cur) s = .next t ∧ SameButL1 s t s.cur ∧ t.agent? s.cur = some a.retire ∧
          Acquired s t s.cur a.ctx sc.toNat)) ∧
    (a.ownStoresOut = true → UniReady .all false [r.toNat] p [d.toNat, ph.toNat] s a →
      exec (.botest p d ph r sc) s = .next (s.setAgent s.cur (waits (a.discard [sCode r.toNat])))) ∧
    (a.ownStoresOut = false → UniReady .all false [r.toNat] p [d.toNat, ph.toNat] s a →
      (¬ same → ∃ t, exec (.botest p d ph r sc) s = .next t ∧ SameButL1 s t s.cur ∧
        t.agent? s.cur = some ((a.discard [sCode r.toNat]).setS r.toNat 1#32).retire ∧ Acquired s t s.cur a.ctx sc.toNat) ∧
      (same → exec (.botest p d ph r sc) s = .next (s.setAgent s.cur ((a.discard [sCode r.toNat]).setS r.toNat 0#32).retire)))

/-- R300: the barrier words trap MEM at a misaligned object (ALIGN) and at one outside its allocation (PERM), and ILLEGAL
0x14, whatever the predicate (R50), on a count out of its limits in the normal mode. -/
def Sys2Proof.Spec.BarrierFaults : Prop :=
  ∀ (i : Instr) (p : Pred) (d ph r n u : SReg) (sc : BitVec 3) (dsts reads : List Nat) (s : State) (a : Agent),
    let addr := (a.s d.toNat).toNat
    let traps (cause detail : Nat) : Prop := ∃ b, exec i s = .next (s.setAgent s.cur b) ∧
      Entered s a b cause detail a.wordAddr a.header a.slot.mask 0
    MayTrap s a →
    (UniReady .all false dsts p reads s a → (i = .bowait p d ph sc ∧ dsts = [] ∧ reads = [d.toNat, ph.toNat]) ∨
      (i = .botest p d ph r sc ∧ dsts = [r.toNat] ∧ reads = [d.toNat, ph.toNat]) ∨
      (i = .boinit p d n ∧ dsts = [] ∧ reads = [d.toNat, n.toNat] ∧ 1 ≤ (a.s n.toNat).toNat ∧ (a.s n.toNat).toNat ≤ 65535) ∨
      (i = .boarr p d n u r sc ∧ dsts = [r.toNat] ∧ reads = [d.toNat, n.toNat, u.toNat] ∧ (n = 0 ∨ 1 ≤ (a.s n.toNat).toNat) ∧
        (a.s n.toNat).toNat ≤ 65535 ∧ (a.s u.toNat).toNat ≤ 32767) →
      (addr % 8 ≠ 0 → traps 0x09 (1 + 65536 * min a.heldCount 255)) ∧
      (addr % 8 = 0 → (∀ t, s.clusterTeam a addr = some t → t.csize < addr % 2 ^ 22 + 8) → traps 0x09 (3 + 65536 * min a.heldCount 255))) ∧
    (s.lenient s.cur = false → a.clear [sCode n.toNat] [] → i = .boinit p d n →
      (a.s n.toNat).toNat = 0 ∨ 65535 < (a.s n.toNat).toNat → traps 0x01 0x14) ∧
    (s.lenient s.cur = false → a.clear [sCode n.toNat, sCode u.toNat] [] → i = .boarr p d n u r sc →
      (n ≠ 0 ∧ (a.s n.toNat).toNat = 0) ∨ 65535 < (a.s n.toNat).toNat ∨ 32767 < (a.s u.toNat).toNat → traps 0x01 0x14)

/-! Engine commands (R305 to R325). -/

namespace Sys2Proof.Spec
open Sys2Proof.Machine

/-- The completion fields of an engine word: the registers they name, and what the command keeps of them (R310). -/
def finRegs : XDone → List Nat
  | .none => []
  | .arrive r => [r.toNat]
  | .notify r => [r.toNat, r.toNat + 1]
def finPlace (a : Agent) : XDone → Dword
  | .none => 0
  | .arrive r => BitVec.ofNat 64 (a.s r.toNat).toNat
  | .notify r => a.pair r.toNat
/-- The barrier object of an ARRIVE lies in its allocation, the counter of a NOTIFY is aligned to 4 (R318, R319). -/
def finFits (s : State) (a : Agent) : XDone → Prop
  | .none => True
  | .arrive r => ∃ key, BarrierAt s a (a.s r.toNat).toNat key
  | .notify r => (a.pair r.toNat).toNat % 4 = 0
/-- A range of global memory an engine accepts (R320): words of one space's window. -/
abbrev rangeFits (va n : Nat) : Prop := va % 4 = 0 ∧ (n = 0 ∨ (va + n ≤ 2 ^ 57 ∧ windowOf va = windowOf (va + n - 1)))
def command (a : Agent) (kind : CmdKind) (acq rel : Bool) (scope : Nat) (fin : XDone) (pol : Option Word) : Cmd :=
  { id := a.ids, kind, acq, rel, scope, fin, aux := finPlace a fin, pol, batch := none, fault := none, told := false, bad := [], got := [], put := [] }
/-- The register of an ARRIVE is what DSTS names (R312). -/
def finDsts : XDone → List Nat
  | .arrive r => [r.toNat]
  | _ => []
/-- An engine word as a command: its predicate, whether it is a supervisor's, what DSTS names, what it reads, the policy's
reserved bits, the command it enters, and the limits of R309, R312, R320 and R323. -/
def engineRow (s : State) (a : Agent) : Instr → Option (Pred × Bool × List Nat × List Nat × Bool × Cmd × Prop)
  | .xcopy p desc pol ord fin =>
    match s.clusterDesc a (a.s desc.toNat).toNat 128 with
    | .error _ => none
    | .ok d =>
      let po := if pol = 0 then none else some (a.s pol.toNat)
      some (p, false, finDsts fin, desc.toNat :: (policyRead pol ++ finRegs fin), (match po with | some w => decide (w.toNat / 2 ^ 28 ≠ 0) | none => false),
        command a (.copy d) ord.acq ord.rel ord.scope.toNat fin po,
        a.clusterBusy = false ∧ copyBad d = false ∧ s.sideFault a d false = 0 ∧ s.sideFault a d true = 0 ∧ finFits s a fin)
  | .xfill p dst len pat ord arr =>
    let fin := match arr with | some r => XDone.arrive r | none => XDone.none
    some (p, false, finDsts fin, [dst.toNat, dst.toNat + 1, len.toNat, pat.toNat] ++ finRegs fin, false,
      command a (.fill (a.pair dst.toNat).toNat (a.s len.toNat).toNat (a.s pat.toNat)) ord.acq ord.rel ord.scope.toNat fin none,
      (a.s len.toNat).toNat % 4 = 0 ∧ rangeFits (a.pair dst.toNat).toNat (a.s len.toNat).toNat ∧ finFits s a fin)
  | .xclone p dst src len ord arr =>
    let fin := match arr with | some r => XDone.arrive r | none => XDone.none
    some (p, false, finDsts fin, [dst.toNat, dst.toNat + 1, src.toNat, src.toNat + 1, len.toNat] ++ finRegs fin, false,
      command a (.clone (a.pair dst.toNat).toNat (a.pair src.toNat).toNat (a.s len.toNat).toNat) ord.acq ord.rel ord.scope.toNat fin none,
      (a.s len.toNat).toNat % 4 = 0 ∧ rangeFits (a.pair dst.toNat).toNat (a.s len.toNat).toNat ∧
        rangeFits (a.pair src.toNat).toNat (a.s len.toNat).toNat ∧ finFits s a fin)
  | .xpurge p start cnt opt scope =>
    let va := (a.pair start.toNat).toNat
    let n := (a.s cnt.toNat).toNat
    let o := (a.s opt.toNat).toNat
    some (p, true, [], [start.toNat, start.toNat + 1, cnt.toNat, opt.toNat], false,
      command a (.purge va n (o == 1)) false false scope.toNat .none none,
      o ≤ 1 ∧ va % 4096 = 0 ∧ (n = 0 ∨ (va + 4096 * n ≤ 2 ^ 57 ∧ windowOf va = windowOf (va + 4096 * n - 1))))
  | _ => none

/-- The closed batches that n covers and that are not complete (R316), and those of them with a faulted command. -/
abbrev coveredBy (a : Agent) (n : Nat) (b : Nat × List Nat) : Prop := b ∈ a.closed ∧ (n + 65536 - b.1) % 65536 < 32768
abbrev hasFaulted (a : Agent) (b : Nat × List Nat) : Prop := ∃ c ∈ a.cmds, c.fault ≠ none ∧ c.id ∈ b.2
/-- The earliest faulted command, in issue order, of the batches covered (R317). -/
abbrev firstFaulted (a : Agent) (n : Nat) (c : Cmd) : Prop :=
  let due (x : Cmd) : Prop := x.fault ≠ none ∧ ∃ b, coveredBy a n b ∧ x.id ∈ b.2
  ∃ pre post, a.cmds = pre ++ c :: post ∧ due c ∧ ∀ x ∈ pre, ¬ due x
/-- No earlier load is out or parked: an acquire may follow it (R283). -/
abbrev LoadsIn (a : Agent) : Prop := ∀ x ∈ a.accs, (x.dst.isSome = true → x.pend = 0) ∧ a.sees x = false
/-- The bit at which a side of a copy begins, in cluster memory or the lane store (R308). -/
abbrev sideBegins (s : State) (a : Agent) (d : List Byte) (dst : Bool) (place : Nat) : Prop :=
  let base := copyBase d dst
  (copySpace d dst = 1 ∧ ∃ t ∈ s.clusterTeam a base, place = 8 * (clusterOf t.quad * 2 ^ 32 + t.cbase + base % 2 ^ 22)) ∨
  (copySpace d dst = 2 ∧ ∃ t ∈ s.team? a.team,
    place = 8 * (t.quad * 2 ^ 32 + t.lbase.getD (base / 2 ^ 19 % 16) 0 + base / 2 ^ 14 % 32 * (256 * t.lsgran) + base % 2 ^ 14))
def sideMemory (s : State) (d : List Byte) (dst : Bool) : Memory := if copySpace d dst = 1 then s.cmem else s.lmem
/-- The element of a copy that an index vector names: its offset in bits on one side (R313). -/
def copyOffset (d : List Byte) (dst : Bool) (js : List Nat) : Int :=
  Int.ofNat (copyWidth d) * sum (js.zipIdx.map fun p => Int.ofNat p.1 * copyStride d dst p.2)
abbrev copyIndex (d : List Byte) (js : List Nat) : Prop := js.length = copyDims d ∧ ∀ i j, js[i]? = some j → j < copyExt d i

end Sys2Proof.Spec

open Sys2Proof Sys2Proof.Machine Sys2Proof.Spec

/-- R305, R309, R312, R316, R320, R321, R323: an engine word within its limits enters its command in the open batch;
nothing else changes until the command completes. One that moves nothing completes at once: it acquires, releases, and its
ARRIVE arrives (R309; that its word waits for nothing where its release must wait is the model's choice, log 24). -/
def Sys2Proof.Spec.EngineCommandsIssue : Prop :=
  ∀ (i : Instr) (s : State) (a : Agent) (p : Pred) (sv : Bool) (dsts reads : List Nat) (warns : Bool) (c : Cmd) (fits : Prop),
    engineRow s a i = some (p, sv, dsts, reads, warns, c, fits) → fits → UniReady .gangDseq sv dsts p reads s a → NotAcquiring a →
    s.engineLoad (quadOf s.cur) < 64 →
    let b : Agent := { a.discard (dsts.map sCode) with warn := a.warn || warns, ids := a.ids + 1, rewindable := false }
    (c.kind.empty = false → exec i s = .next (s.setAgent s.cur ({ b with cmds := a.cmds ++ [c], open_ := a.open_ ++ [a.ids] } : Agent).retire)) ∧
    (c.kind.empty = true → (c.acq = true → ∀ x ∈ a.accs, x.dst.isSome = true → x.pend = 0 ∧ x.faulted = 0) → (c.rel = true ∨ c.fin ≠ .none → ∀ x ∈ a.accs, x.pend = 0) → s.sentBy a.uid a.ids = false →
      (∀ r, c.fin ≠ .notify r) →
      ∃ u cs os bs, exec i s = .next u ∧ u = { s with agents := u.agents, quads := u.quads, cmem := u.cmem } ∧ SameOthers s u s.cur ∧
        u.agent? s.cur = some ({ b with cmds := cs, open_ := os, closed := bs } : Agent).retire ∧
        cs.map (·.id) = (a.cmds.map (·.id)).filter (· != a.ids) ∧ os = a.open_.filter (· != a.ids) ∧
        bs = (a.closed.map fun x => (x.1, x.2.filter (· != a.ids))).filter (fun x => x.2 != []) ∧
        (c.acq = true → ReuseEnded s u s.cur a.ctx c.scope) ∧ (c.acq = true → c.rel = false → c.fin = .none → Acquired s u s.cur a.ctx c.scope) ∧
        (c.fin = .none → ∀ n, u.cmem.read n = s.cmem.read n) ∧
        ∀ r key, c.fin = .arrive r → BarrierAt s a (a.s r.toNat).toNat key →
          let units := match c.kind with | .copy d => copyUnits d | _ => 0
          BitsWritten s.cmem u.cmem (8 * key) 64
            ((Barrier.of (s.cmem.readNat key 8)).update (if units = 0 then 1 else 0) 0 units).num)

/-- R324: XLEASE's status is awaited, and its request is sent at once where no purge of the agent is outstanding. -/
def Sys2Proof.Spec.LeaseRequestsIssue : Prop :=
  ∀ (p : Pred) (r : SReg) (s : State) (a : Agent), UniReady .gangDseq true [r.toNat] p [] s a →
    ∃ cs, exec (.xlease p r) s = .next (s.setAgent s.cur ({ a.discard [sCode r.toNat] with
        cmds := cs, ids := a.ids + 1, pending := (sCode r.toNat, a.runs) :: a.pending } : Agent).retire) ∧
      cs.map (·.id) = a.cmds.map (·.id) ++ [a.ids] ∧ (∃ m c, cs.getLast? = some c ∧ c.kind = .lease m r.toNat) ∧
      ((∀ c ∈ a.cmds, match c.kind with | .purge .. | .lease .. => False | _ => True) →
        ∃ c, cs = a.cmds ++ [c] ∧ c.kind = .lease (s.hub.nextLease + 1) r.toNat)

/-- R316: XCLOSE closes the open batch under the next number and returns that number. -/
def Sys2Proof.Spec.BatchesClose : Prop :=
  ∀ (p : Pred) (r : SReg) (s : State) (a : Agent), UniReady .gangDseq false [r.toNat] p [] s a → a.closed.length < 32767 →
    let n := (a.batch + 1) % 65536
    exec (.xclose p r) s = .next (s.setAgent s.cur (({ a.discard [sCode r.toNat] with
      batch := n, open_ := [], closed := if a.open_ = [] then a.closed else a.closed ++ [(n, a.open_)],
      cmds := a.cmds.map fun c => if a.open_.contains c.id then { c with batch := some n } else c } : Agent).setS r.toNat (BitVec.ofNat 32 n)).retire)

/-- R316, R317: XWAIT waits until every batch covered is complete or faulted; XTEST tests whether all are complete. Each
acquires once none is left, after the earlier loads (log entry 71), and reports the earliest faulted command as MEM of kind 3. -/
def Sys2Proof.Spec.BatchesAreAwaited : Prop :=
  ∀ (p : Pred) (n r : SReg) (sc : BitVec 3) (s : State) (a : Agent),
    let no := (a.s n.toNat).toNat % 65536
    (UniReady .gangDseq false [] p [n.toNat] s a →
      ((∀ b, ¬ coveredBy a no b) → LoadsIn a → ∃ t, exec (.xwait p n sc) s = .next t ∧ SameButL1 s t s.cur ∧
        t.agent? s.cur = some a.retire ∧ Acquired s t s.cur a.ctx sc.toNat) ∧
      ((∃ b, coveredBy a no b ∧ ¬ hasFaulted a b) → exec (.xwait p n sc) s = .next (s.setAgent s.cur (waits { a with block := .xwait }))) ∧
      (MayTrap s a → (∀ b, coveredBy a no b → hasFaulted a b) → ∀ c code va, firstFaulted a no c → c.fault = some (code, va) →
        ∃ b, exec (.xwait p n sc) s = .next (s.setAgent s.cur b) ∧
          Entered s a b 0x09 (code + 768 + 65536 * min a.heldCount 255) a.wordAddr a.header a.slot.mask va)) ∧
    (UniReady .gangDseq false [r.toNat] p [n.toNat] s a →
      (MayTrap s a → ∀ c code va, firstFaulted a no c → c.fault = some (code, va) →
        ∃ b, exec (.xtest p n r sc) s = .next (s.setAgent s.cur b) ∧
          Entered s a b 0x09 (code + 768 + 65536 * min a.heldCount 255) a.wordAddr a.header a.slot.mask va) ∧
      ((∀ b, ¬ coveredBy a no b) → LoadsIn a → ∃ t, exec (.xtest p n r sc) s = .next t ∧ SameButL1 s t s.cur ∧
        t.agent? s.cur = some ((a.discard [sCode r.toNat]).setS r.toNat 1#32).retire ∧ Acquired s t s.cur a.ctx sc.toNat) ∧
      ((∃ b, coveredBy a no b) → (∀ b, coveredBy a no b → ¬ hasFaulted a b) →
        exec (.xtest p n r sc) s = .next (s.setAgent s.cur ((a.discard [sCode r.toNat]).setS r.toNat 0#32).retire)))

/-- R286, R314 to R316: a command whose remaining parts may be performed and meet no fault completes and leaves its batch
(an XLEASE and a CHSEND have statements of their own); one whose end waits, for a peer or the agent's earlier accesses, has
performed them and stands. A part that may be performed is performed alone, or takes its place in a side queue (R264). -/
def Sys2Proof.Spec.CommandsComplete : Prop :=
  ∀ (ag : Nat) (s t : State) (a : Agent) (c : Cmd), s.agent? ag = some a → a.ended = false → ag < orphanBase →
    (a.cmds.find? fun x => x.id == c.id) = some c → c.fault = none → (match c.kind with | .lease .. | .send .. => False | _ => True) →
    (∀ c', s.cmdRun ag a c = .ok (c', true) t → c'.id = c.id ∧
      ∃ u b, exec (.copyComplete ag ⟨c.id, none⟩) s = .next u ∧ u = { t with agents := u.agents } ∧ u.agent? ag = some b ∧ SameOthers s u ag ∧
        b.cmds.map (·.id) = (a.cmds.filter fun x => x.id != c.id).map (·.id) ∧ b.open_ = a.open_.filter (· != c.id) ∧
        (∀ x ∈ b.closed, c.id ∉ x.2 ∧ x.2 ≠ []) ∧ b = { a with cmds := b.cmds, open_ := b.open_, closed := b.closed }) ∧
    (∀ c', s.cmdRun ag a c = .ok (c', false) t → c'.id = c.id ∧
      ∃ u, exec (.copyComplete ag ⟨c.id, none⟩) s = .next u ∧ u = { t with agents := u.agents } ∧ SameOthers s u ag ∧
        u.agent? ag = some { a with cmds := a.cmds.map fun x => if x.id = c.id then c' else x }) ∧
    (∀ dst i j c', s.cmdStep ag a c dst i j = .ok c' t → c'.id = c.id ∧
      ∃ u, exec (.copyComplete ag ⟨c.id, some (dst, i, j)⟩) s = .next u ∧ u = { t with agents := u.agents, hub := u.hub } ∧ SameOthers s u ag ∧
        u.hub = { t.hub with outbox := u.hub.outbox } ∧ u.hub.outbox.map (·.packet) = t.hub.outbox.map (·.packet) ∧
        u.agent? ag = some { a with cmds := a.cmds.map fun x => if x.id = c.id then c' else x }) ∧
    (∀ dst i j, s.cmdStep ag a c dst i j = .joins t → exec (.copyComplete ag ⟨c.id, some (dst, i, j)⟩) s = .next t)

/-- R313, R314, R318: a copy within or between cluster memory and the lane store, no bit of it both source and destination,
moves every element of its walk to where no other element goes, and changes no bit outside its destination elements. -/
def Sys2Proof.Spec.CopiesMoveTheirElements : Prop :=
  ∀ (ag : Nat) (s : State) (a : Agent) (c : Cmd) (d : List Byte) (from_ to_ : Nat), s.agent? ag = some a → a.ended = false → ag < orphanBase →
    (a.cmds.find? fun x => x.id == c.id) = some c → c.fault = none → c.kind = .copy d → c.fin = .none → c.acq = false →
    c.got = [] → c.put = [] → (∀ x ∈ a.accs, x.id < c.id → x.todo = 0 ∧ (c.rel = true → x.pend = 0)) → copyBad d = false → s.sentBy a.uid c.id = false →
    s.sideFault a d false = 0 → s.sideFault a d true = 0 → sideBegins s a d false from_ → sideBegins s a d true to_ →
    let place (js : List Nat) : Nat := (Int.ofNat to_ + copyOffset d true js).toNat
    let source (js : List Nat) : Nat := (Int.ofNat from_ + copyOffset d false js).toNat
    copySpace d false ≠ copySpace d true ∨ (∀ js ks, copyIndex d js → copyIndex d ks →
      source js + copyWidth d ≤ place ks ∨ place ks + copyWidth d ≤ source js) →
    ∃ u, exec (.copyComplete ag ⟨c.id, none⟩) s = .next u ∧ SameMemoryBut s u false false false (copySpace d true == 1) (copySpace d true == 2) ∧
      (∀ js, copyIndex d js → (∀ ks, copyIndex d ks → ks ≠ js → place ks + copyWidth d ≤ place js ∨ place js + copyWidth d ≤ place ks) →
        ∀ i, i < copyWidth d → memBit (sideMemory u d true) (place js + i) =
          memBit (sideMemory s d false) (source js + i)) ∧
      ∀ n, (∀ js, copyIndex d js → n < place js ∨ place js + copyWidth d ≤ n) → memBit (sideMemory u d true) n = memBit (sideMemory s d true) n

/-- R320: a fill within one chunk that holds a frame, of a row neither throttled nor near its limit (R264), writes its pattern
there, word by word, and nothing else. -/
def Sys2Proof.Spec.FillsWriteTheirPattern : Prop :=
  ∀ (ag : Nat) (s s1 : State) (a : Agent) (c : Cmd) (dst len cg sid va e : Nat) (pat : Word) (ch : Chunk), s.agent? ag = some a → a.ended = false →
    ag < orphanBase → (a.cmds.find? fun x => x.id == c.id) = some c → c.fault = none → c.kind = .fill dst len pat → c.fin = .none →
    c.acq = false → c.got = [] → c.put = [] → (∀ x ∈ a.accs, x.id < c.id → x.todo = 0 ∧ (c.rel = true → x.pend = 0)) → (∀ x ∈ a.accs, x.codes = []) →
    s.sentBy a.uid c.id = false →
    (∀ x ∈ a.cmds, x.fault = none) → 0 < len → len % 4 = 0 → dst % 4096 + len ≤ 4096 → s.translate (quadOf ag) a.ctx dst .write = .ok (.device cg sid va e, s1) →
    tabGet (s1.cg cg).chunks (chunkKey sid va) = some ch → ch.gran = pteGran e →
    (∀ n, n < len → RowFree s a.ctx (dst + n)) → (∀ q ∈ s.part? (a.ctx / 16),
      mapGet 0 (s.cg cg).acts (a.ctx / 16 * 2 ^ 64 + Config.dramRow cg ch.frame) + len ≤ q.actLimit) →
    ∃ u, exec (.copyComplete ag ⟨c.id, none⟩) s = .next u ∧ SameMemoryBut s u true false true false false ∧
      ∀ n, u.dmem.read n = if devKey sid va ≤ n ∧ n < devKey sid va + len
        then BitVec.ofNat 8 (pat.toNat / 2 ^ (8 * ((n - devKey sid va) % 4))) else s.dmem.read n

/-- R314, R315: a command that meets a fault, in one part or in the rest of them, stops and is held with its code and first
faulting address; what the parts before it wrote stays. Where a write was refused, the command keeps the place of it, by chunk
(R377; the model's own note, log 41). -/
def Sys2Proof.Spec.CommandFaultsAreHeld : Prop :=
  ∀ (ag : Nat) (s t : State) (a : Agent) (c : Cmd) (code va : Nat) (wr : Bool) (part : Option (Bool × Nat × Nat)), s.agent? ag = some a →
    a.ended = false → (a.cmds.find? fun x => x.id == c.id) = some c → c.fault = none →
    (match c.kind with | .lease .. | .send .. => False | _ => True) → s.cmdDo ag a c part = .fault code va wr t → code ≠ 100 →
    ∃ u, exec (.copyFault ag ⟨c.id, part⟩) s = .next u ∧ u = { t with agents := u.agents } ∧ SameOthers s u ag ∧
      u.agent? ag = some { a with cmds := a.cmds.map fun x => if x.id = c.id then { c with
        fault := some (code, va), bad := if wr && !c.bad.any (fun b => chunkOf t a.ctx b == chunkOf t a.ctx va) then c.bad ++ [va] else c.bad } else x }

/-- R324: an XLEASE completes when no lease granted before its request is left, and returns status 0. -/
def Sys2Proof.Spec.LeaseRequestsComplete : Prop :=
  ∀ (ag : Nat) (s : State) (a : Agent) (c : Cmd) (m r : Nat), s.agent? ag = some a → a.ended = false → ag < orphanBase →
    (a.cmds.find? fun x => x.id == c.id) = some c → c.fault = none → c.kind = .lease (m + 1) r →
    (∀ l ∈ s.hub.leases, m ≤ l.num) → (∀ g ∈ s.cgs, ∀ l ∈ g.2.leases, m ≤ l.num) →
    ∃ u b, exec (.copyComplete ag ⟨c.id, none⟩) s = .next u ∧ u.agent? ag = some b ∧ SameOthers s u ag ∧
      (0 < r → b.s r = 0#32) ∧ (∀ n, n ≠ r → b.s n = a.s n) ∧ b.pending = a.pending.filter (fun x => x.1 != sCode r) ∧
      b.cmds = a.cmds.filter (fun x => x.id != c.id) ∧
      u.purges = s.purges.filter fun p => !(p.agent == (a.grid, a.tindex, gangCode ag a) && decide (p.id ≤ c.id))

/-! Format slots (R169 to R181). -/

/-- R176, R177, R181: SLOAD queues a load of the slot and awaits its status; SDESC reads a word
of the bound image. -/
def Sys2Proof.Spec.SlotWords : Prop :=
  ∀ (p : Pred) (sl : BitVec 4) (d r : SReg) (s : State) (a : Agent),
    let q := s.quad (quadOf s.cur)
    (UniReady .gangMseq false [r.toNat] p [d.toNat, d.toNat + 1] s a → NotAcquiring a →
      let job : LoadJob := { ctx := a.ctx, slot := sl.toNat, agent := a.uid, mark := a.ids, ref := a.pair d.toNat, dst := r.toNat }
      exec (.sload p sl d r) s = .next ((s.setQuad (quadOf s.cur) { q with jobs := q.jobs ++ [job] }).setAgent s.cur
        ({ a.discard [sCode r.toNat] with rewindable := false, pending := (sCode r.toNat, a.runs) :: a.pending } : Agent).retire)) ∧
    (UniReady .gangMseq false [r.toNat] p [d.toNat] s a → (∀ j ∈ q.jobs, ¬ (j.ctx = a.ctx ∧ j.slot = sl.toNat)) →
      let k := (a.s d.toNat).toNat % 256
      let w : Nat := match s.image (quadOf s.cur) a.ctx sl with
        | none => 0
        | some im => if k < 64 then natOfBytes (((headerBytes im).drop (4 * k)).take 4) else if k = 64 then im.gen
          else if k = 65 then (if sl = 0 then 2 else 1) else 0
      exec (.sdesc p sl d r) s = .next (s.setAgent s.cur ((a.discard [sCode r.toNat]).setS r.toNat (BitVec.ofNat 32 w)).retire))

/-- R162, R173, R174, R176: the load of a factory image binds it and returns 0; an unknown factory ID returns 1, and a
reference with a nonzero field 2, and neither changes the binding. Each is measured into PMV and the event log. -/
def Sys2Proof.Spec.FactoryImagesLoad : Prop :=
  ∀ (quad ctx slot k : Nat) (s : State) (j : LoadJob) (p : Part) (b : Agent), 0 < j.dst →
    ((s.quad quad).jobs.find? fun x => x.ctx == ctx && x.slot == slot) = some j → s.part? (ctx / 16) = some p →
    s.agentByUid j.agent = some (k, b) → b.ended = false → (∀ x ∈ b.accs, x.dst = none → x.id < j.mark → x.pend = 0) →
    j.ref.getLsbD 63 = true → (s.quad quad).matrixNames slot = false →
    let fid := j.ref.toNat % 65536
    let plain : Prop := j.ref.toNat / 65536 % 2 ^ 47 = 0
    ∃ u c p', exec (.sloadComplete quad ctx slot) s = .next u ∧ u.agent? k = some c ∧ c.pending = b.pending.filter (fun x => x.1 != sCode j.dst) ∧
      (∀ n, n ≠ j.dst → c.s n = b.s n) ∧ (u.quad quad).jobs = (s.quad quad).jobs.erase j ∧ u.part? (ctx / 16) = some p' ∧
      (∃ r, r.length = 80 ∧ p'.log = p.log ++ [r] ∧ p'.pmv = Config.sha3_512 (bytesOfNat 64 p.pmv.toNat ++ r)) ∧
      (plain → ∀ f, factoryRow fid = some f → c.s j.dst = 0#32 ∧ ∃ im, tabGet (u.quad quad).bind (16 * ctx + slot) = some im ∧
        im.digest = (Config.factoryDigest (BitVec.ofNat 16 f.fid)).toNat) ∧
      (plain → factoryRow fid = none → c.s j.dst = 1#32 ∧ (u.quad quad).bind = (s.quad quad).bind) ∧
      (¬ plain → c.s j.dst = 2#32 ∧ (u.quad quad).bind = (s.quad quad).bind)

/-- R178: a reload puts the context's image in the physical slot. -/
def Sys2Proof.Spec.SlotsReload : Prop :=
  ∀ (quad ctx slot : Nat) (s : State) (im : Image), 16 * ctx + slot ∈ (s.quad quad).reloading → (s.quad quad).matrixNames slot = false →
    tabGet (s.quad quad).bind (16 * ctx + slot) = some im →
    ∃ u, exec (.slotReload quad ctx slot) s = .next u ∧ u = { s with agents := u.agents, quads := u.quads } ∧
      tabGet (u.quad quad).phys slot = some im ∧ (u.quad quad).bind = (s.quad quad).bind ∧
      (∀ x ∈ (u.quad quad).reloading, x ≠ 16 * ctx + slot) ∧ (∀ e ∈ (u.quad quad).rt, slot ∉ e.slots) ∧ SameMemory s u

/-! The matrix path (R205 to R238). -/

namespace Sys2Proof.Spec
open Sys2Proof.Machine

/-- The reads of an ARRIVE flag. -/
def arriveReads : Option Arrive → List Nat
  | some r => [r.bar.toNat]
  | none => []
/-- The quadrants an array's commands use (R230): itself, or the members of its fusion; each belongs to the context (R233). -/
abbrev arrayOwned (s : State) (a : Agent) (q : Nat) : Prop := ∀ m ∈ s.membersOf q, (s.quad m).accown = some a.ctx
/-- A shape register's K and N, or M and B (R222, R223). -/
def shapeK (w : Word) : Nat := w.toNat % 256 + 1
def shapeN (w : Word) : Nat := w.toNat / 256 % 256 + 1
def shapeB (w : Word) : Nat := w.toNat / 256 % 8

/-- A word that queues a command: predicate, reads, slots, arrival, the command it queues on the images of its slots, and
whether its register values are within their limits (R214, R219 to R227). -/
def queueRow (s : State) (a : Agent) : Instr → Option (Pred × List Nat × List (BitVec 4 × BlockNeed × Bool) × Option Arrive × (List Image → MKind) × (List Image → Prop))
  | .mloadw p sl d sh arr =>
    let w := a.s sh.toNat
    let f := fusedAxes (s.quad (quadOf s.cur)).fused
    let stride := (a.s (d.toNat + 1)).toNat
    some (p, [d.toNat, d.toNat + 1, sh.toNat], [(sl, .any, true)], arr,
      fun ims => .load sl.toNat (first ims) 128 (a.s d.toNat).toNat stride (shapeK w) (shapeN w),
      fun ims => w.toNat < 65536 ∧ shapeK w ≤ 128 * f.1 ∧ shapeN w ≤ 128 * f.2 ∧ recordSize (first ims) 128 (shapeK w) ≤ stride ∧
        s.recordsFault a (a.s d.toNat).toNat stride ((shapeN w - 1) * stride + recordSize (first ims) 128 (shapeK w)) arr = 0)
  | .mloadws p sl ns d sh arr =>
    let w := a.s sh.toNat
    let f := fusedAxes (s.quad (quadOf s.cur)).fused
    let stride := (a.s (d.toNat + 1)).toNat
    let nz := [16, 32, 64, 96].getD ns.toNat 0
    some (p, [d.toNat, d.toNat + 1, sh.toNat], [(sl, .none, true)], arr,
      fun ims => .load sl.toNat (first ims) nz (a.s d.toNat).toNat stride (shapeK w) (shapeN w),
      fun ims => w.toNat < 65536 ∧ shapeK w = 128 * f.1 ∧ shapeN w ≤ 128 * f.2 ∧ recordSize (first ims) nz (shapeK w) ≤ stride ∧
        s.recordsFault a (a.s d.toNat).toNat stride ((shapeN w - 1) * stride + recordSize (first ims) nz (shapeK w)) arr = 0)
  | .mflip p => some (p, [], [], none, fun _ => .flip, fun _ => True)
  | .mstream p sl z i32 d sh arr =>
    let w := a.s sh.toNat
    let pl := (s.quad (quadOf s.cur)).planesAfter.1
    let stride := (a.s (d.toNat + 1)).toNat
    let size (ims : List Image) : Nat := if pl.loaded then recordSize (first ims) 128 pl.k else 0
    some (p, [d.toNat, d.toNat + 1, sh.toNat], [(sl, .any, true)], arr,
      fun ims => .stream sl.toNat (first ims) z i32 (a.s d.toNat).toNat stride (shapeK w) (shapeB w),
      fun ims => w.toNat < 2048 ∧ 32 * shapeB w + shapeK w ≤ 256 ∧ pairDetail (first ims) pl i32 = 0 ∧ size ims ≤ stride ∧
        s.recordsFault a (a.s d.toNat).toNat stride (if pl.loaded then (shapeK w - 1) * stride + size ims else 0) arr = 0)
  | .mswap p arr => some (p, [], [], arr, fun _ => .swap, fun _ => s.recordsFault a 0 0 0 arr = 0)
  | .mdrain p sl rm sat i32 d m arr =>
    let stride := (a.s (d.toNat + 1)).toNat
    let nf := (fusedAxes (s.quad (quadOf s.cur)).fused).2
    let im (ims : List Image) : Option Image := if sl = 0 then none else some (first ims)
    some (p, [d.toNat, d.toNat + 1, m.toNat], if sl = 0 then [] else [(sl, .any, true)], arr,
      fun ims => .drain sl.toNat (im ims) rm.toNat sat i32 (a.s d.toNat).toNat stride (a.s m.toNat),
      fun ims => drainRecord (im ims) nf ≤ stride ∧
        s.recordsFault a (a.s d.toNat).toNat stride (drainLast (im ims) nf stride (a.s m.toNat)) arr = 0)
  | .mclear p vis m => some (p, [m.toNat], [], none, fun _ => .clear vis (a.s m.toNat), fun _ => True)
  | _ => none

/-- The oldest command of a quadrant's queue may complete (R216 to R218). -/
abbrev HeadAt (s : State) (q : Nat) (a : Agent) (c : MCmd) (rest : List MCmd) : Prop :=
  (s.quad q).queue = c :: rest ∧ s.agent? c.agent = some a ∧
  (c.kind = .swap → ∀ x ∈ s.bankReaders (outputsOf q (s.quad q).fused), x ∉ c.readers) ∧
  ∀ x ∈ a.accs, x.id < c.mark → x.todo = 0 ∧ (c.arrive.isSome = true → x.pend = 0)
/-- The same, none of its bytes having gone ahead. -/
abbrev HeadReady (s : State) (q : Nat) (a : Agent) (c : MCmd) (rest : List MCmd) : Prop := HeadAt s q a c rest ∧ c.got = []
/-- Only a quadrant has changed. -/
def SameButQuad (s u : State) (q : Nat) : Prop := u = { s with quads := u.quads } ∧ ∀ m, m ≠ q → u.quad m = s.quad m
/-- The number the n bytes from an address of a memory hold (R1). -/
def wordAt (m : Memory) (addr n : Nat) : Nat := (List.range n).foldr (fun i x => (m.read (addr + i)).toNat * 256 ^ i + x) 0
/-- The number the n bytes of a command's record at a place hold: those that have gone ahead as they were read, the others as
they stand (R215). -/
def recordNum (m : Memory) (base place n : Nat) (got : List (Nat × Byte)) : Nat :=
  (List.range n).foldr (fun i x => ((tabGet got (place + i)).getD (m.read (base + place + i))).toNat * 256 ^ i + x) 0
/-- The place of a byte of the team's allocation (R241). -/
def bankPlace (t : Team) (off : Nat) : Nat := clusterOf t.quad * 2 ^ 32 + t.cbase + off
/-- A sparse column's mask of 128 rows, and the value of row k of it (R208): the mask first, then the values of the rows whose
bits are set, in order; past the NS values, zero. -/
def sparseMask (im : Image) (ns rec_ k : Nat) : Nat := rec_ / 2 ^ (8 * (16 + ns * im.ew / 8) * (k / 128)) % 2 ^ 128
def sparseValue (im : Image) (ns rec_ k : Nat) : Option Val :=
  let mask := sparseMask im ns rec_ k
  let j := (List.range (k % 128)).countP fun i => mask.testBit i
  if mask.testBit (k % 128) then
    some (if j < ns then decodeCode im (rec_ / 2 ^ (8 * (16 + ns * im.ew / 8) * (k / 128) + 128 + im.ew * j) % 2 ^ im.ew) else .num false 0 0)
  else none
/-- What a row segment of 32 columns is drained as, and the flags it joins (R226): words, blocks, or codes of the slot's format. -/
def drained (im : Option Image) (rm : Nat) (sat i32 : Bool) (ws : List Word) : Nat × Flags :=
  let value (w : Word) : Val := if i32 then intVal 32 false w.toNat else decodeCode fp32 w.toNat
  let pack (n : Nat) (cs : List Nat) : Nat := cs.foldr (fun c x => c + 2 ^ n * x) 0
  match im with
  | none => (pack 32 (ws.map (·.toNat)), 0)
  | some im =>
    if im.blk = 2 then fp4xEncode (ws.map value)
    else if im.blk = 1 then mxEncode im rm (ws.map value)
    else (pack im.ew (ws.map fun w => (encodeVal im rm sat (value w)).1), ws.foldl (fun f w => f ||| (encodeVal im rm sat (value w)).2) 0)
/-- The bytes a segment takes, and where it begins in its record. -/
def segBytes : Option Image → Nat
  | none => 128
  | some im => if im.blk ≠ 0 then im.blkBytes else 4 * im.ew
def segPlace (im : Option Image) (column : Nat) : Nat := segBytes im * (column / 32)
/-- A save area (R234): of a context, for a quadrant of its partition. -/
def saveArea (s : State) (ctx q : Nat) : Nat := ctx / 16 * 2 ^ 52 + (match s.ctx? ctx with | some c => c.saveBase | none => 0) + 0x62000 * q
/-- The place in a save area of an element of a bank, in the region of the bank's role (R234). -/
def tilePlace (vis : Bool) (row k : Nat) : Nat :=
  (if vis then 0x20000 else 0) + 0x1000 * (4 * (row / 32) + k / 32) + 4 * (32 * (row % 32) + k % 32)
/-- R236: the tiles a spill writes of a bank, and the SAVED word of its role. A bank's tag names the working or the visible region. -/
def tagIsRole (q : Quad) (vis : Bool) : Bool := if vis then !q.tagV else q.tagW
def dirtyOf (q : Quad) (vis : Bool) : Word := if vis then q.dirtyV else q.dirtyW
def retainedIn (q : Quad) (vis : Bool) : Word := if vis then q.retV else q.retW
def tilesSpilled (q : Quad) (vis : Bool) : Word := if tagIsRole q vis then dirtyOf q vis else dirtyOf q vis ||| retainedIn q (!vis)
def savedWord (q : Quad) (vis : Bool) : Word := if tagIsRole q vis then retainedIn q vis ||| dirtyOf q vis else tilesSpilled q vis
/-- The plane of a role, whether a spill writes it, and its descriptor (R234 to R236). -/
def planeIn (q : Quad) (shadow : Bool) : Plane := if shadow then q.shadowPlane else q.activePlane
def planeSpilled (p : Plane) (shadow : Bool) : Prop := p.loaded = true ∧ (p.psaved = false ∨ p.preg ≠ shadow)
def descWord (p : Plane) : Nat :=
  if p.loaded then 1 + (p.k - 1) % 256 * 2 ^ 8 + (p.n - 1) % 256 * 2 ^ 16 + p.cls % 256 * 2 ^ 24 + p.kind % 256 * 2 ^ 32 + p.ns % 256 * 2 ^ 40 else 0
def planePlace (shadow : Bool) : Nat := if shadow then 0x50000 else 0x40000
def maskPlace (shadow : Bool) : Nat := if shadow then 0x60800 else 0x60000
/-- What a spill leaves in a save area of the bytes m that stood there (R236). -/
def Spilled (q : Quad) (area : Nat) (m n : Memory) : Prop :=
  (∀ vis, wordAt n (area + if vis then 0x61004 else 0x61000) 4 = (savedWord q vis).toNat ∧
    ∀ row k, row < 256 → k < 128 → (tilesSpilled q vis).getLsbD (4 * (row / 32) + k / 32) = true →
      wordAt n (area + tilePlace vis row k) 4 = (q.bank vis row k).toNat) ∧
  (∀ shadow, wordAt n (area + if shadow then 0x61010 else 0x61008) 8 = descWord (planeIn q shadow) ∧
    (planeSpilled (planeIn q shadow) shadow → ∀ c, c < 128 →
      (∀ k, k < 128 → wordAt n (area + planePlace shadow + 4 * (128 * c + k)) 4 = cellWord (planeIn q shadow).kind ((planeIn q shadow).weight k c) % 2 ^ 32) ∧
      ((planeIn q shadow).ns ≠ 128 → wordAt n (area + maskPlace shadow + 16 * c) 16 = mapGet 0 (planeIn q shadow).masks c % 2 ^ 128))) ∧
  ∀ x, n.read x ≠ m.read x → (area + 0x61000 ≤ x ∧ x < area + 0x61018) ∨
    (∃ vis t, (tilesSpilled q vis).getLsbD t = true ∧ area + (if vis then 0x20000 else 0) + 0x1000 * t ≤ x ∧ x < area + (if vis then 0x20000 else 0) + 0x1000 * t + 0x1000) ∨
    ∃ shadow, planeSpilled (planeIn q shadow) shadow ∧ ((area + planePlace shadow ≤ x ∧ x < area + planePlace shadow + 0x10000) ∨
      ((planeIn q shadow).ns ≠ 128 ∧ area + maskPlace shadow ≤ x ∧ x < area + maskPlace shadow + 0x800))
/-- R237: a plane rebuilt from a save area, the part of it that begins at a place of the joined plane (R231). -/
def Rebuilt (m : Memory) (area : Nat) (first : Nat × Nat) (shadow : Bool) (p : Plane) : Prop :=
  let d := wordAt m (area + if shadow then 0x61010 else 0x61008) 8
  let mask (c : Nat) : Nat := wordAt m (area + maskPlace shadow + 16 * c) 16
  p.preg = shadow ∧ (d % 256 = 0 → p = { Plane.empty with preg := shadow }) ∧
  (d % 256 ≠ 0 → p.loaded = true ∧ p.psaved = true ∧ p.k = d / 2 ^ 8 % 256 + 1 ∧ p.n = d / 2 ^ 16 % 256 + 1 ∧ p.cls = d / 2 ^ 24 % 256 ∧
    p.kind = d / 2 ^ 32 % 256 ∧ p.ns = d / 2 ^ 40 % 256 ∧
    ∀ c, c < 128 → first.2 + c < p.n → (p.ns ≠ 128 → mapGet 0 p.masks c = mask c) ∧ ∀ k, k < 128 → first.1 + k < p.k →
      p.weight k c = if p.ns = 128 ∨ (mask c).testBit k = true then
        some (wordCell (wordAt m (area + planePlace shadow + 4 * (128 * c + k)) 4)) else none)
/-- The own allocation named by a record address, and the offset in it (R207). -/
abbrev OwnPlace (s : State) (a : Agent) (addr : Nat) (t : Team) (off : Nat) : Prop := s.ownCluster a addr = some (t, off)

end Sys2Proof.Spec

open Sys2Proof Sys2Proof.Machine Sys2Proof.Spec

/-- R214, R219 to R227, R233: an MSEQ's command within its limits, on an array its context owns, enters the queue with
its arrival; nothing else changes until it completes. -/
def Sys2Proof.Spec.MatrixCommandsQueue : Prop :=
  ∀ (i : Instr) (s : State) (a : Agent) (t : Team) (p : Pred) (reads : List Nat) (slots : List (BitVec 4 × BlockNeed × Bool)) (arr : Option Arrive)
    (kind : List Image → MKind) (fits : List Image → Prop) (ims : List Image),
    queueRow s a i = some (p, reads, slots, arr, kind, fits) → UniReady .mseq false [] p (reads ++ arriveReads arr) s a →
    slotsSteady s a slots → slotsHold s a slots ims → fits ims → s.team? a.team = some t → s.inFusion (quadOf s.cur) = false →
    (s.quad (quadOf s.cur)).queue.length < 8 → NotAcquiring a → arrayOwned s a (quadOf s.cur) →
    let c : MCmd := { agent := s.cur, team := a.team, mark := a.ids, kind := kind ims, arrive := arr.map fun r => (r.scope.toNat, BitVec.ofNat 64 (a.s r.bar.toNat).toNat)
                      readers := s.bankReaders (outputsOf (quadOf s.cur) (s.quad (quadOf s.cur)).fused), got := [] }
    let q := s.quad (quadOf s.cur)
    exec i s = .next (((s.setQuad (quadOf s.cur) { q with queue := q.queue ++ [c] }).setTeam a.team { t with matrix := true }).setAgent s.cur
      ({ a with rewindable := false } : Agent).retire)

/-- R223, R225, R227: MFLIP exchanges the planes, MSWAP the banks, and MCLEAR zeroes its tiles and marks them dirty, when they
complete. -/
def Sys2Proof.Spec.ArrayCommandsComplete : Prop :=
  ∀ (q : Nat) (s : State) (a : Agent) (c : MCmd) (rest : List MCmd), HeadReady s q a c rest → (s.quad q).fused = 0 → c.arrive = none →
    (c.kind = .flip → ∃ u, exec (.matrixCmdComplete ⟨q, 0, none⟩) s = .next u ∧ SameButQuad s u q ∧
      u.quad q = { s.quad q with queue := rest, active := !(s.quad q).active }) ∧
    (c.kind = .swap → ∃ u, exec (.matrixCmdComplete ⟨q, 0, none⟩) s = .next u ∧ SameButQuad s u q ∧ (u.quad q).queue = rest ∧
      (∀ r k, (u.quad q).bank true r k = (s.quad q).bank false r k ∧ (u.quad q).bank false r k = (s.quad q).bank true r k) ∧
      (u.quad q).dirtyW = (s.quad q).dirtyV ∧ (u.quad q).dirtyV = (s.quad q).dirtyW ∧
      (u.quad q).tagW = (s.quad q).tagV ∧ (u.quad q).tagV = (s.quad q).tagW) ∧
    (∀ vis m, c.kind = .clear vis m → ∃ u, exec (.matrixCmdComplete ⟨q, 0, none⟩) s = .next u ∧ SameButQuad s u q ∧ (u.quad q).queue = rest ∧
      (∀ v, dirtyOf (u.quad q) v = if v = vis then dirtyOf (s.quad q) v ||| m else dirtyOf (s.quad q) v) ∧
      ∀ v r k, r < 256 → k < 128 → (u.quad q).bank v r k =
        if v = vis ∧ m.getLsbD (4 * (r / 32) + k / 32) = true then 0#32 else (s.quad q).bank v r k)

/-- R217: a command of any kind that carries ARRIVE completes as it would without one; then, its reads and writes performed, it
releases and makes one arrival, of no transfer units, on its barrier object. -/
def Sys2Proof.Spec.MatrixCommandsArrive : Prop :=
  ∀ (q : Nat) (s : State) (a : Agent) (c : MCmd) (rest : List MCmd) (sc key : Nat) (addr : Dword), HeadAt s q a c rest →
    c.arrive = some (sc, addr) → BarrierAt s a addr.toNat key →
    let bare : State := s.setQuad q { s.quad q with queue := { c with arrive := none } :: rest }
    ∃ u v, exec (.matrixCmdComplete ⟨q, 0, none⟩) bare = .next v ∧ exec (.matrixCmdComplete ⟨q, 0, none⟩) s = .next u ∧
      u = { v with quads := u.quads, cmem := u.cmem } ∧ (∀ m, u.quad m = (v.released a sc).quad m) ∧ (u.quad q).queue = rest ∧
      BitsWritten v.cmem u.cmem (8 * key) 64 ((Barrier.of (v.cmem.readNat key 8)).update 1 0 0).num

/-- R207 to R209, R215, R222, R231: a load fills the shadow planes of the array's members, each with its part: weight k of column
n of the whole plane is the value of element k of record n, a code, one of a block's, or where a sparse column's mask gives it
one; bytes that have gone ahead count as they were read. -/
def Sys2Proof.Spec.PlanesLoad : Prop :=
  ∀ (q : Nat) (s : State) (a : Agent) (c : MCmd) (rest : List MCmd) (t : Team) (sl off ns addr stride ke n : Nat) (im : Image),
    HeadAt s q a c rest → c.arrive = none → c.kind = .load sl im ns addr stride ke n → OwnPlace s a addr t off → n ≤ 256 → ke ≤ 256 →
    ∃ u, exec (.matrixCmdComplete ⟨q, 0, none⟩) s = .next u ∧ u = { s with quads := u.quads } ∧ (u.quad q).queue = rest ∧
      (∀ m, m ≠ q → m ∉ s.membersOf q → u.quad m = s.quad m) ∧
      ∀ m ∈ s.membersOf q, (u.quad m).activePlane = (s.quad m).activePlane ∧
        let p := (u.quad m).shadowPlane
        p.loaded = true ∧ p.k = ke ∧ p.n = n ∧ p.kind = im.kind ∧ p.cls = im.cls ∧ p.ns = ns ∧ p.psaved = false ∧
        let first := partOf q m
        let record (j size : Nat) : Nat := recordNum s.cmem (bankPlace t off) ((first.2 + j) * stride) size c.got
        ∀ j k, j < 128 → k < 128 → first.2 + j < n → first.1 + k < ke →
          (ns = 128 → im.blk = 0 → p.weight k j = some (decodeCode im
            (record j ((ke * im.ew + 7) / 8) / 2 ^ (im.ew * (first.1 + k)) % 2 ^ im.ew))) ∧
          (ns = 128 → im.blk ≠ 0 → p.weight k j = some (blockDecode im
            (record j ((ke + 31) / 32 * im.blkBytes) / 256 ^ (im.blkBytes * ((first.1 + k) / 32)) % 256 ^ im.blkBytes) ((first.1 + k) % 32)).1) ∧
          (ns ≠ 128 → p.weight k j = sparseValue im ns (record j (ke / 128 * (16 + ns * im.ew / 8))) (first.1 + k) ∧
            mapGet 0 p.masks j = sparseMask im ns (record j (ke / 128 * (16 + ns * im.ew / 8))) first.1)

/-- R215, R277: a command's records are read and written byte by byte: one byte of a plane's load, or of a raw drain of an
unfused array, goes ahead of the rest. -/
def Sys2Proof.Spec.RecordBytesGoAhead : Prop :=
  ∀ (q o : Nat) (s : State) (a : Agent) (c : MCmd) (rest : List MCmd) (t : Team) (off addr stride : Nat),
    HeadReady s q a c rest → OwnPlace s a addr t off →
    (∀ sl im ns ke n, c.kind = .load sl im ns addr stride ke n → o / stride < n → o % stride < recordSize im ns ke →
      exec (.matrixCmdComplete ⟨q, 0, some o⟩) s = .next (s.setQuad q { s.quad q with
        queue := { c with got := [(o, s.cmem.read (bankPlace t (off + o)))] } :: rest })) ∧
    (∀ rm sat i32 tiles r k j, c.kind = .drain 0 none rm sat i32 addr stride tiles → (s.quad q).fused = 0 → 512 ≤ stride →
      r < 256 → k < 128 → j < 4 → tiles.getLsbD (4 * (r / 32) + k / 32) = true → o = r * stride + 4 * k + j →
      ∃ u, exec (.matrixCmdComplete ⟨q, 0, some o⟩) s = .next u ∧ u = { s with quads := u.quads, cmem := u.cmem } ∧
        let b : Byte := BitVec.ofNat 8 (((s.quad q).bank true r k).toNat / 2 ^ (8 * j))
        u.quad q = { s.quad q with queue := { c with got := [(o, b)] } :: rest } ∧ (∀ m, m ≠ q → u.quad m = s.quad m) ∧
        ∀ n, u.cmem.read n = if n = bankPlace t (off + o) then b else s.cmem.read n)

/-- R210 to R212, R224: a stream on an unfused array adds each record's products with the active plane's columns into its
rows of the working bank; under .I32 the sums are exact modulo 2^32. -/
def Sys2Proof.Spec.StreamsAccumulate : Prop :=
  ∀ (q : Nat) (s : State) (a : Agent) (c : MCmd) (rest : List MCmd) (t : Team) (sl off addr stride m b : Nat) (im : Image) (z i32 : Bool),
    HeadReady s q a c rest → c.arrive = none → c.kind = .stream sl im z i32 addr stride m b → OwnPlace s a addr t off → (s.quad q).fused = 0 →
    (s.quad q).activePlane.loaded = true → (s.quad q).activePlane.n ≤ 128 → (s.quad q).activePlane.k ≤ 128 → 32 * b + m ≤ 256 →
    let p := (s.quad q).activePlane
    let x (j k : Nat) : Val := (recordElem im 128 (wordAt s.cmem (bankPlace t (off + j * stride)) (recordSize im 128 p.k)) k).getD (.num false 0 0)
    let old (r n : Nat) : Word := (s.quad q).bank false r n
    ∃ u, exec (.matrixCmdComplete ⟨q, 0, none⟩) s = .next u ∧ SameButQuad s u q ∧ (u.quad q).queue = rest ∧
      (∀ r n, r < 256 → n < 128 → (u.quad q).bank true r n = (s.quad q).bank true r n) ∧
      ∀ r n, r < 256 → n < 128 → (u.quad q).bank false r n =
        if 32 * b ≤ r ∧ r < 32 * b + m ∧ n < p.n then
          if i32 then mod32 ((if z then 0 else num true (old r n)) +
            sum ((List.range p.k).map fun k => match p.weight k n with
              | some w => intOfVal (x (r - 32 * b) k) * intOfVal w
              | none => 0))
          else BitVec.ofNat 32 (streamElem (p.kind == 2) z false p.k (x (r - 32 * b)) (fun k => p.weight k n) (old r n).toNat)
        else old r n

/-- R226, R231: a drain writes each named tile of the visible bank of each output quadrant to its records, row by row: raw words,
or the codes or blocks of its slot's format, whose flags join the agent's. -/
def Sys2Proof.Spec.DrainsWriteTheirTiles : Prop :=
  ∀ (q : Nat) (s : State) (a : Agent) (c : MCmd) (rest : List MCmd) (t : Team) (sl rm off addr stride : Nat) (im : Option Image) (sat i32 : Bool)
    (tiles : Word), HeadReady s q a c rest → c.arrive = none → c.kind = .drain sl im rm sat i32 addr stride tiles → OwnPlace s a addr t off →
    let outs := outputsOf q (s.quad q).fused
    segBytes im * (4 * outs.length) ≤ stride → c.agent < orphanBase →
    let named (i o r j : Nat) : Prop := outs[i]? = some o ∧ r < 256 ∧ j < 4 ∧ tiles.getLsbD (4 * (r / 32) + j) = true
    let place (i r j : Nat) : Nat := bankPlace t (off + r * stride + segPlace im (128 * i + 32 * j))
    let seg (o r j : Nat) : Nat × Flags := drained im rm sat i32 ((List.range 32).map fun x => (s.quad o).bank true r (32 * j + x))
    ∃ u f, exec (.matrixCmdComplete ⟨q, 0, none⟩) s = .next u ∧ (u.quad q).queue = rest ∧ u.agent? c.agent = some { a with flags := a.flags ||| f } ∧
      SameOthers s u c.agent ∧ SameMemoryBut s u false false false true false ∧
      (∀ o r k, (u.quad o).bank true r k = (s.quad o).bank true r k) ∧
      (∀ i o r j, named i o r j → wordAt u.cmem (place i r j) (segBytes im) = (seg o r j).1 % 256 ^ segBytes im) ∧
      (∀ x, f.getLsbD x = true ↔ ∃ i o r j, named i o r j ∧ (seg o r j).2.getLsbD x = true) ∧
      ∀ n, (∀ i o r j, named i o r j → n < place i r j ∨ place i r j + segBytes im ≤ n) → u.cmem.read n = s.cmem.read n

/-- R218, R229: MREADV of an array its context owns enters flight, and when it returns gives each active lane its element of a
row of the visible bank as it then stands; on an array of another context it traps ACCFIRST, whatever its lanes. -/
def Sys2Proof.Spec.VisibleBankReads : Prop :=
  ∀ (p : Pred) (nr : Bool) (d : VDst) (r : BitVec 7) (s : State) (a : Agent) (t : Team), s.team? a.team = some t →
    let q := s.quad (quadOf s.cur)
    let w := (a.s r.toNat).toNat
    let x : Access := {
      id := a.ids, kind := .load, word := 8, space := 2, ew := 31, base := 0, pol := none, faulted := 0, codes := [], dst := some (vdstCodeOf d)
      lanes := (lanes (a.active p)).map fun i =>
        { lane := i, bit := Int.ofNat (128 * (w % 256) + 32 * (w / 256 % 4) + i), data := 0, cmp := 0, value := 0, got := [] }
      todo := 0, pend := a.active p, run := a.runs, sup := a.sv, told := false, acq := none, l1 := true, memo := none }
    (VecReady p [sCode r.toNat] [vdstCodeOf d] (namedDst d) s a → q.accown = some a.ctx →
      (x.results ≠ 0 → (s.overwrite s.cur a [vdstCodeOf d]).1.inFlight (quadOf s.cur) + x.results ≤ 128) →
      exec (.mreadv p nr d r) s = .next ((s.setTeam a.team { t with matrix := true }).setAgent s.cur
        ({ a.discard [vdstCodeOf d] with accs := (a.discard [vdstCodeOf d]).accs ++ [x], ids := a.ids + 1 } : Agent).retire)) ∧
    (∀ (ag : Nat) (b : Agent) (y : Access), s.agent? ag = some b → (b.accs.find? fun z => z.id == y.id) = some y → y.space = 2 →
      y.dst.isSome = true → y.pend ≠ 0 → y.todo = 0 → y.faulted = 0 → s.sentBy b.uid y.id = false → (y.lanes.map (·.lane)).Nodup → (∀ l ∈ y.lanes, l.lane < 32) →
      ∃ u c, exec (.loadValueReturn ag y.id) s = .next u ∧ u.agent? ag = some c ∧ SameMemory s u ∧ SameOthers s u ag ∧
        c.accs = b.accs.filter (fun z => z.id != y.id) ∧
        Delivered { y with lanes := y.lanes.map fun l =>
          { l with value := ((s.quad (quadOf ag)).bank true (l.bit.toNat / 128) (l.bit.toNat % 128)).toNat } } b c (fun _ => True)) ∧
    (VecClear [sCode r.toNat] [vdstCodeOf d] (namedDst d) s a → MayTrap s a → q.accown ≠ some a.ctx →
      ∃ b, exec (.mreadv p nr d r) s = .next (s.setAgent s.cur b) ∧
        Entered s a b 0x07 (quadOf s.cur % 4 + 4 * (match q.accown with | some o => 512 + o | none => 0)) a.wordAddr a.header
          (if a.active p = 0 then a.slot.mask else a.active p) 0)

/-- R216: MWAIT returns when no command of its MSEQ is outstanding. -/
def Sys2Proof.Spec.MatrixWaits : Prop :=
  ∀ (p : Pred) (s : State) (a : Agent), UniReady .mseq false [] p [] s a →
    ((∀ c ∈ (s.quad (quadOf s.cur)).queue, c.agent ≠ s.cur) → exec (.mwait p) s = .next (s.setAgent s.cur a.retire)) ∧
    ((∃ c ∈ (s.quad (quadOf s.cur)).queue, c.agent = s.cur) → exec (.mwait p) s = .next (s.setAgent s.cur (waits a)))

/-- R230 to R232: MFUSE joins the members its edge mask names, or returns why not; MSPLIT ends the fusion. Either leaves
every member's planes empty. -/
def Sys2Proof.Spec.FusionsFormAndEnd : Prop :=
  ∀ (p : Pred) (e r : SReg) (s : State) (a : Agent) (t : Team), s.team? a.team = some t → s.inFusion (quadOf s.cur) = false →
    (s.quad (quadOf s.cur)).queue = [] →
    let q := quadOf s.cur
    let mask := (a.s e.toNat).toNat
    (UniReady .mseq false [r.toNat] p [e.toNat] s a → NotAcquiring a → mask < 16 → (s.quad q).accown = some a.ctx →
      (s.fuseStatus q a.ctx mask ≠ 0 → exec (.mfuse p e r) s = .next (s.setAgent s.cur
        (({ a.discard [sCode r.toNat] with rewindable := false } : Agent).setS r.toNat (BitVec.ofNat 32 (s.fuseStatus q a.ctx mask))).retire)) ∧
      (s.fuseStatus q a.ctx mask = 0 → (∀ m ∈ fusedMembers q mask, (s.quad m).accown = some a.ctx) →
        ∃ u, exec (.mfuse p e r) s = .next u ∧ u = { s with agents := u.agents, teams := u.teams, quads := u.quads } ∧ SameOthers s u s.cur ∧
          u.agent? s.cur = some (({ a.discard [sCode r.toNat] with rewindable := false } : Agent).setS r.toNat 0#32).retire ∧
          u.team? a.team = some { t with edges := mask, matrix := true } ∧ (u.quad q).fused = mask ∧
          (∀ m ∈ fusedMembers q mask, (u.quad m).plane0 = Plane.empty ∧ (u.quad m).plane1 = Plane.empty) ∧
          ∀ m, m ∉ fusedMembers q mask → m ≠ q → u.quad m = s.quad m)) ∧
    (UniReady .mseq false [] p [] s a → arrayOwned s a q → (s.quad q).fused = 0 → exec (.msplit p) s = .next (s.setAgent s.cur a.retire)) ∧
    (UniReady .mseq false [] p [] s a → arrayOwned s a q → (s.quad q).fused ≠ 0 →
      ∃ u, exec (.msplit p) s = .next u ∧ u = { s with agents := u.agents, teams := u.teams, quads := u.quads } ∧ SameOthers s u s.cur ∧
        u.agent? s.cur = some a.retire ∧ u.team? a.team = some { t with edges := 0 } ∧ (u.quad q).fused = 0 ∧
        ∀ m ∈ fusedMembers q (s.quad q).fused, (u.quad m).plane0 = Plane.empty ∧ (u.quad m).plane1 = Plane.empty)

/-- R233 to R237: ACCSPILL of an owned target writes to the owner's save area its dirty tiles, and those its banks' tags leave in
the other region, the SAVED words, the planes not saved there, and their descriptors, and nothing else, and gives the array up;
ACCFILL of an unowned one reads tiles, planes, tags and retained masks back and takes it. Each returns 1 for a target it may not
touch, and 2 where the target is not so owned. -/
def Sys2Proof.Spec.AccumulatorsSaveAndRestore : Prop :=
  ∀ (p : Pred) (tq : BitVec 2) (r : SReg) (s : State) (a : Agent) (t : Team), UniReady .mseq true [r.toNat] p [] s a → s.team? a.team = some t →
    s.inFusion (quadOf s.cur) = false →
    let target := 4 * (quadOf s.cur / 4) + tq.toNat
    let q := s.quad target
    let returns (i : Instr) (v : Word) (u : State) : Prop := exec i s = .next u ∧ SameOthers s u s.cur ∧
      u.agent? s.cur = some (({ a.discard [sCode r.toNat] with rewindable := false } : Agent).setS r.toNat v).retire ∧
      u.team? a.team = some { t with matrix := true } ∧ SameMemoryBut s u false false true false false
    (s.targetRefused (quadOf s.cur) target a.ctx = true → (∃ u, returns (.accspill p tq r) 1#32 u) ∧ ∃ u, returns (.accfill p tq r) 1#32 u) ∧
    (s.targetRefused (quadOf s.cur) target a.ctx = false →
      (q.accown = none → ∃ u, returns (.accspill p tq r) 2#32 u) ∧ ((∃ o, q.accown = some o) → ∃ u, returns (.accfill p tq r) 2#32 u) ∧
      (s.arrayBusy target = false → ∀ o, q.accown = some o → ∃ u, returns (.accspill p tq r) 0#32 u ∧ Spilled q (saveArea s o target) s.sysm u.sysm ∧
        (u.quad target).accown = none ∧ (∀ vis row k, (u.quad target).bank vis row k = q.bank vis row k) ∧
        (u.quad target).plane0 = Plane.empty ∧ (u.quad target).plane1 = Plane.empty ∧ (u.quad target).dirtyW = 0 ∧ (u.quad target).dirtyV = 0) ∧
      (s.arrayBusy target = false → q.accown = none → ∃ u, returns (.accfill p tq r) 0#32 u ∧ (u.quad target).accown = some a.ctx ∧
        (u.quad target).dirtyW = 0 ∧ (u.quad target).dirtyV = 0 ∧ (∀ n, u.sysm.read n = s.sysm.read n) ∧
        let area := saveArea s a.ctx target
        let saved (vis : Bool) : Nat := wordAt s.sysm (area + if vis then 0x61004 else 0x61000) 4
        (u.quad target).tagW = true ∧ (u.quad target).tagV = false ∧
        (∀ vis, retainedIn (u.quad target) vis = BitVec.ofNat 32 (saved vis)) ∧
        (∀ shadow, Rebuilt s.sysm area (s.partHeld target) shadow (planeIn (u.quad target) shadow)) ∧
        ∀ vis row k, row < 256 → k < 128 → (u.quad target).bank vis row k =
          if (saved vis).testBit (4 * (row / 32) + k / 32) then BitVec.ofNat 32 (wordAt s.sysm (area + tilePlace vis row k) 4) else 0#32))

/-! Channels and collectives (R327 to R349). -/

namespace Sys2Proof.Spec
open Sys2Proof.Machine

/-- The gang of a channel word once it has issued: it is not rewindable (R336). -/
def chan (a : Agent) (d : SReg) : Agent := { a.discard [sCode d.toNat] with rewindable := false }
/-- An entry may be used (R329): its KIND is one of some, a permission bit is set, ALLOW covers the charge. -/
abbrev MayUse (e : Nat) (kinds perms : List Nat) (charge : Nat) : Prop :=
  e % 16 ∈ kinds ∧ (∃ b ∈ perms, e.testBit b = true) ∧ charge ≤ e / 2 ^ 128 % 2 ^ 64
/-- Entry f is entry e after one more message of n bytes (R329, R331): ALLOW is less by n, SENT is one more. -/
abbrev Charged (e f n : Nat) : Prop :=
  f / 2 ^ 128 % 2 ^ 64 = e / 2 ^ 128 % 2 ^ 64 - n ∧ f / 2 ^ 192 % 2 ^ 32 = (e / 2 ^ 192 % 2 ^ 32 + 1) % 2 ^ 32 ∧
  f % 2 ^ 128 = e % 2 ^ 128 ∧ f / 2 ^ 224 = e / 2 ^ 224
/-- The place of a cluster side of an engine word (R309). -/
abbrev ClusterSide (s : State) (a : Agent) (addr n place : Nat) : Prop :=
  ∃ t ∈ s.clusterTeam a addr, addr % 4 = 0 ∧ addr % 2 ^ 22 + n ≤ t.csize ∧ place = clusterOf t.quad * 2 ^ 32 + t.cbase + addr % 2 ^ 22
/-- A message as CHRECV writes it into n bytes (R338). -/
def receivedBytes (m : Msg) (n : Nat) : List Byte :=
  let cut := m.bytes.take (n - 16)
  bytesOfNat 4 m.bytes.length ++ bytesOfNat 4 m.num ++ bytesOfNat 2 m.peer ++
    [BitVec.ofNat 8 (m.ctx % 16), BitVec.ofNat 8 ((if cut.length < m.bytes.length then 1 else 0) + if m.gap then 2 else 0)] ++ bytesOfNat 4 0 ++ cut

end Sys2Proof.Spec

open Sys2Proof Sys2Proof.Machine Sys2Proof.Spec

/-- R281, R329, R337: CHSEND releases, charges its capability with its payload and enters a command of its gang that is to read it; its
status is awaited. -/
def Sys2Proof.Spec.MessagesAreSent : Prop :=
  ∀ (p : Pred) (src ctl len d : SReg) (rel : Option (BitVec 3)) (s : State) (a : Agent) (c : Ctx),
    let i := (a.s ctl.toNat).toNat % 256
    let sp := (a.s ctl.toNat).toNat / 256 % 2
    let n := (a.s len.toNat).toNat
    let addr := (a.pair src.toNat).toNat
    let e := c.cap i
    UniReady .gang false [d.toNat] p [src.toNat, src.toNat + 1, ctl.toNat, len.toNat] s a → s.ctx? a.ctx = some c →
    (a.s ctl.toNat).toNat < 512 → n % 4 = 0 → 4 ≤ n → n ≤ 1048576 → MayUse e [1, 2] [4] n → s.rangeCode a sp addr n = 0 →
    NotAcquiring a → (rel.isSome = true → Released s a) →
    let x : Cmd := {
      id := a.ids, kind := .send sp addr n i e (e / 2 ^ 192 % 2 ^ 32) d.toNat, acq := false, rel := false
      scope := match rel with | some r => r.toNat | none => 0
      fin := .none, aux := 0, pol := none, batch := none, fault := none, told := false, bad := [], got := [], put := [] }
    ∃ f, exec (.chsend p src ctl len d rel) s = .next (((releasedBy s a (rel.map (·.toNat))).setCtx a.ctx f).setAgent s.cur ({ chan a d with
        cmds := a.cmds ++ [x], ids := a.ids + 1, pending := (sCode d.toNat, a.runs) :: a.pending } : Agent).retire) ∧
      f = { c with caps := f.caps } ∧ Charged e (f.cap i) n ∧ ∀ j, j ≠ i → f.cap j = c.cap j

/-- R331, R333, R337: a CHSEND's command that has read its payload hands the message to the transport, and its status is 0: a host
ring with room takes it at once unless an earlier message of the capability waits or is still being read, and every other message
waits to leave, on a session whose keys are agreed first. Which values of a ring changed while enabled it uses is free (R405, log 54).
Where the payload's read faults LOST counts, and on a host ring the next message shows GAP (R338); that the fault stands as a parked
load on the status register is the model's choice (log 37). -/
def Sys2Proof.Spec.MessagesLeave : Prop :=
  ∀ (ag i e n num dst sp addr : Nat) (s : State) (a : Agent) (c : Ctx) (x : Cmd), s.agent? ag = some a → a.ended = false → ag < orphanBase →
    s.ctx? a.ctx = some c → (a.cmds.find? fun y => y.id == x.id) = some x → x.kind = .send sp addr n i e num dst → x.fault = none → x.acq = false → x.rel = false →
    x.fin = .none →
    (∀ place, sp = 1 → ClusterSide s a addr n place → addr < 2 ^ 64 → x.got = [] → (∀ y ∈ a.accs, y.id < x.id → y.todo = 0) →
      ∃ x', State.cmdParts ag a x.left x s = .ok x' s ∧ x'.payload n = (List.range n).map fun j => s.cmem.read (place + j)) ∧
    (∀ x' t', State.cmdParts ag a x.left x s = .ok x' t' →
      let t := t'.ownPackets s.hub.outbox.length a.uid x.id
      t.sentBy a.uid x.id = false → t.sendsBefore a.ctx i num = false →
      let bs := x'.payload n
      let session := 64 * (a.ctx / 16) + e / 2 ^ 16 % 2 ^ 8
      ∃ u b, exec (.copyComplete ag ⟨x.id, none⟩) s = .next u ∧ SameOthers s u ag ∧ u.agent? ag = some b ∧ (0 < dst → b.s dst = 0#32) ∧
        (∀ r, r ≠ dst → b.s r = a.s r) ∧ b.pending = a.pending.filter (fun y => y.1 != sCode dst) ∧
        b.cmds.map (·.id) = (a.cmds.filter fun y => y.id != x.id).map (·.id) ∧
        (e % 16 ≠ 2 → u.hub.outbox = t.hub.outbox ++ [⟨some session, none,
            .message (e / 2 ^ 32 % 2 ^ 16) a.ctx i (BitVec.ofNat 32 num) (e / 2 ^ 48 % 16) (BitVec.ofNat 4 (e / 2 ^ 52)) bs⟩] ∧
          ∀ pt, t.part? (session / 64) = some pt → (pt.session (session % 64)).agreed = false →
            ∃ pu, u.part? (session / 64) = some pu ∧ (pu.session (session % 64)).asking = true) ∧
        (e % 16 = 2 →
          let r := e / 2 ^ 32 % 2 ^ 64
          let waits : Prop := u.hub.outbox = t.hub.outbox ++ [{ session := none, owner := none, packet := .message 65536 a.ctx i (BitVec.ofNat 32 num) r 0 bs }]
          ((∃ y ∈ t.hub.outbox, toHost a.ctx i y = true) → waits) ∧
          (∀ vf, t.vfOf a.ctx = some vf →
            let x := (t.vf vf).ring r
            let use := x.used t.fresh
            (ringOn use.2.2 = false ∨ x.full use.2.2 = true → waits) ∧
            ((∀ y ∈ t.hub.outbox, toHost a.ctx i y = false) → ringOn use.2.2 = true → x.full use.2.2 = false →
              u.hub.outbox = t.hub.outbox ∧ u.hub.msix = t.hub.msix ++ [(vf, use.2.2 / 2 ^ 8 % 2 ^ 11)] ∧
              ((u.vf vf).ring r).prod = (x.prod + 1) % 2 ^ 32)))) ∧
    ∀ part code va wr t, s.cmdDo ag a x part = .fault code va wr t → code ≠ 100 →
      (e % 16 = 2 → t.sendsBefore a.ctx i num = false ∧ ∀ y ∈ t.hub.outbox, toHost a.ctx i y = false) →
      ∃ u b f y, exec (.copyFault ag ⟨x.id, part⟩) s = .next u ∧ SameOthers s u ag ∧ u.hub.outbox = t.hub.outbox ∧ u.agent? ag = some b ∧
        b.accs = a.accs ++ [y] ∧ b.cmds = a.cmds.filter (fun z => z.id != x.id) ∧ b.pending = a.pending.filter (fun z => z.1 != sCode dst) ∧
        y.dst = some (sCode dst) ∧ y.codes = [(0, code)] ∧ y.pend = 0 ∧ y.faulted = 1 ∧
        u.ctx? a.ctx = some f ∧ f.cap i / 2 ^ 224 % 2 ^ 16 = min (c.cap i / 2 ^ 224 % 2 ^ 16 + 1) 65535 ∧ (e % 16 = 2 → hostStream i ∈ f.gaps)

/-- R338: CHRECV takes the oldest message of its queue, writes it with its header into the buffer, and returns the bytes
written; it waits while the queue is empty, keeping the entry it was checked against (R329), and for the gang's earlier accesses to the buffer's space (R279). -/
def Sys2Proof.Spec.MessagesAreReceived : Prop :=
  ∀ (p : Pred) (dst ctl len d : SReg) (acq : Option (BitVec 3)) (s : State) (a : Agent) (c : Ctx),
    let sp := (a.s ctl.toNat).toNat / 256 % 2
    let n := (a.s len.toNat).toNat
    let addr := (a.pair dst.toNat).toNat
    let e := match a.block with | .chrecv e => e | _ => c.cap ((a.s ctl.toNat).toNat % 256)
    let q := e / 2 ^ 52 % 16
    UniReady .gang false [d.toNat] p [dst.toNat, dst.toNat + 1, ctl.toNat, len.toNat] s a → s.ctx? a.ctx = some c →
    (a.s ctl.toNat).toNat < 512 → n % 4 = 0 → 16 ≤ n → n ≤ 1048592 → MayUse e [1] [5] 0 → s.rangeCode a sp addr n = 0 → NotAcquiring a →
    (sp = 0 → s.sideHeld a.ctx addr n = false) →
    let b := a.discard [sCode d.toNat]
    (b.outTo sp = true → exec (.chrecv p dst ctl len d acq) s = .next (s.setAgent s.cur (waits b))) ∧
    (b.outTo sp = false → c.queueOf q = [] →
      exec (.chrecv p dst ctl len d acq) s = .next (s.setAgent s.cur (waits { b with block := .chrecv e }))) ∧
    ∀ m ms, b.outTo sp = false → c.queueOf q = m :: ms →
      let bs := receivedBytes m n
      ∃ u b f, exec (.chrecv p dst ctl len d acq) s = .next u ∧ SameOthers s u s.cur ∧ u.agent? s.cur = some b ∧
        b = (({ chan a d with accs := b.accs, ids := b.ids } : Agent).setS d.toNat (BitVec.ofNat 32 bs.length)).retire ∧
        u.ctx? a.ctx = some f ∧ f.queueOf q = ms ∧ (∀ r, r ≠ q → f.queueOf r = c.queueOf r) ∧
        ∀ place, sp = 1 → ClusterSide s a addr n place → SameMemoryBut s u false false false true false ∧ b.accs = (chan a d).accs ∧
          (∀ sc, acq = some sc → Acquired s u s.cur a.ctx sc.toNat) ∧
          ∀ j, u.cmem.read j = if place ≤ j ∧ j < place + bs.length then bs.getD (j - place) 0 else s.cmem.read j

/-- R339, R340: CHPOLL returns the size of the oldest message, or 0, and CHCAP a word of an entry; in user mode the
upper half of word 0 reads zero. -/
def Sys2Proof.Spec.ChannelsAreInspected : Prop :=
  ∀ (p : Pred) (x w d : SReg) (s : State) (a : Agent) (c : Ctx), s.ctx? a.ctx = some c → (a.s x.toNat).toNat < 256 →
    let e := c.cap (a.s x.toNat).toNat
    let k := (a.s w.toNat).toNat % 8
    let v := e / 2 ^ (32 * k)
    (UniReady .gang false [d.toNat] p [x.toNat] s a → MayUse e [1] [5] 0 →
      exec (.chpoll p x d) s = .next (s.setAgent s.cur ((chan a d).setS d.toNat (match c.queueOf (e / 2 ^ 52 % 16) with
        | [] => 0#32
        | m :: _ => BitVec.ofNat 32 (16 + m.bytes.length))).retire)) ∧
    (UniReady .gang false [d.toNat] p [x.toNat, w.toNat] s a →
      exec (.chcap p x w d) s = .next (s.setAgent s.cur ((chan a d).setS d.toNat
        (BitVec.ofNat 32 (if k = 0 ∧ a.sv = false then v % 2 ^ 16 else v))).retire))

/-- R341: CHGRANT replaces an entry whose image keeps the rules of R327 and R328, keeping SENT, LOST and LATE where KIND and
ENDPT stay; revokes one; or binds a hub slot to a factory image, which is measured. -/
def Sys2Proof.Spec.CapabilitiesAreGranted : Prop :=
  ∀ (i : Instr) (p : Pred) (desc op img d : SReg) (s : State) (a : Agent) (c : Ctx),
    i = .chgrantWrite p desc op img d ∨ i = .chgrantRevoke p desc op img d ∨ i = .chgrantBind p desc op img d →
    UniReady .gang true [d.toNat] p [desc.toNat, op.toNat, img.toNat, img.toNat + 1] s a → s.ctx? a.ctx = some c →
    let w := (a.s op.toNat).toNat
    let n := w % 256
    let old := c.cap n
    let status (v : Word) : Agent := ((chan a d).setS d.toNat v).retire
    (w / 256 = 0 → NotAcquiring a → a.clusterBusy = false → ∀ place, (∃ t ∈ s.clusterTeam a (a.s desc.toNat).toNat,
        (a.s desc.toNat).toNat % 2 ^ 22 + 32 ≤ t.csize ∧ place = clusterOf t.quad * 2 ^ 32 + t.cbase + (a.s desc.toNat).toNat % 2 ^ 22) →
      let image := wordAt s.cmem place 32
      let kept := if image % 16 = old % 16 ∧ image / 2 ^ 32 % 2 ^ 64 = old / 2 ^ 32 % 2 ^ 64 then old / 2 ^ 192 % 2 ^ 64 else 0
      (capImageOk image = true →
        exec i s = .next ((s.setCtx a.ctx (c.setCap n (image % 2 ^ 192 + kept * 2 ^ 192))).setAgent s.cur (status 0#32))) ∧
      (capImageOk image = false → exec i s = .next (s.setAgent s.cur (status 1#32)))) ∧
    (w / 256 = 1 → exec i s = .next ((s.setCtx a.ctx (c.setCap n (old / 16 * 16))).setAgent s.cur (status 0#32))) ∧
    (w / 256 = 2 → ∀ pt, s.part? (a.ctx / 16) = some pt → s.hubSlotBusy (a.ctx / 16) (n % 8) = false → NotAcquiring a →
      (∀ x ∈ a.accs, x.dst = none → x.pend = 0) → (a.pair img.toNat).getLsbD 63 = true →
      let fid := (a.pair img.toNat).toNat % 65536
      let plain : Prop := (a.pair img.toNat).toNat / 65536 % 2 ^ 47 = 0
      ∃ u pu v, exec i s = .next u ∧ SameOthers s u s.cur ∧ u.agent? s.cur = some (status v) ∧ u.part? (a.ctx / 16) = some pu ∧
        (∃ r, r.length = 80 ∧ pu.log = pt.log ++ [r] ∧ pu.pmv = Config.sha3_512 (bytesOfNat 64 pt.pmv.toNat ++ r)) ∧
        (plain → ∀ f, factoryRow fid = some f → v = 0#32 ∧ ∃ im, tabGet pu.hslots (n % 8) = some im ∧
          im.digest = (Config.factoryDigest (BitVec.ofNat 16 f.fid)).toNat) ∧
        (plain → factoryRow fid = none → v = 1#32 ∧ pu.hslots = pt.hslots) ∧ (¬ plain → v = 2#32 ∧ pu.hslots = pt.hslots))

/-- R333, R342: CHKEY of a session whose keys are agreed returns 0, and otherwise asks for their agreement, unless it is under
way, and awaits it; its outcome, 0, 1 where the identity is not the one of the partition's table, 2 at the time limit, reaches a
gang that waits. A renewal changes nothing. -/
def Sys2Proof.Spec.KeysAreAgreed : Prop :=
  (∀ (p : Pred) (x d : SReg) (s : State) (a : Agent) (c : Ctx) (pt : Part), UniReady .gang false [d.toNat] p [x.toNat] s a →
    s.ctx? a.ctx = some c → s.part? (a.ctx / 16) = some pt → (a.s x.toNat).toNat < 256 →
    let e := c.cap (a.s x.toNat).toNat
    let k := e / 2 ^ 16 % 2 ^ 8
    MayUse e [1, 3] [4, 5, 6] 0 → k < 64 →
    ((pt.session k).agreed = true → exec (.chkey p x d) s = .next (s.setAgent s.cur ((chan a d).setS d.toNat 0#32).retire)) ∧
    ((pt.session k).agreed = false → ∃ u pu, exec (.chkey p x d) s = .next u ∧
      u = { s with agents := u.agents, parts := u.parts } ∧ SameOthers s u s.cur ∧
      u.agent? s.cur = some ({ chan a d with pending := (sCode d.toNat, a.runs) :: a.pending } : Agent).retire ∧ u.part? (a.ctx / 16) = some pu ∧
      pu.session k = { pt.session k with
        asking := true
        sought := if (pt.session k).asking then (pt.session k).sought else if e % 16 = 1 then [e / 2 ^ 32 % 2 ^ 16] else []
        waiters := (pt.session k).waiters ++ [(a.uid, d.toNat)] })) ∧
  (∀ (part k : Nat) (s : State) (pt : Part), s.part? part = some pt → (pt.session k).agreed = true → exec (.keyRenewal part k) s = .next s) ∧
  ∀ (i : Instr) (part k v uid n : Nat) (s : State) (pt : Part), s.part? part = some pt →
    (∃ peer identity, i = .packetReceive (.agreed part k peer identity) ∧ (s.spanOpen = true ∨ s.isSelf part peer = true) ∧ ((pt.session k).sought = [] ∨ peer ∈ (pt.session k).sought) ∧
      v = if ∃ x, tabGet pt.peers peer = some x ∧ x.2 = identity then 0 else 1) ∨ (i = .chkeyTimeout part k ∧ v = 2) →
    (pt.session k).asking = true → (pt.session k).waiters = [(uid, n)] →
    (∃ u pu, exec i s = .next u ∧ u = { s with agents := u.agents, parts := u.parts } ∧ u.part? part = some pu ∧
      pu.session k = { agreed := v == 0, asking := false, sought := [], waiters := [] } ∧
      ∀ key a, s.agentByUid uid = some (key, a) → a.ended = false → 0 < n → ∃ b, u.agent? key = some b ∧ b.s n = BitVec.ofNat 32 v ∧
        b.pending = a.pending.filter (fun x => x.1 != sCode n) ∧ (∀ m, m ≠ n → b.s m = a.s m) ∧ SameOthers s u key)

/-- R16, R330, R331: a message of a peer of the partition's table, which comes by a port in span use, is delivered in its stream's
order, once: one already passed is dropped, one that is not the next is held, and the next is delivered, with those held behind it,
where its queue has room. Whether it has is not predictable: a free choice for each message (log 38), and one without room is held. A
skip, of what a queue or a host ring is missing, marks every later message of the stream, the model's reading of GAP (log 39), and
tells the sender, whose LOST counts. A packet whose tag fails is dropped and counted. -/
def Sys2Proof.Spec.MessagesArriveInOrder : Prop :=
  (∀ (peer ctx stream dest : Nat) (num : Word) (queue : BitVec 4) (payload : List Byte) (s : State) (c : Ctx) (pt : Part),
    peer < 65535 → s.part? (dest / 16) = some pt → (tabGet pt.peers peer).isSome = true → s.isSelf (dest / 16) peer = false → s.spanOpen = true →
    s.ctx? dest = some c → c.stilled = false → payload.length % 4 = 0 → 4 ≤ payload.length → payload.length ≤ 1048576 →
    let q := queue.toNat
    let st := streamKey q peer ctx stream
    let next := mapGet 0 c.expect st
    let held := (tabGet c.early st).getD []
    let m : Msg := { num := num.toNat, peer, ctx := ctx % 16, stream, gap := false, bytes := payload }
    let marked (m : Msg) : Msg := { m with gap := decide (st ∈ c.gaps) }
    let passed : Prop := 2 ^ 31 ≤ (num.toNat + 2 ^ 32 - next % 2 ^ 32) % 2 ^ 32
    ∃ u d, exec (.packetReceive (.message peer ctx stream num dest queue payload)) s = .next u ∧
      u = { s with ctxs := u.ctxs, fresh := u.fresh } ∧ u.ctx? dest = some d ∧ (∀ k, k ≠ dest → u.ctx? k = s.ctx? k) ∧
      (passed → d = c) ∧
      (¬ passed → (∀ x ∈ held, x.num ≠ next) → num.toNat ≠ next →
        d.rx = c.rx ∧ d.expect = c.expect ∧ tabGet d.early st = some (if held.any (fun x => x.num == num.toNat) then held else held ++ [m])) ∧
      (¬ passed → held = [] → num.toNat = next →
        (s.rooms 1 = true → d.queueOf q = c.queueOf q ++ [marked m] ∧ mapGet 0 d.expect st = (next + 1) % 2 ^ 32 ∧ tabGet d.early st = none) ∧
        (s.rooms 1 = false → d.rx = c.rx ∧ d.expect = c.expect ∧ tabGet d.early st = some [m])) ∧
      (∀ later, ¬ passed → held = [later] → num.toNat = next → later.num = (next + 1) % 2 ^ 32 →
        (s.rooms 2 = true → s.rooms 1 = true →
          d.queueOf q = c.queueOf q ++ [marked m, marked later] ∧ mapGet 0 d.expect st = (next + 2) % 2 ^ 32 ∧ tabGet d.early st = none) ∧
        (s.rooms 2 = true → s.rooms 1 = false →
          d.queueOf q = c.queueOf q ++ [marked m] ∧ mapGet 0 d.expect st = (next + 1) % 2 ^ 32 ∧ tabGet d.early st = some [later]) ∧
        (s.rooms 2 = false → d.rx = c.rx ∧ d.expect = c.expect ∧ tabGet d.early st = some [later, m]))) ∧
  (∀ (ctx queue peer stream : Nat) (s : State) (c : Ctx) (held : List Msg), s.ctx? ctx = some c → peer < 65536 →
    let st := streamKey queue peer (stream / 256) (stream % 256)
    let next := mapGet 0 c.expect st
    tabGet c.early st = some held → held ≠ [] → (∀ m ∈ held, m.num ≠ next) →
    ∃ u d, exec (.messageSkip ctx queue peer stream) s = .next u ∧
      let told : Packet :=
        .skipped (if peer = 65535 then ctx / 16 * 16 + stream / 256 % 16 else stream / 256) (stream % 256) (BitVec.ofNat 32 next)
      u = { s with ctxs := u.ctxs, fresh := u.fresh, hub := { s.hub with outbox := s.hub.outbox ++ [⟨none, none, told⟩] } } ∧
      u.ctx? ctx = some d ∧ st ∈ d.gaps ∧
      (s.rooms held.length = false → d.rx = c.rx ∧ mapGet 0 d.expect st = (next + 1) % 2 ^ 32) ∧
      (s.rooms held.length = true → ∀ m, (held.find? fun x => x.num == (next + 1) % 2 ^ 32) = some m → { m with gap := true } ∈ d.queueOf queue)) ∧
  (∀ (ctx queue stream : Nat) (s : State) (c : Ctx) (x y : Sent) (more : List Sent), s.ctx? ctx = some c →
    s.hub.outbox.filter (toHost ctx (stream % 256)) = x :: y :: more →
    ∃ u d, exec (.messageSkip ctx queue 65536 stream) s = .next u ∧ u = { s with ctxs := u.ctxs, hub := { s.hub with outbox := s.hub.outbox.erase x } } ∧
      u.ctx? ctx = some d ∧ d.cap (stream % 256) / 2 ^ 224 % 2 ^ 16 = min (c.cap (stream % 256) / 2 ^ 224 % 2 ^ 16 + 1) 65535 ∧
      hostStream (stream % 256) ∈ d.gaps) ∧
  (∀ s : State, s.spanOpen = true → exec (.packetReceive .badTag) s = .next { s with hub := { s.hub with badTags := s.hub.badTags + 1 } }) ∧
  ∀ (ctx i : Nat) (num : Word) (s : State) (c : Ctx), s.ctx? ctx = some c → s.spanOpen = true → (∀ x ∈ s.hub.outbox, x.packet ≠ .skipped ctx i num) →
    ∃ u d, exec (.packetReceive (.skipped ctx i num)) s = .next u ∧ u = { s with ctxs := u.ctxs } ∧ u.ctx? ctx = some d ∧
      d.cap i / 2 ^ 224 % 2 ^ 16 = min (c.cap i / 2 ^ 224 % 2 ^ 16 + 1) 65535 ∧ d.cap i % 2 ^ 224 = c.cap i % 2 ^ 224 ∧
      ∀ j, j ≠ i → d.cap j = c.cap j

/-! Collectives. -/

namespace Sys2Proof.Spec
open Sys2Proof.Machine

/-- A collective's words: its function, its register fields and whether it arrives on an object (R343). -/
def collRow : Instr → Option (Nat × Pred × SReg × SReg × SReg × XOrd × Bool)
  | .collr p desc idx d ord arr => some (0, p, desc, idx, d, ord, arr)
  | .collg p desc idx d ord arr => some (1, p, desc, idx, d, ord, arr)
  | .collb p desc idx d ord arr => some (2, p, desc, idx, d, ord, arr)
  | _ => none
/-- R348: an element of COLLR over the accepted values: the exact sum, or the sum divided exactly by their number, rounded once; or the
least or the greatest. -/
def reduced (op : Nat) (vs : List Val) : Word :=
  let total : Val := match vs with
    | [] => .num false 0 0
    | v :: r => r.foldl (fun a x => (addVal 0 a x).1) v
  BitVec.ofNat 32 (encodeVal fp32 0 false (match op, vs with
    | 2, [] => .nan false
    | 2, v :: r => r.foldl (pickVal false) v
    | 3, [] => .nan false
    | 3, v :: r => r.foldl (pickVal true) v
    | 1, vs => meanVal total vs.length
    | _, _ => total)).1
/-- R347, R348: what a collective's result carries of its accepted contributions: reduced words, each member's block, or the root's. -/
def collData (s : State) (ctx : Nat) (y : Coll) (got : List (Nat × List Word)) : List (Nat × List Word) :=
  let im := s.collImage ctx y
  let words (f : Nat → Word) : List Word := (List.range y.count).map f
  if got = [] then []
  else if y.fn = 0 then
    if y.op = 4 then [(0, words fun j => mod32 (sum (got.map fun g => num true (g.2.getD j 0#32))))]
    else
      let ws := words fun j => reduced y.op (got.map fun g => (wireVals im y.count g.2).getD j (.num false 0 0))
      [(0, match im with | none => ws | some im => wireEncode im (ws.map fun w => decodeCode fp32 w.toNat))]
  else if y.fn = 1 then got
  else (got.filter fun g => g.1 == y.root).map fun g => (0, g.2)
/-- A context's write of n bytes to an address, for a quadrant, lies in one chunk whose place it may write: host memory, or a device chunk
that has its frame; and no chunk of it has been refused the collective's gang (R377). -/
abbrev HoldsPage (s : State) (ctx : Nat) (y : Coll) (va n : Nat) (dev : Bool) (key : Nat) : Prop :=
  0 < n ∧ va % 4096 + n ≤ 4096 ∧ s.collRefused ctx y = [] ∧
  ((dev = false ∧ ∃ e s1, s.translate y.quad ctx va .write = .ok (.host key e, s1)) ∨
    (dev = true ∧ ∃ c sid w e s1 ch, s.translate y.quad ctx va .write = .ok (.device c sid w e, s1) ∧ key = devKey sid w ∧
      tabGet (s1.cg c).chunks (chunkKey sid w) = some ch ∧ ch.gran = pteGran e))
def pageMemory (s : State) (dev : Bool) : Memory := if dev then s.dmem else s.hmem
/-- The result record of R345. -/
def resultRecord (mask : List Nat) (st rf handle : Nat) : List Byte :=
  bytesOfNat 128 (memberMask mask) ++ bytesOfNat 4 mask.length ++ [BitVec.ofNat 8 st, BitVec.ofNat 8 rf] ++ bytesOfNat 2 handle ++ bytesOfNat 8 0
/-- R346: a member has completed with a state and a record: its collective, the record at RES, the words at DST outside it, and its
arrival where the team of its object is there. -/
def Completed (s u : State) (ctx : Nat) (y : Coll) (mask : List Nat) (st rf : Nat) (dst : Option (Nat × Bool × Nat × List Byte)) (r : Bool) (kr : Nat) : Prop :=
  let rec_ := resultRecord mask st rf y.serial
  (∃ d z, u.ctx? ctx = some d ∧ z ∈ d.colls ∧ z.serial = y.serial ∧ z.st = st ∧ z.cnt = mask.length) ∧
  (∀ j, j < 144 → (pageMemory u r).read (kr + j) = rec_.getD j 0) ∧
  (∀ va d kd bs, dst = some (va, d, kd, bs) → ∀ j, j < bs.length → ¬ (d = r ∧ kr ≤ kd + j ∧ kd + j < kr + 144) → (pageMemory u d).read (kd + j) = bs.getD j 0) ∧
  (y.arrive = none → ∀ n, u.cmem.read n = s.cmem.read n) ∧
  ∀ sc addr id t, y.arrive = some (sc, addr) → y.arrived = false →
    (s.teams.find? fun p => p.2.grid == y.grid && p.2.index == if addr.getLsbD 31 then addr.toNat / 2 ^ 32 else y.tindex) = some (id, t) →
    s.team? id = some t → ∀ key, BarrierAt s { Agent.start with ctx, team := id, grid := t.grid, tindex := t.index } addr.toNat key →
    BitsWritten s.cmem u.cmem (8 * key) 64 ((Barrier.of (s.cmem.readNat key 8)).update 1 0 0).num
/-- The image a compressed collective uses, where its entry allows one (R343, R347). -/
abbrev collUses (pt : Part) (e : Nat) (cmp : Bool) (im : Option Image) : Prop :=
  if cmp then im = tabGet pt.hslots (e / 2 ^ 24 % 8) ∧ im ≠ none ∧ e.testBit 7 = true ∧ e.testBit 31 = true else im = none

end Sys2Proof.Spec

open Sys2Proof Sys2Proof.Machine Sys2Proof.Spec

/-- R329, R343, R344, R346: a collective within its limits takes its member's next number and the next handle, charges its entry
with the bytes of its contribution, and returns the handle; its residual is written and its contribution goes to the root. One whose
source or residual faults is complete with state 3 (how the fault is held is the model's choice, log 85). -/
def Sys2Proof.Spec.CollectivesIssue : Prop :=
  ∀ (i : Instr) (fn : Nat) (p : Pred) (desc idx d : SReg) (ord : XOrd) (arr : Bool) (s : State) (a : Agent) (c : Ctx) (pt : Part)
    (bs : List Byte) (x : CollDesc) (im : Option Image),
    let k := (a.s idx.toNat).toNat
    let e := c.cap k
    let group := e / 2 ^ 32 % 2 ^ 32
    let member := e / 2 ^ 64 % 2 ^ 10
    let members := e / 2 ^ 74 % 2 ^ 11 + 1
    collRow i = some (fn, p, desc, idx, d, ord, arr) → UniReady .gang false [d.toNat] p [desc.toNat, idx.toNat] s a → k < 256 →
    s.ctx? a.ctx = some c → s.part? (a.ctx / 16) = some pt → s.clusterDesc a (a.s desc.toNat).toNat 64 = .ok bs →
    parseColl bs fn members = some x → collUses pt e x.cmp im → MayUse e [3] [6] (wireBytes im x.count) → s.collSides a x fn members arr = 0 →
    (c.colls.filter fun y => y.st == 0).length < 64 → a.clusterBusy = false → a.outTo 0 = false → NotAcquiring a →
    (ord.rel = true → Released s a) → (∀ z : Coll, z.src = x.src → z.dst = x.dst → z.res = x.res → z.resid = x.resid → z.count = x.count → z.fn = fn →
      z.members = members → s.collBehind a.ctx z = false) →
    let who := group * 1024 + member
    ∃ s1 f y, s1 = { s with agents := s1.agents, ctxs := s1.ctxs, quads := s1.quads } ∧ SameOthers s s1 s.cur ∧
      s1.agent? s.cur = some ((chan a d).setS d.toNat (BitVec.ofNat 32 c.serial)) ∧ s1.ctx? a.ctx = some f ∧
      Charged e (f.cap k) (wireBytes im x.count) ∧ f.serial = (c.serial + 1) % 2 ^ 16 ∧ f.colls = c.colls ++ [y] ∧
      mapGet 0 f.groupNext who = mapGet 0 c.groupNext who + 1 ∧ y.session = 64 * (a.ctx / 16) + e / 2 ^ 16 % 2 ^ 8 ∧ y.members = members ∧ y.serial = c.serial ∧ y.group = group ∧ y.member = member ∧
      y.index = mapGet 0 c.groupNext who ∧ y.fn = fn ∧ y.op = x.op ∧ y.count = x.count ∧ y.root = x.root ∧ y.quorum = x.quorum ∧
      y.src = x.src ∧ y.dst = x.dst ∧ y.res = x.res ∧ y.resid = x.resid ∧ y.st = 0 ∧ y.got = [] ∧
      (∀ code va, s1.formColl s.cur (chan a d) y im = .error (code, va) → code ≠ 100 →
        exec i s = .next (((s1.collFault y code va (heldRead code va)).completeColl a.ctx y [] 3 0 []).modAgent s.cur Agent.retire)) ∧
      ∀ ws resid s2, s1.formColl s.cur (chan a d) y im = .ok (ws, resid, s2) →
        let w := if resid = [] then (s2, false) else s2.collWrite a.ctx y y.resid resid
        (w.2 = true → exec i s = .next ((w.1.completeColl a.ctx y [] 3 0 []).modAgent s.cur Agent.retire)) ∧
        (w.2 = false → ∃ key, key.take 7 = [fn, x.count, x.op, x.cmp.toNat, x.root, x.quorum, x.deadline] ∧
          exec i s = .next ((if member = x.root then w.1.contribute a.ctx y member key ws
            else w.1.sendOn (some y.session) [] (.contribution group y.index member key ws)).modAgent s.cur Agent.retire))

/-- R344, R346, R348: the root takes one contribution of each member of another device, refuses one whose values differ, counts
one that comes late, and with the last of its quorum sends the result to every other member; of a COLLB it counts receipts. A
deadline closes it with what it has. -/
def Sys2Proof.Spec.RootsGather : Prop :=
  ∀ (ctx m : Nat) (key : List Nat) (ws : List Word) (s : State) (c : Ctx) (y : Coll), s.ctx? ctx = some c → c.stilled = false → s.collBehind ctx y = false → y ∈ c.colls →
    y.member = y.root → m ≠ y.root → m < y.members → y.st = 0 →
    (∀ z ∈ c.colls, z.group = y.group → z.index = y.index → z.member = y.member → z = y) →
    let packet : Packet := .contribution y.group y.index m key ws
    let receipt : Packet := .receipt y.group y.index m
    let here : Prop := s.rootOf y.group y.index = some (ctx, y) ∧ s.collOf y.group y.index m = none ∧ s.spanOpen = true
    let same : Prop := key = [y.fn, y.count, y.op, y.cmp.toNat, y.root, y.quorum, y.deadline, s.collDigest ctx y]
    let changes (k : Packet) (z : Coll) : Prop := ∃ u d, exec (.packetReceive k) s = .next u ∧ u = { s with ctxs := u.ctxs } ∧
      u.ctx? ctx = some d ∧ d.colls = c.colls.map fun w => if w = y then z else w
    let closes (i : Instr) (got : List (Nat × List Word)) (st : Nat) : Prop :=
      ∃ u fl more, exec i s = .next u ∧
        u.hub.outbox = s.hub.outbox ++ ((List.range y.members).filter (· != y.root)).map (fun j =>
          { session := some y.session, owner := none
            packet := .result y.group y.index j (got.map (·.1)) st fl (collData s ctx y got) y.rejected }) ++ more
    (here → y.closed = true → ∃ u d, exec (.packetReceive packet) s = .next u ∧ u = { s with ctxs := u.ctxs } ∧ u.ctx? ctx = some d ∧
      d.colls = c.colls ∧ d.cap y.cap / 2 ^ 240 % 2 ^ 16 = min (c.cap y.cap / 2 ^ 240 % 2 ^ 16 + 1) 65535) ∧
    (here → y.closed = false → ¬ same →
      changes packet { y with rejected := y.rejected ++ [m], got := y.got.filter fun g => g.1 != m }) ∧
    (here → y.closed = false → same → y.fn ≠ 2 → (∃ g ∈ y.got, g.1 = m) → exec (.packetReceive packet) s = .next s) ∧
    (here → y.closed = false → same → y.fn ≠ 2 → (∀ g ∈ y.got, g.1 ≠ m) → y.got.length + 1 < y.quorum →
      changes packet { y with got := y.got ++ [(m, ws)] }) ∧
    (here → y.closed = false → same → y.fn ≠ 2 → (∀ g ∈ y.got, g.1 ≠ m) → y.quorum ≤ y.got.length + 1 →
      closes (.packetReceive packet) (y.got ++ [(m, ws)]) 1) ∧
    (here → y.closed = false → y.fn = 2 → m ∉ y.rejected → (∀ g ∈ y.got, g.1 ≠ m) →
      (y.got.length + 1 < y.quorum → changes receipt { y with got := y.got ++ [(m, [])] }) ∧
      (y.quorum ≤ y.got.length + 1 → closes (.packetReceive receipt) (y.got ++ [(m, [])]) 1)) ∧
    (y.closed = false → (∀ z ∈ c.colls, z.serial = y.serial → z = y) →
      closes (.collDeadline ctx y.serial) y.got (if y.got.length < y.quorum then 2 else 1))

/-- R345, R346, R348, R349: a member whose sides may be written completes with its result: the words at DST, the record at RES, an
arrival on its object and its state, 4 where it was refused, which leaves DST untouched, as does state 3 where no result comes; of a
COLLB it answers the root's data with a receipt. COLLQ returns the state and the count of contributors, 7 for a handle not kept, and
acquires once the collective is complete. -/
def Sys2Proof.Spec.CollectivesComplete : Prop :=
  (∀ (ctx : Nat) (s : State) (c : Ctx) (y : Coll), s.ctx? ctx = some c → c.stilled = false → s.collBehind ctx y = false →
    (c.colls.find? fun z => z.serial == y.serial && z.st == 0 && z.member != z.root) = some y →
    (∀ r kr, HoldsPage s ctx y y.res 144 r kr → ∃ u, exec (.collNoResultTimeout ctx y.serial) s = .next u ∧ Completed s u ctx y [] 3 0 none r kr) ∧
    (s.collOf y.group y.index y.member = some (ctx, y) → s.rootOf y.group y.index = none → s.spanOpen = true →
      (∀ mask st fl data rej, st ≠ 0 →
        let packet : Packet := .result y.group y.index y.member mask st fl data rej
        (y.member ∈ rej → ∀ r kr, HoldsPage s ctx y y.res 144 r kr →
          ∃ u, exec (.packetReceive packet) s = .next u ∧ Completed s u ctx y mask 4 fl none r kr) ∧
        (y.member ∉ rej → mask = [] ∨ data = [] → ∀ r kr, HoldsPage s ctx y y.res 144 r kr →
          ∃ u, exec (.packetReceive packet) s = .next u ∧ Completed s u ctx y mask st fl none r kr) ∧
        ∀ b ws, y.member ∉ rej → mask ≠ [] → data = [(b, ws)] →
          let va := y.dst + 4 * y.count * b
          let bs := resultBytes (s.collImage ctx y) y.count ws
          ∀ d kd r kr, HoldsPage s ctx y va bs.length d kd → HoldsPage (s.collWrite ctx y va bs).1 ctx y y.res 144 r kr →
            ∃ u, exec (.packetReceive packet) s = .next u ∧ Completed s u ctx y mask st fl (some (va, d, kd, bs)) r kr) ∧
      (y.fn = 2 → ∀ data, exec (.packetReceive (.broadcast y.group y.index y.member data)) s =
        .next (s.sendOn (some y.session) [] (.receipt y.group y.index y.member))))) ∧
  ∀ (p : Pred) (h d : SReg) (acq : Option (BitVec 3)) (s : State) (a : Agent) (c : Ctx), UniReady .gang false [d.toNat] p [h.toNat] s a →
    s.ctx? a.ctx = some c →
    let done := c.colls.filter fun y => y.st != 0
    let kept := (c.colls.filter fun y => y.st == 0) ++ (done.drop (done.length - 256)).reverse
    let r : Nat × Nat := match kept.find? fun y => y.serial == (a.s h.toNat).toNat % 2 ^ 16 with
      | some y => (y.st, y.cnt)
      | none => (7, 0)
    ∃ u, exec (.collq p h d acq) s = .next u ∧ SameButL1 s u s.cur ∧
      u.agent? s.cur = some ((chan a d).setS d.toNat (BitVec.ofNat 32 (r.1 + 65536 * r.2))).retire ∧
      (∀ sc, acq = some sc → r.1 ≠ 0 → r.1 ≠ 7 → Acquired s u s.cur a.ctx sc.toNat)

/-! Launch, join, fork and mailboxes (R350 to R369). -/

namespace Sys2Proof.Spec
open Sys2Proof.Machine

/-- The gang of a launch word once it has issued (R369): it is not rewindable, and it waits for nothing. -/
def launching (a : Agent) (ds : List Nat) : Agent := { a.discard (ds.map sCode) with rewindable := false, block := .none }
/-- LAUNCH's answer: its status, and the handle in the next register (R357). -/
def answered (a : Agent) (d : SReg) (st h : Nat) : Agent :=
  (((launching a [d.toNat, d.toNat + 1]).setS d.toNat (BitVec.ofNat 32 st)).setS (d.toNat + 1) (BitVec.ofNat 32 h)).retire
/-- Field of n bytes at an offset of a descriptor (R1). -/
def fieldOf (bs : List Byte) (off n : Nat) : Nat := natOfBytes ((bs.drop off).take n)

end Sys2Proof.Spec

open Sys2Proof Sys2Proof.Machine Sys2Proof.Spec

/-- R281, R356, R357, R360: LAUNCH releases, at scope 4 to a queue of its grid's own logical device and 5 to another's, and answers 1 below depth 10, 4 or 5 for a descriptor or a kernel record its checks refuse, 2
where no place is free and J is clear; else the grid takes the last place of its queue under a new handle, and with J
set and no place the gang waits. -/
def Sys2Proof.Spec.LaunchesQueueGrids : Prop :=
  ∀ (p : Pred) (desc ctl d : SReg) (s : State) (a : Agent) (c : Ctx) (bs : List Byte),
    let w := (a.s ctl.toNat).toNat
    let depth := (match s.grid? a.grid with | some g => g.depth | none => 0) + 1
    let v := s.released a (match s.grid? a.grid with | some g => if g.queue / 16 = w % 64 / 16 then 4 else 5 | none => 5)
    let answers (st : Nat) : Prop := exec (.launch p desc ctl d) s = .next (v.setAgent s.cur (answered a d st 0))
    UniReady .gang false [d.toNat, d.toNat + 1] p [desc.toNat, ctl.toNat] s a → a.gang = 0 → w < 1024 → w % 64 < s.queueCount a.ctx →
    (∀ h, a.block ≠ .launch h) → s.clusterDesc a (a.s desc.toNat).toNat 64 = .ok bs → NotAcquiring a → Released s a →
    s.ctx? a.ctx = some c → s.grid? s.nextGrid = none → s.sideHeld a.ctx (fieldOf bs 0 8) 2176 = false →
    (10 < depth → answers 1) ∧
    (depth ≤ 10 → parseGrid bs w a depth = none → answers 4) ∧
    (depth ≤ 10 → ∀ g, parseGrid bs w a depth = some g →
      (g.krec = fieldOf bs 0 8 ∧ g.args.toNat = fieldOf bs 8 8 ∧ g.nteams = fieldOf bs 16 4 ∧ g.done = fieldOf bs 48 8 ∧ g.err = fieldOf bs 56 8 ∧
        g.depth = depth ∧ g.parent = some a.grid ∧ g.parentTeam = some a.tindex ∧ g.queue = w % 64 ∧ g.pri = w / 64 % 4 ∧
        g.cor = w.testBit 8 ∧ g.j = w.testBit 9) ∧
      (∀ st, s.checkLaunch (quadOf s.cur) a.ctx g.krec g.nteams g.cor (w % 64 / 16) = .error st → answers st) ∧
      ∀ shape, s.checkLaunch (quadOf s.cur) a.ctx g.krec g.nteams g.cor (w % 64 / 16) = .ok shape →
        let room := s.ordinaryFree a.ctx (w % 64) = true ∨ (g.j = true ∧ s.reserveFree a.ctx (w % 64) depth = true)
        (room → ∃ u f h, exec (.launch p desc ctl d) s = .next u ∧ u.agent? s.cur = some (answered a d 0 s.nextGrid) ∧ SameOthers v u s.cur ∧
          SameMemory v u ∧ u.ctx? a.ctx = some f ∧ f.launchOrder = c.launchOrder + 1 ∧ u.grid? s.nextGrid = some h ∧
          h = { g with shape, order := c.launchOrder, reserve := !(s.ordinaryFree a.ctx (w % 64)), st := .queued, bound := h.bound }) ∧
        (¬ room → g.j = false → answers 2) ∧
        (¬ room → g.j = true → ∃ u, exec (.launch p desc ctl d) s = .next u ∧
          u.agent? s.cur = some (waits { launching a [d.toNat, d.toNat + 1] with block := .launch s.nextGrid }) ∧ u.grid? s.nextGrid = some { g with shape }))

/-- R361, R362: LJOIN answers 2 for a grid that is no child of its team, waits while a child runs, and once it has retired
answers whether it had an error, and acquires; the periods for which its team's children have waited for it begin again,
which is how the model counts the periods of R361 (log 75). -/
def Sys2Proof.Spec.ParentsJoin : Prop :=
  ∀ (p : Pred) (h d : SReg) (s : State) (a : Agent), UniReady .gang false [d.toNat] p [h.toNat] s a →
    let child (g : Grid) : Prop := g.ctx = a.ctx ∧ g.parent = some a.grid ∧ g.parentTeam = some a.tindex
    let found := s.grid? (a.s h.toNat).toNat
    ((∀ g, found = some g → ¬ child g) →
      exec (.ljoin p h d) s = .next (s.setAgent s.cur ((launching a [d.toNat]).setS d.toNat 2#32).retire)) ∧
    (∀ g e, found = some g → child g → g.st = .retired e → NotAcquiring a →
      ∃ u, exec (.ljoin p h d) s = .next u ∧ SameButL1 { s with grids := u.grids } u s.cur ∧
        (∀ n, u.grid? n = (s.grid? n).map fun x => if x.parent = some a.grid ∧ x.parentTeam = some a.tindex then { x with stuck := 0 } else x) ∧
        u.agent? s.cur = some ((launching a [d.toNat]).setS d.toNat (if e then 1#32 else 0#32)).retire ∧ Acquired s u s.cur a.ctx 5) ∧
    (∀ g, found = some g → child g → (∀ e, g.st ≠ .retired e) →
      exec (.ljoin p h d) s = .next (s.setAgent s.cur (waits { launching a [d.toNat] with block := .ljoin })))

/-- R281, R368: FORK of a lead gang releases at scope 1 and starts the sequencers it names, with their arguments in s1 to s8, and the rendezvous counts
at zero; it answers 1 where one of them still runs, 2 where a reserved word is not zero. -/
def Sys2Proof.Spec.SequencersAreForked : Prop :=
  ∀ (p : Pred) (desc d : SReg) (s : State) (a : Agent) (t : Team) (bs : List Byte), UniReady .gang false [d.toNat] p [desc.toNat] s a →
    s.cur < orphanBase → a.gang = 0 → s.team? a.team = some t → t.engines = true → s.clusterDesc a (a.s desc.toNat).toNat 96 = .ok bs →
    NotAcquiring a → Released s a →
    let v := s.released a 1
    let m := fieldOf bs 0 8
    let e := fieldOf bs 8 8
    let b : Agent := { a.discard [sCode d.toNat] with rewindable := false }
    let busy : Prop := (m ≠ 0 ∧ t.mRun = true) ∨ (e ≠ 0 ∧ t.dRun = true)
    let reserved : Prop := fieldOf bs 80 8 ≠ 0 ∨ fieldOf bs 88 8 ≠ 0
    let started (x : Agent) (pc o : Nat) : Prop := x.team = a.team ∧ x.sv = false ∧ x.run = none ∧
      x.slot0 = { pc := BitVec.ofNat 64 pc, mask := BitVec.allOnes 32, rcv := none, st := .run } ∧
      (∀ i, i < 8 → x.s (i + 1) = BitVec.ofNat 32 (fieldOf bs (o + 4 * i) 4)) ∧ ∀ n, n = 0 ∨ 8 < n → x.s n = 0#32
    (reserved → exec (.fork p desc d) s = .next (v.setAgent s.cur (b.setS d.toNat 2#32).retire)) ∧
    (¬ reserved → busy → exec (.fork p desc d) s = .next (v.setAgent s.cur (b.setS d.toNat 1#32).retire)) ∧
    (¬ reserved → ¬ busy → (s.cur, a) ∈ s.teamAgents t → ∃ u, exec (.fork p desc d) s = .next u ∧ SameMemory v u ∧
      u.agent? s.cur = some ({ b with cG := 0 }.setS d.toNat 0#32).retire ∧
      u.team? a.team = some { t with cM := 0, cD := 0, mRun := t.mRun || m != 0, dRun := t.dRun || e != 0 } ∧
      (m ≠ 0 → ∃ x, u.agent? (mseqOf t.quad) = some x ∧ started x m 16) ∧ (e ≠ 0 → ∃ x, u.agent? (dseqOf t.quad) = some x ∧ started x e 48) ∧
      ∀ j, j ≠ s.cur → j ≠ mseqOf t.quad → j ≠ dseqOf t.quad →
        ((∃ x, (j, x) ∈ s.teamAgents t) → isSeq j = false → u.agent? j = (s.agent? j).map fun x => { x with cG := 0 }) ∧
        ((∀ x, (j, x) ∉ s.teamAgents t) → u.agent? j = s.agent? j))

/-- R351, R353: MBRECV takes the oldest message of the lowest of the mailboxes its mask selects into cluster memory, counts it
in CONS, answers with the mailbox and SEQ, and acquires; with none it waits, and for the gang's earlier accesses to cluster
memory (R279). -/
def Sys2Proof.Spec.MailboxesDeliver : Prop :=
  ∀ (p : Pred) (dst mask d : SReg) (s : State) (a : Agent) (c : Ctx) (place : Nat), UniReady .gang false [d.toNat] p [dst.toNat, mask.toNat] s a →
    let w := (a.s mask.toNat).toNat
    let has (m : Nat) : Prop := (w = 0 ∨ w.testBit m = true) ∧ (c.box m).present ≠ []
    w < 256 → (a.s dst.toNat).toNat % 8 = 0 → s.admits .mailbox (quadOf s.cur) (a.ctx / 16) false = true → ClusterSide s a (a.s dst.toNat).toNat 256 place → NotAcquiring a → s.ctx? a.ctx = some c →
    let b := a.discard [sCode d.toNat]
    (b.outTo 1 = true → exec (.mbrecv p dst mask d) s = .next (s.setAgent s.cur (waits b))) ∧
    (b.outTo 1 = false → (∀ m, m < 8 → ¬ has m) → exec (.mbrecv p dst mask d) s = .next (s.setAgent s.cur
      (waits { b with rewindable := false, block := .mbrecv }))) ∧
    ∀ m x xs, b.outTo 1 = false → m < 8 → has m → (∀ n, n < m → ¬ has n) → (c.box m).present = x :: xs → x.length = 256 →
      let seq := fieldOf x 0 2
      ∃ u f, exec (.mbrecv p dst mask d) s = .next u ∧ SameOthers s u s.cur ∧ SameMemoryBut s u false false false true false ∧
        u.agent? s.cur = some ((launching a [d.toNat]).setS d.toNat (BitVec.ofNat 32 (m + 65536 * seq))).retire ∧
        Acquired s u s.cur a.ctx 5 ∧ u.ctx? a.ctx = some f ∧ f.box m = { c.box m with cons := ((c.box m).cons + 1) % 2 ^ 32, present := xs } ∧
        (∀ n, n ≠ m → f.box n = c.box n) ∧
        (∀ j, j < 256 → u.cmem.read (place + j) = x.getD j 0 ∨
          ∃ vf, c.vf = some vf ∧ u.cmem.read (place + j) = (s.vf vf).slots.read (0x4000 * m + 0x100 * (seq % 64) + j)) ∧
        ∀ j, j < place ∨ place + 256 ≤ j → u.cmem.read j = s.cmem.read j

/-- R354, R355, R405: MBSEND answers 2 where its ring is not enabled, 3 where a slot is too small, 1 where the ring is full, and
otherwise posts its message: the slot, PROD in host memory, the interrupt. A message
uses, of each field of a ring changed while enabled, EN among them, an old or the new value; which is the model's choice of a free
value (log 54). A context without a virtual function has no ring. -/
def Sys2Proof.Spec.HostMessagesArePosted : Prop :=
  ∀ (p : Pred) (src ring len d : SReg) (s : State) (a : Agent) (c : Ctx) (place vf : Nat),
    let r := (a.s ring.toNat).toNat
    let n := (a.s len.toNat).toNat
    let v := s.vf vf
    let x := v.ring r
    let use := x.used s.fresh
    let cfg := use.2.2
    let s' : State := { s.released a 5 with fresh := s.fresh + 6 }
    let answer (st : Nat) : Agent := (({ a.discard [sCode d.toNat] with rewindable := false } : Agent).setS d.toNat (BitVec.ofNat 32 st)).retire
    let on : Prop := cfg / 2 ^ 31 % 2 = 1
    let slot := 2 ^ (cfg / 2 ^ 4 % 2 ^ 4)
    let entries := 2 ^ (cfg % 2 ^ 4)
    let full : Prop := (x.prod + 2 ^ 32 - x.consr % 2 ^ 32) % 2 ^ 32 = entries
    UniReady .gang false [d.toNat] p [src.toNat, ring.toNat, len.toNat] s a → r < 64 → n % 4 = 0 → n ≤ 4080 → (a.s src.toNat).toNat % 8 = 0 →
    ClusterSide s a (a.s src.toNat).toNat n place → NotAcquiring a → Released s a → s.ctx? a.ctx = some c →
    (c.vf = none → exec (.mbsend p src ring len d) s = .next ((s.released a 5).setAgent s.cur (answer 2))) ∧
    (c.vf = some vf →
    (use.1 ∈ x.oldBase ++ [x.base]) ∧ (use.2.1 ∈ x.oldProdAddr ++ [x.prodAddr]) ∧
    (∀ f ∈ [(0, 4), (4, 4), (8, 11), (31, 1)], ∃ w ∈ x.oldCfg ++ [x.cfg], cfg / 2 ^ f.1 % 2 ^ f.2 = w / 2 ^ f.1 % 2 ^ f.2) ∧
    (¬ on → exec (.mbsend p src ring len d) s = .next (s'.setAgent s.cur (answer 2))) ∧
    (on → slot < 16 + n → exec (.mbsend p src ring len d) s = .next (s'.setAgent s.cur (answer 3))) ∧
    (on → 16 + n ≤ slot → full → exec (.mbsend p src ring len d) s = .next (s'.setAgent s.cur (answer 1))) ∧
    (on → 16 + n ≤ slot → ¬ full →
      let at_ := use.1 + x.prod % entries * slot
      let m : Msg := { num := x.prod, peer := 65535, ctx := a.ctx, stream := 0, gap := false, bytes := (List.range n).map fun j => s.cmem.read (place + j) }
      ∃ u, exec (.mbsend p src ring len d) s = .next u ∧ SameOthers s' u s.cur ∧ u.agent? s.cur = some (answer 0) ∧
        SameMemoryBut s u false true false false false ∧ (u.vf vf).ring r = { x with prod := (x.prod + 1) % 2 ^ 32 } ∧
        u.hub.msix = s.hub.msix ++ [(vf, cfg / 2 ^ 8 % 2 ^ 11)] ∧ wordAt u.hmem use.2.1 4 = (x.prod + 1) % 2 ^ 32 ∧
        (use.2.1 + 4 ≤ at_ ∨ at_ + 16 + n ≤ use.2.1 → ∀ j, j < 16 + n → u.hmem.read (at_ + j) = (receivedBytes m slot).getD j 0) ∧
        ∀ j, (j < use.2.1 ∨ use.2.1 + 4 ≤ j) → (j < at_ ∨ at_ + 16 + n ≤ j) → u.hmem.read j = s.hmem.read j))

/-- R352, R354, R366, R398, R401, R402, R404, R405: a host's write of a virtual function's register acts where the functions are
enabled and the table admits it, and otherwise does nothing. KICK and the engine's later looks take what has come into the mailbox's
next slot or count a look, the seventeenth dropping the kick; that a kick of a mailbox whose polls run starts them again is the model's
choice (log 54). A write of CFG sets a ring's CFG, keeping what an enabled ring held (log 54); SBREQ binds at most as many quadrants
as it asks, and in a firmware handoff waits for the first pass (log 45). -/
def Sys2Proof.Spec.HostRegistersAct : Prop :=
  (∀ (t : Target) (vf ctx : Nat) (write : Bool) (s : State), (s.vf vf).ctx = some ctx →
    (s.vfMay t vf write = true ↔ s.mgmt.boot = .service ∧ vf < 384 ∧ s.admits t (271 + vf) (ctx / 16) write = true)) ∧
  (∀ (vf : Nat) (s : State), s.vfMay .regs vf true = false → (∀ value, exec (.kick vf value) s = .next s) ∧
    (∀ r value, exec (.hostRingCfgWrite vf r value) s = .next s) ∧ ∀ value, exec (.standingBindRequest vf value) s = .next s) ∧
  (∀ (vf ctx m : Nat) (value : Word) (s : State) (c : Ctx), (s.vf vf).ctx = some ctx → s.ctx? ctx = some c → s.vfMay .regs vf true = true →
    let b := c.box m
    let x := (s.vf vf).slots.readBytes (0x4000 * m + 0x100 * (b.exp % 64)) 256
    let came : Prop := fieldOf x 0 2 = b.exp
    (8 ≤ value.toNat ∨ c.frozen = true → exec (.kick vf value) s = .next s) ∧
    (c.frozen = false → m = value.toNat → m < 8 → ∃ u f, exec (.kick vf value) s = .next u ∧ u = { s with ctxs := u.ctxs } ∧ u.ctx? ctx = some f ∧
      (¬ came → f.box m = { b with polls := some 1, got := false }) ∧
      (came → (f.box m).polls = none ∧ ∃ xs, (f.box m).present = b.present ++ x :: xs)) ∧
    ∀ n, c.frozen = false → c.vf = some vf → b.polls = some n → b.got = false →
      ∃ u f, exec (.kickPoll ctx m) s = .next u ∧ u = { s with ctxs := u.ctxs, vfs := u.vfs } ∧ u.ctx? ctx = some f ∧
        (¬ came → n = 16 → f.box m = { b with polls := none } ∧ (u.vf vf).kdrop = (s.vf vf).kdrop + 1) ∧
        (¬ came → n ≠ 16 → f.box m = { b with polls := some (n + 1) }) ∧
        (came → (f.box m).polls = none ∧ ∃ xs, (f.box m).present = b.present ++ x :: xs)) ∧
  (∀ (vf r : Nat) (value : Word) (s : State), r < 64 → s.vfMay .regs vf true = true →
    let w := value.toNat
    let ok : Prop := 1 ≤ w % 2 ^ 4 ∧ w % 2 ^ 4 ≤ 12 ∧ 6 ≤ w / 2 ^ 4 % 2 ^ 4 ∧ w / 2 ^ 4 % 2 ^ 4 ≤ 12
    ∃ u, exec (.hostRingCfgWrite vf r value) s = .next u ∧ u = { s with vfs := u.vfs } ∧
      let x := (s.vf vf).ring r
      let y := (u.vf vf).ring r
      y.cfg % 2 ^ 31 = w % 2 ^ 19 ∧ (y.cfg / 2 ^ 31 % 2 = 1 ↔ ok ∧ w / 2 ^ 31 % 2 = 1) ∧
      y.base = x.base ∧ y.prodAddr = x.prodAddr ∧ y.consr = x.consr ∧ y.prod = x.prod ∧
      (x.cfg / 2 ^ 31 % 2 = 0 → y.oldBase = [] ∧ y.oldProdAddr = [] ∧ y.oldCfg = []) ∧
      (x.cfg / 2 ^ 31 % 2 = 1 → y.oldBase = x.oldBase ∧ y.oldProdAddr = x.oldProdAddr ∧ (x.cfg = y.cfg ∨ x.cfg ∈ y.oldCfg) ∧ ∀ v ∈ x.oldCfg, v ∈ y.oldCfg) ∧
      ∀ k, k ≠ r → (u.vf vf).ring k = (s.vf vf).ring k) ∧
  ∀ (vf ctx : Nat) (value : Word) (s : State) (c : Ctx) (pt : Part), (s.vf vf).ctx = some ctx → s.ctx? ctx = some c → s.part? (ctx / 16) = some pt →
    s.vfMay .regs vf true = true →
    (s.mgmt.handoff = true → exec (.standingBindRequest vf value) s =
      .next (s.setVf vf { s.vf vf with sbreq := value &&& 0x7FF#32, sbwaits := true })) ∧
    (s.mgmt.handoff = false → ∃ u f, exec (.standingBindRequest vf value) s = .next u ∧ u.ctx? ctx = some f ∧ f.standing.length ≤ value.toNat % 2 ^ 9 ∧
      f.sbDev = value.toNat / 2 ^ 9 % 4 ∧ (∀ q ∈ f.standing, q ∈ pt.quads) ∧ (u.vf vf).sbreq = value &&& 0x7FF#32 ∧ (u.vf vf).sbwaits = false ∧
      (u.vf vf).sbstat = BitVec.ofNat 32 f.standing.length ∧ SameMemory s u)

/-! Traps, handlers and records (R370 to R392); runs (R34 to R45). -/

namespace Sys2Proof.Spec
open Sys2Proof.Machine

/-- A sequencer has entered its handler (R375). -/
def EnteredSeq (s : State) (a b : Agent) (cause tdetail : Nat) (restart : Dword) (faddr : Nat) : Prop :=
  b.sv = true ∧ b.run = none ∧ b.slot0 = { pc := s.shvec a, mask := BitVec.allOnes 32, rcv := none, st := .run } ∧
  b.s 504 = BitVec.ofNat 32 cause ∧ b.s 505 = BitVec.ofNat 32 tdetail ∧ b.s 506 = restart.setWidth 32 ∧ b.s 507 = restart.extractLsb' 32 32 ∧
  b.s 496 = BitVec.ofNat 32 faddr ∧ b.s 497 = BitVec.ofNat 32 (faddr / 2 ^ 32) ∧
  ∀ n, n ≠ 496 → n ≠ 497 → n ≠ 504 → n ≠ 505 → n ≠ 506 → n ≠ 507 → b.s n = a.s n
/-- The words only supervisor mode executes (R49), with who executes them. -/
def supervisorRow : Instr → Option Who
  | .eret _ => some .all
  | .replay .. | .ctxsave .. | .ctxload .. => some .gang
  | .xlease .. => some .gangDseq
  | .accspill .. | .accfill .. => some .mseq
  | _ => none
/-- Words of some agents only (R46, R49), with no condition on register values before it. -/
def issuerRow : Instr → Option Who
  | .flash .. | .growB .. | .growT .. | .shrink .. | .tbar .. => some .gang
  | .qop _ (.any ..) | .qop _ (.all ..) => some .gang
  | .mflip .. | .mswap .. | .mdrain .. | .mclear .. | .mwait .. | .msplit .. |
    .accspill .. | .accfill .. => some .mseq
  | .sload .. | .sfence .. | .sdesc .. => some .gangMseq
  | .xlease .. | .xclose .. | .xwait .. | .xtest .. => some .gangDseq
  | .replay .. | .ctxsave .. | .ctxload .. => some .gang
  | _ => none
/-- A sequencer in user mode whose context has a handler for it. -/
abbrev SeqMayTrap (s : State) (a : Agent) : Prop := s.agent? s.cur = some a ∧ isSeq s.cur = true ∧ a.sv = false ∧ s.shvec a ≠ 0
/-- No load of a gang's own run is discarded by a write of register d. -/
abbrev Keeps (a : Agent) (d : SReg) : Prop := a.discard [sCode d.toNat] = a
/-- A word of the run in progress awaits a result in register c (R37): a load, or a word whose result comes later. -/
def awaitsHere (a : Agent) (c : Nat) : Bool :=
  c != 512 && (a.pending.contains (c, a.runs) || a.accs.any fun x => x.run == a.runs && x.waiting && x.dsts.contains c)
/-- The token assignments of a trailer that name a register in which a word of this run awaits a result (R36, R37). -/
def assigned (a : Agent) (na : BitVec 3) (xs : List (BitVec 12)) : List (Nat × Nat) :=
  ((xs.take na.toNat).filter fun x => awaitsHere a (x.toNat / 8)).map fun x => (x.toNat % 8, x.toNat / 8)
/-- The address of entry i of gang k's divergence stack, counted from the bottom, in its context area (R83, R391). -/
def entryAddr (k i : Nat) : Nat := 0x01BFFF0000000000 + 0x17000 * (48 * quadOf k + k % 64) + 0x15000 + 32 * i
/-- The stack entries that come back on chip when the stack falls to `left`: those that become one of the newest four. -/
def comingBack (st : List Div) (left : Nat) : List (Nat × Div) :=
  (st.reverse.zipIdx.filter fun p => decide (p.2 + 4 < st.length) && decide (left ≤ p.2 + 4)).map fun p => (p.2, p.1)
/-- The device reads them back as they were pushed (R83), from s to u. -/
def ReadsBack (k ctx : Nat) : List (Nat × Div) → State → State → Prop
  | [], s, u => u = s
  | (i, d) :: es, s, u => ∃ v, s.readGlobal (quadOf k) ctx (entryAddr k i) 32 .read none = .ok (fieldBytes 32 (divFields d), v) ∧
      ReadsBack k ctx es v u
/-- The next of them cannot be read. -/
def FailsBack (k ctx : Nat) (es : List (Nat × Div)) (s : State) : Prop :=
  ∃ xs i d ys v e, es = xs ++ (i, d) :: ys ∧ ReadsBack k ctx xs s v ∧ v.readGlobal (quadOf k) ctx (entryAddr k i) 32 .read none = .error e
/-- A gang's team stops (R393): its agents leave, it retires, and the grid's error record, so far empty, says which gang and why. -/
def StopsTeam (s u : State) (a : Agent) (t : Team) (g : Grid) (cause tdetail : Nat) (epc : Dword) : Prop :=
  u.agent? s.cur = none ∧ u.team? a.team = none ∧ ∃ h e, u.grid? t.grid = some h ∧ h.errRec = some e ∧ h.retiredTeams = g.retiredTeams + 1 ∧
    e.count = 1 ∧ e.kind = 1 ∧ e.gang = a.gang ∧ e.quad = t.quad ∧ e.team = t.index ∧ e.epc = epc.toNat ∧ e.cause = cause ∧ e.tdetail = tdetail
/-- The running gang a of team t of grid g, with no error yet. -/
abbrev InTeam (s : State) (a : Agent) (t : Team) (g : Grid) : Prop :=
  s.agent? s.cur = some a ∧ isSeq s.cur = false ∧ s.cur < orphanBase ∧ s.team? a.team = some t ∧ s.grid? t.grid = some g ∧ (s.cur, a) ∈ s.teamAgents t ∧ g.errRec = none
/-- What REPLAY has reissued has come back, or faulted again (R383). -/
abbrev AllBack (a : Agent) : Prop :=
  (∀ x ∈ a.accs, x.id ∈ a.frame.redo → x.pend = 0) ∧ ∀ c ∈ a.cmds, c.id ∈ a.frame.redo → c.fault ≠ none
/-- A write to an address lies in a page whose place it may write: host memory, or a device chunk that has its frame. -/
def WritesPage (s : State) (quad ctx va : Nat) (dev : Bool) (key : Nat) : Prop :=
  (dev = false ∧ ∃ e s1, s.translate quad ctx va .write = .ok (.host key e, s1)) ∨
  (dev = true ∧ ∃ c sid w e s1 ch, s.translate quad ctx va .write = .ok (.device c sid w e, s1) ∧ key = devKey sid w ∧
    tabGet (s1.cg c).chunks (chunkKey sid w) = some ch ∧ ch.gran = pteGran e)
/-- No unit of device memory holds an uncorrectable error or poison. -/
def SoundUnits (s : State) : Prop := ∀ c, (s.cg c).errors = [] ∧ (s.cg c).poison = []
/-- The grid error record of R394. -/
def errorRecord (e : ErrRec) : List Byte :=
  bytesOfNat 4 e.count ++ bytesOfNat 1 e.kind ++ bytesOfNat 1 e.gang ++ bytesOfNat 2 e.quad ++ bytesOfNat 4 e.team ++ bytesOfNat 4 e.cause ++
    bytesOfNat 4 e.tdetail ++ bytesOfNat 4 e.fmask ++ bytesOfNat 8 e.epc ++ bytesOfNat 8 e.faddr ++ bytesOfNat 8 e.capt ++ List.replicate 208 0#8
/-- Nothing is held faulted. -/
abbrev NothingFaulted (a : Agent) : Prop := (∀ x ∈ a.accs, x.faulted = 0) ∧ ∀ c ∈ a.cmds, c.fault = none

end Sys2Proof.Spec

open Sys2Proof Sys2Proof.Machine Sys2Proof.Spec

/-- R370, R372, R375, R381: TRAP whose predicate holds takes its trap with its code, to continue at the header after its
run. -/
def Sys2Proof.Spec.TrapWordsEnterTheHandler : Prop :=
  ∀ (p : Pred) (code : BitVec 8) (s : State) (a : Agent), a.holds p = true →
    (MayTrap s a → ∃ b, exec (.trap p code) s = .next (s.setAgent s.cur b) ∧ Entered s a b 0x0A code.toNat a.nextHeader a.nextHeader a.slot.mask 0) ∧
    (SeqMayTrap s a → ∃ b, exec (.trap p code) s = .next (s.setAgent s.cur b) ∧ EnteredSeq s a b 0x0A code.toNat a.nextHeader 0)

/-- R49, R51, R370: a supervisor's word in user mode traps ILLEGAL 0x16, and a word another agent executes traps 0x15,
whatever the predicate, with no effect. -/
def Sys2Proof.Spec.WordsAreConfined : Prop :=
  ∀ (i : Instr) (w : Who) (s : State) (a : Agent),
    (supervisorRow i = some w → w.admits s.cur = true →
      (MayTrap s a → ∃ b, exec i s = .next (s.setAgent s.cur b) ∧ Entered s a b 0x01 0x16 a.wordAddr a.header a.slot.mask 0) ∧
      (SeqMayTrap s a → ∃ b, exec i s = .next (s.setAgent s.cur b) ∧ EnteredSeq s a b 0x01 0x16 a.header 0)) ∧
    (issuerRow i = some w → w.admits s.cur = false →
      (MayTrap s a → ∃ b, exec i s = .next (s.setAgent s.cur b) ∧ Entered s a b 0x01 0x15 a.wordAddr a.header a.slot.mask 0) ∧
      (SeqMayTrap s a → ∃ b, exec i s = .next (s.setAgent s.cur b) ∧ EnteredSeq s a b 0x01 0x15 a.header 0))

/-- R371, R393: a trap in supervisor mode, or one with no handler, stops the whole team: its agents leave, it retires, its
grid's error record says which gang and why. -/
def Sys2Proof.Spec.FatalTrapsStopTheTeam : Prop :=
  ∀ (code : BitVec 8) (p : Pred) (s : State) (a : Agent) (t : Team) (g : Grid), InTeam s a t g → a.holds p = true →
    (a.sv = true → ∃ u, exec (.trap p code) s = .next u ∧ StopsTeam s u a t g 0x12 (0x0A + 256 * code.toNat) a.nextHeader) ∧
    (a.sv = false → s.hvec a = 0 → ∃ u, exec (.trap p code) s = .next u ∧ StopsTeam s u a t g 0x13 0 a.nextHeader)

/-- R382: ERET of a gang puts back the trapping slot, at EPC where the handler wrote it, and the suspended one, in user mode
with every token complete, once the slots have resolved; of a sequencer, when all that was faulted has been replayed, it
continues at S[506:507]. A stack entry that comes back on chip and cannot be read stops the team. -/
def Sys2Proof.Spec.HandlersReturn : Prop :=
  ∀ (p : Pred) (s : State) (a : Agent), UniReady .all true [] p [] s a →
    (isSeq s.cur = false → ¬ (a.slot0.st ≠ .dead ∧ a.slot1.st ≠ .dead) → a.stack.length = a.frame.depth →
      let f := a.frame
      let back : Agent := { a with
        which := f.which, sv := false, run := none, temps := [], tokens := [], warn := a.warn || a.fallback,
        accs := if f.replayed then a.accs else a.accs.filter fun x => !(x.dst.isSome && x.pend == 0 && x.faulted != 0) }
      let slots := (back.setSlot { f.tslot with pc := if f.epcWritten then f.epc else f.tslot.pc }).setOther f.susp
      (∀ c u, slots.settle = some c → ReadsBack s.cur a.ctx (comingBack a.stack c.stack.length) s u →
        exec (.eret p) s = .next (u.setAgent s.cur c.retire)) ∧
      ∀ c t g, slots.settle = some c → FailsBack s.cur a.ctx (comingBack a.stack c.stack.length) s → InTeam s a t g →
        ∃ u, exec (.eret p) s = .next u ∧ StopsTeam s u a t g 0x11 0 a.wordAddr) ∧
    (isSeq s.cur = true → (a.block ≠ .replay ∧ NothingFaulted a) ∨ (a.block = .replay ∧ AllBack a) →
      ∃ b, exec (.eret p) s = .next (s.setAgent s.cur b) ∧ b.sv = false ∧ b.run = none ∧ b.warn = (a.warn || a.fallback) ∧
        b.slot0 = { pc := a.pair 506, mask := BitVec.allOnes 32, rcv := none, st := .run } ∧ b.accs = a.accs ∧ b.cmds = a.cmds ∧
        (∀ n, b.s n = a.s n) ∧ b.tokens = a.tokens)

/-- R383: REPLAY reissues each faulted lane and command once and waits; an engine fault reported with FMASK 0 is abandoned; when
all have come back it returns how many faulted again. That the wait blocks its gang, which R85's list does not name, is the model's
choice (log 68). -/
def Sys2Proof.Spec.FaultsAreReplayed : Prop :=
  ∀ (p : Pred) (d : SReg) (s : State) (a : Agent), UniReady .gang true [d.toNat] p [] s a → Keeps a d →
    let faulted (x : Access) : Prop := x.pend = 0 ∧ x.faulted ≠ 0
    (a.block ≠ .replay → (∀ x ∈ a.accs, ¬ faulted x) → (∀ c ∈ a.cmds, c.fault = none) →
      exec (.replay p d) s = .next (s.setAgent s.cur
        (({ a with frame := { a.frame with replayed := true, redo := [] }, block := .replay } : Agent).setS d.toNat 0#32).retire)) ∧
    (a.block ≠ .replay → (a.accs.map (·.id)).Nodup → ∀ x ∈ a.accs, faulted x → a.frame.report ≠ some x.id → (∃ c ∈ x.codes, c.1 < 32) →
      ∃ b y, exec (.replay p d) s = .next (s.setAgent s.cur b) ∧ b.block = .replay ∧ b.frame.replayed = true ∧ x.id ∈ b.frame.redo ∧
        y ∈ b.accs ∧ y.id = x.id ∧ y.kind = x.kind ∧ y.faulted = 0 ∧ y.codes = [] ∧ y.todo = y.pend ∧
        ∀ i, i < 32 → (y.todo.getLsbD i = true ↔ ∃ c ∈ x.codes, c.1 = i)) ∧
    (a.block ≠ .replay → (a.cmds.map (·.id)).Nodup → ∀ c ∈ a.cmds, c.fault ≠ none →
      ∃ b, exec (.replay p d) s = .next (s.setAgent s.cur b) ∧
        (a.frame.report = some c.id ∧ a.frame.fmask = 0 → ∀ y ∈ b.cmds, y.id ≠ c.id) ∧
        (¬ (a.frame.report = some c.id ∧ a.frame.fmask = 0) → b.block = .replay ∧ c.id ∈ b.frame.redo ∧
          { c with fault := none, told := false, bad := [], got := [], put := [] } ∈ b.cmds)) ∧
    (a.block = .replay → AllBack a →
      exec (.replay p d) s = .next (s.setAgent s.cur (({ a with frame := { a.frame with redo := [] } } : Agent).setS d.toNat (BitVec.ofNat 32
        ((a.accs.filter fun x => a.frame.redo.contains x.id && x.faulted != 0).length +
          (a.cmds.filter fun c => a.frame.redo.contains c.id && c.fault.isSome).length))).retire))

/-- R384, R385: CTXSAVE of a gang alone in its team writes the record where its descriptor says and takes the team off; an
address that is no page, or not writable, answers 2. CTXLOAD queues a record for admission, or answers why not. That a misaligned
address of CTXLOAD answers 1, and what each limit of a record is, is the model's reading (log 41); what of a team the record has no
field for, and where the model keeps it, is log 42's choice. -/
def Sys2Proof.Spec.RecordsAreSavedAndLoaded : Prop :=
  ∀ (p : Pred) (desc d : SReg) (s : State) (a : Agent) (t : Team), UniReady .gang true [d.toNat] p [desc.toNat, desc.toNat + 1] s a →
    Keeps a d → s.team? a.team = some t →
    let addr := (a.pair desc.toNat).toNat
    let answers (i : Instr) (v : Nat) : Prop := exec i s = .next (s.setAgent s.cur (a.setS d.toNat (BitVec.ofNat 32 v)).retire)
    (addr % 4096 ≠ 0 ∨ s.writable t.quad a.ctx addr t.recordBytes = false → answers (.ctxsave p desc d) 2) ∧
    (addr % 4096 = 0 → s.writable t.quad a.ctx addr t.recordBytes = true → s.teamAgents t = [(s.cur, a)] → t.saving = none →
      (∀ x ∈ a.accs, (x.dst ≠ none → x.pend = 0) ∧ s.sentBy a.uid x.id = false) → (∀ c ∈ a.cmds, c.fault ≠ none) → a.stopped = false →
      (∀ j ∈ (s.quad t.quad).jobs, j.ctx ≠ s.teamCtx t) → (∀ c ∈ (s.quad t.quad).queue, c.team ≠ a.team) →
      let s1 := (s.setAgent s.cur { a with block := .save }).setTeam a.team { t with saving := some s.cur }
      let s3 := (s1.setAgent s.cur (a.savedBy d.toNat)).settleTeam t
      let bytes := s3.teamRecord t true
      ∀ s2, s3.writeGlobal t.quad a.ctx addr bytes none = .ok s2 →
        ∃ u, exec (.ctxsave p desc d) s = .next u ∧ u.agent? s.cur = none ∧ u.team? a.team = none ∧
          (∀ n, u.dmem.read n = s2.dmem.read n) ∧ (∀ n, u.hmem.read n = s2.hmem.read n) ∧
          ∀ g, s.grid? t.grid = some g → ∃ h, u.grid? t.grid = some h ∧ h = { g with saved := g.saved ++ [(t.index, .space addr)], kept := h.kept } ∧
            ∃ x ∈ h.kept, x.1 = t.index ∧ x.2.gang = gangCode s.cur a ∧ x.2.uid = a.uid) ∧
    (addr % 4096 ≠ 0 → answers (.ctxload p desc d) 1) ∧
    ∀ h s1, addr % 4096 = 0 → s.readGlobal (quadOf s.cur) a.ctx addr 4096 .read none = .ok (h, s1) →
      let n := s1.loadStatus a.ctx (fun o k => fieldOf h o k)
      (n ≠ 0 → ∃ u, exec (.ctxload p desc d) s = .next u ∧ u.agent? s.cur = some (a.setS d.toNat (BitVec.ofNat 32 n)).retire ∧ SameOthers s u s.cur ∧
        (∀ k, u.grid? k = s.grid? k)) ∧
      (n = 0 → ∃ u g, exec (.ctxload p desc d) s = .next u ∧ u.agent? s.cur = some (a.setS d.toNat 0#32).retire ∧ SameOthers s u s.cur ∧
        s.grid? (fieldOf h 24 4) = some g ∧ u.grid? (fieldOf h 24 4) = some { g with
          saved := g.saved.filter (fun r => r.1 != fieldOf h 28 4),
          reload := g.reload ++ [(fieldOf h 28 4, .queued addr ((s1.recordFrom (quadOf s.cur) a.ctx addr).getD []))] })

/-- R34, R37, R39, R45, R51, R177, R264: RUN waits for the tokens its header names, and behind its partition's earlier requests to a
throttled row; then its words are those the agent holds since it fetched them, which is how the model reads the words a run may still
have (log 15), or those of memory. The structural rules and the slots' settling are the model's own functions, structuralCode and
settle, written from R39 and R82. A run that keeps the structural rules begins, or waits for a slot it names to load; one that
breaks a rule traps ILLEGAL with the lowest code at its header, and words that cannot be fetched trap MEM there. -/
def Sys2Proof.Spec.RunsBegin : Prop :=
  ∀ (len : BitVec 5) (wait : BitVec 6) (fb : Bool) (s : State) (a : Agent), s.agent? s.cur = some a → a.run = none → a.slot.st = .run →
    a.stopped = false → a.ended = false →
    let ready : Prop := (∀ x ∈ a.tokens, wait.getLsbD x.1 = true → a.busy x.2 = false) ∧ ∀ x ∈ a.accs, x.run = 0 → x.dst = none → x.pend = 0
    let behind := s.sideHeld a.ctx a.slot.pc.toNat (8 * (len.toNat + 2))
    (¬ ready ∨ behind = true → exec (.run len wait fb) s = .next s) ∧
    let held := ((s.quad (quadOf s.cur)).fetched.find? fun f => f.uid == a.uid && f.pc == a.slot.pc.toNat).map (·.words)
    let none_ : Prop := ∀ h ws, held = some (h :: ws) → ws.length ≠ len.toNat + 1
    let read := s.readGlobal (quadOf s.cur) a.ctx (a.slot.pc.toNat + 8) (8 * (len.toNat + 1)) .fetch none
    (ready → behind = false → none_ → ∀ e x, read = .error (e, x) → e ≠ 100 → a.block ≠ .handler → MayTrap s a →
      ∃ b, exec (.run len wait fb) s = .next (s.setAgent s.cur b) ∧
        Entered s a b 0x09 (e + 65536 * min a.heldCount 255) a.slot.pc a.slot.pc a.slot.mask 0) ∧
    (ready → behind = false → ∀ (words : List Dword) (s1 : State), words.length = len.toNat + 1 →
      ((∃ h, held = some (h :: words)) ∧ s1 = s ∨
        none_ ∧ ∃ bs, read = .ok (bs, s1) ∧ ∀ i w, words[i]? = some w → w.toNat = fieldOf bs (8 * i) 8) →
        let code := structuralCode (s.lenient s.cur) (isSeq s.cur) a.sv wait fb (words.take len.toNat) ((words.getLast?).getD 0)
        let loading : Prop := ∃ w ∈ words.take len.toNat, ∃ x ∈ (wordUses w).slots, s1.slotLoading (quadOf s.cur) a.ctx x = true
        (code = 0 → loading → exec (.run len wait fb) s = .next (s1.setAgent s.cur { a with block := .slot })) ∧
        (code = 0 → ¬ loading → ∃ u h, exec (.run len wait fb) s = .next u ∧ encode (.run len wait fb) = some h ∧
          u.agent? s.cur = some { a with
            run := some { header := a.slot.pc, words, idx := 0, flow := .fall, noreuse := a.noreuse, stalled := false, fallback := false },
            temps := [], runs := a.runs + 1, block := .none } ∧
          (let q := s1.quad (quadOf s.cur)
           let this (f : HeldRun) : Prop := f.uid = a.uid ∧ f.pc = a.slot.pc.toNat ∧ f.words = h :: words
           ∃ f, this f ∧ (f ∈ q.fetched ∨ f.wrote = [] ∧ ∀ g ∈ q.fetched, ¬ this g) ∧
             u.quad (quadOf s.cur) = { q with fetched := f :: q.fetched.filter fun g => !(g.uid == a.uid && g.pc == a.slot.pc.toNat && g.words == h :: words) }) ∧
          (∀ k, k ≠ s.cur → u.agent? k = s1.agent? k) ∧ SameMemory s1 u) ∧
        (code ≠ 0 → MayTrap s a → ∃ b, exec (.run len wait fb) s = .next (s1.setAgent s.cur b) ∧
          Entered s a b 0x01 code a.slot.pc a.slot.pc a.slot.mask 0))

/-- R36, R37, R40, R82, R83: TRAIL assigns its tokens, loses the temporaries, and the slot stands after the run, where a branch
sent it, or stays, before the slots settle, with the stack entries that come back on chip; the wait of a slot left with no ready run
restarts (R85); where no lane is left the gang ends, and where an entry cannot be read its team stops. -/
def Sys2Proof.Spec.RunsEnd : Prop :=
  ∀ (na : BitVec 3) (a0 a1 a2 a3 : BitVec 12) (s : State) (a : Agent) (r : RunBuf), s.agent? s.cur = some a → a.run = some r →
    r.idx + 1 = r.words.length →
    let b : Agent := { a with tokens := a.tokens ++ assigned a na [a0, a1, a2, a3], run := none, temps := [] }
    let c : Agent := match r.flow with
      | .fall => b.setSlot { a.slot with pc := r.header + 8#64 * BitVec.ofNat 64 (r.words.length + 1) }
      | .goto t => b.setSlot { a.slot with pc := t }
      | .stay => b
    (isSeq s.cur = true → exec (.trail na a0 a1 a2 a3) s = .next (s.setAgent s.cur c)) ∧
    (isSeq s.cur = false → (∀ d u, c.settle = some d → ReadsBack s.cur a.ctx (comingBack c.stack d.stack.length) s u →
        ∃ x y, exec (.trail na a0 a1 a2 a3) s = .next (u.setAgent s.cur { d with wait0 := x, wait1 := y }) ∧
          (x = d.wait0 ∨ x = 0 ∧ (u.setAgent s.cur d).slotReady s.cur d false = false) ∧
          (y = d.wait1 ∨ y = 0 ∧ (u.setAgent s.cur d).slotReady s.cur d true = false)) ∧
      (∀ u, c.settle = none → ReadsBack s.cur a.ctx (comingBack c.stack 0) s u →
        ∃ v, exec (.trail na a0 a1 a2 a3) s = .next v ∧ ∀ x, v.agent? s.cur = some x → x.ended = true) ∧
      ∀ d t g, c.settle = some d → FailsBack s.cur a.ctx (comingBack c.stack d.stack.length) s → InTeam s a t g →
        ∃ u, exec (.trail na a0 a1 a2 a3) s = .next u ∧ StopsTeam s u a t g 0x11 0 a.header)

/-! Teams, grids and passes (R359, R363 to R365, R387). -/

/-- R364, R365, R65, R72, R79: a team of the current record that fits is admitted: its gangs stand at the entry in user mode with
their arguments, one for each gang of its kernel record, and the record moves on. -/
def Sys2Proof.Spec.TeamsAreAdmitted : Prop :=
  ∀ (q : Nat) (s : State) (b : Bind) (g : Grid) (c : Ctx), (s.quad q).current = some b → s.grid? b.handle = some g → s.ctx? b.ctx = some c →
    c.frozen = false → g.cor = false → tabGet g.reload b.first = none ∨ tabGet g.reload b.first = some .anew → s.fits q g.shape g.shape.entries = true →
    ∃ u t, exec (.teamAdmit q) s = .next u ∧ u.nextTeam = s.nextTeam + 1 ∧ u.team? s.nextTeam = some t ∧
      t.grid = b.handle ∧ t.index = b.first ∧ t.quad = q ∧ t.gangs = g.shape.gangs ∧ t.live = g.shape.gangs ∧ t.csize = g.shape.alloc ∧
      (1 < b.count → ∃ r ∈ (u.quad q).records, r.handle = b.handle ∧ r.first = b.first + 1 ∧ r.count = b.count - 1) ∧
      (b.count = 1 → b.standing = false → b ∉ (u.quad q).records) ∧
      t.tbarArr = 0 ∧ t.cM = 0 ∧ t.cD = 0 ∧ t.keys.length = g.shape.gangs ∧ t.keys.Nodup ∧
      (∀ j, j < g.shape.gangs → ∃ k ∈ t.keys, ∃ a, u.agent? k = some a ∧ a.gang = j) ∧
      ∀ k ∈ t.keys, ∃ a, u.agent? k = some a ∧ a.team = s.nextTeam ∧ a.grid = b.handle ∧ a.ctx = g.ctx ∧ a.regs = g.shape.regs ∧ a.blocks = 0 ∧
        a.sv = false ∧ a.stack = [] ∧ a.flags = 0 ∧ a.slot0 = { pc := BitVec.ofNat 64 g.shape.entry, mask := BitVec.allOnes 32, rcv := none, st := .run } ∧
        a.slot1.st = .dead ∧ a.gang < g.shape.gangs ∧ a.s 2 = g.args.setWidth 32 ∧ a.s 3 = g.args.extractLsb' 32 32 ∧
        a.s 4 = BitVec.ofNat 32 g.nteams ∧ a.s 5 = BitVec.ofNat 32 b.first ∧ a.s 6 = BitVec.ofNat 32 g.depth ∧
        (∀ n, n < 2 ∨ 6 < n → a.s n = 0#32) ∧ ∀ n, a.v n = laneZero

/-- R102, R359, R393, R394: a team whose agents have all left retires and its grid counts it; a grid whose teams have retired, with
nothing of it in flight, retires with its error flag: its error record, if it had an error, is written where it asks, then DONE is one
more, each where its page may be written; and a resident grid's end is reported in STATUS. That a resident grid waits for its context's
collectives is the model's choice (log 47). -/
def Sys2Proof.Spec.TeamsAndGridsRetire : Prop :=
  (∀ (id : Nat) (s : State) (t : Team) (g : Grid), s.team? id = some t → s.grid? t.grid = some g → t.live = 0 → t.mRun = false → t.dRun = false →
    (∀ x ∈ s.agents, x.1 < orphanBase → x.2.team ≠ id) →
    ∃ u, exec (.teamRetire id) s = .next u ∧ u.team? id = none ∧ (∀ k, k ≠ id → u.team? k = s.team? k) ∧
      u.grid? t.grid = some { g with retiredTeams := g.retiredTeams + 1 } ∧ SameMemory s u) ∧
  ∀ (h : Nat) (s : State) (g : Grid) (c : Ctx), s.grid? h = some g → s.ctx? g.ctx = some c → g.st = .queued ∨ g.st = .running → g.nteams ≤ g.retiredTeams →
    (g.done ≠ 0 → s.sideHeld g.ctx g.done 8 = false) → (g.err ≠ 0 → s.sideHeld g.ctx g.err 256 = false) → (c.resident = h → ∀ x ∈ c.colls, x.st ≠ 0) →
    (∀ x ∈ s.agents, x.2.grid ≠ h) → (∀ x ∈ s.grids, x.2.parent = some h → x.2.st ≠ .queued ∧ x.2.st ≠ .running) → mapSorted s.grids = true →
    let q := (s.ldQuads (g.ctx / 16) (g.queue / 16)).headD 0
    let s1 := match g.errRec with
      | some e => if g.err = 0 then s else s.tryWrite q g.ctx g.err (errorRecord e)
      | none => s
    ∃ u, exec (.gridRetire h) s = .next u ∧ u.grid? h = some { g with st := .retired g.errRec.isSome } ∧
      (∀ e dev k, g.errRec = some e → g.err ≠ 0 → g.err % 4096 + 256 ≤ 4096 → WritesPage s q g.ctx g.err dev k →
        ∀ j, j < 256 → (pageMemory s1 dev).read (k + j) = (errorRecord e).getD j 0) ∧
      (c.resident ≠ h → (∀ x ∈ s.grids, x.2.ctx = g.ctx → x.2.waits = []) →
        (g.done = 0 → SameMemory s1 u) ∧
        ∀ dev k, g.done ≠ 0 → g.done % 8 = 0 → inLeafWindow g.done = false → WritesPage s1 q g.ctx g.done dev k → SoundUnits s1 →
          BitsWritten (pageMemory s1 dev) (pageMemory u dev) (8 * k) 64 (((pageMemory s1 dev).readNat k 8 + 1) % 2 ^ 64) ∧
          (∀ n, (pageMemory u (!dev)).read n = (pageMemory s1 (!dev)).read n)) ∧
      (c.resident = h → ∃ d, u.ctx? g.ctx = some d ∧ d.halted = true ∧ ∀ vf, c.vf = some vf → (u.vf vf).status.getLsbD 0 = true)

/-- R387, R389: a team whose slice has ended and whose agents have stopped has its record written and leaves its quadrant, to
be admitted again; a gang that has not stopped when its time is up must stop at its next run boundary. That the record goes to memory of
Matins's own, and what is kept beside it, is the model's choice (log 42). -/
def Sys2Proof.Spec.SlicesEnd : Prop :=
  (∀ (id n : Nat) (s : State) (t : Team) (g : Grid), s.team? id = some t → t.saving = some n → 2 ^ 32 ≤ n → s.grid? t.grid = some g →
    s.readyToSave id t none = true →
    let bytes := (s.settleTeam t).teamRecord t (n == 2 ^ 32 + 1)
    ∃ u, exec (.teamRecordWrite id) s = .next u ∧ u.team? id = none ∧ u.nextSave = s.nextSave + 1 ∧
      u.savm.readBytes (2 ^ 32 * s.nextSave) bytes.length = bytes ∧
      (∃ h, u.grid? t.grid = some h ∧ h = { g with reload := g.reload ++ [(t.index, .device s.nextSave)], kept := h.kept }) ∧
      ∀ x ∈ s.teamAgents t, u.agent? x.1 = none) ∧
  ∀ (ag : Nat) (s : State) (a : Agent), s.agent? ag = some a → a.sliceEnd = true → a.stopped = false → a.mustStop = false →
    exec (.pdlExpiry ag) s = .next (s.setAgent ag { a with mustStop := true })

/-- R363, R402: a pass of Matins in service counts, and completes a firmware handoff, which is the model's reading of when a swap ends
(log 45); with no record to write it always may run. -/
def Sys2Proof.Spec.MatinsPasses : Prop :=
  ∀ (plan : List BindPlan) (s : State), s.mgmt.boot = .service →
    (∃ u, exec (.matinsPass []) s = .next u) ∧
    ∀ u, exec (.matinsPass plan) s = .next u → u.mgmt.passes = s.mgmt.passes + 1 ∧
      (∀ image version sig, s.mgmt.handoff = true → s.mgmt.swap = some (image, version, sig) →
        u.mgmt.firmware = image ∧ u.mgmt.version = version ∧ u.mgmt.fwDigest = Config.sha3_512 image ∧ u.mgmt.handoff = false ∧
        u.mgmt.dmv = dmvOf (Config.sha3_512 image)) ∧
      (s.mgmt.handoff = false → u.mgmt = { s.mgmt with passes := s.mgmt.passes + 1 })

/-! The management core and the host (R13 to R28, R172, R240, R350, R395 to R406). -/

namespace Sys2Proof.Spec
open Sys2Proof.Machine

/-- What a package reset clears (R398): every table and memory of the package but host memory; the host port takes the mode of HOSTMODE. -/
def Cleared (s u : State) : Prop :=
  u.agents = [] ∧ u.teams = [] ∧ u.grids = [] ∧ u.ctxs = [] ∧ u.parts = [] ∧ u.spaces = [] ∧ u.quads = [] ∧ u.cgs = [] ∧ u.vfs = [] ∧
  u.dmem = [] ∧ u.sysm = [] ∧ u.cmem = [] ∧ u.lmem = [] ∧ u.savm = [] ∧ u.hmem = s.hmem ∧ u.mgmt.started = false ∧ u.hub.cxl = s.mgmt.hostmode
/-- The boot store stays: the firmware and the fused identity's record (R398, R399). -/
def SameBootStore (s u : State) : Prop :=
  u.mgmt.firmware = s.mgmt.firmware ∧ u.mgmt.version = s.mgmt.version ∧ u.mgmt.sig = s.mgmt.sig ∧ u.mgmt.hostmode = s.mgmt.hostmode
/-- The public key of a private one, and a signature, as R400 gives their lengths. -/
def publicKey (k : BitVec 512) : List Byte := bytesOfNat 2592 (Config.mlDsaPublic k).toNat
def signedBy (k : BitVec 512) (bs : List Byte) : List Byte := bytesOfNat 4627 (Config.mlDsaSign k bs).toNat
/-- The chain of R400: Dexson's root, the identity key with Dexson's certificate, the alias key with the identity key's. -/
def certificates (m : Mgmt) : List Byte :=
  bytesOfNat 2592 Config.dexsonRoot.toNat ++ publicKey m.identity ++ bytesOfNat 4627 Config.dexsonCert.toNat ++ publicKey m.aliasId ++
    signedBy m.identity (publicKey m.aliasId)
/-- The SPDM requests of R400 in its order, and what each response holds. -/
def attestRow (s : State) : Instr → Option (Nat × List Byte)
  | .getVersion => some (0, [0x13#8])
  | .getCapabilities => some (1, [])
  | .negotiateAlgorithms => some (2, bytesOfNat 4 (Config.vendorAlgorithm 0).toNat ++ bytesOfNat 4 (Config.vendorAlgorithm 1).toNat)
  | .getDigests => some (3, bytesOfNat 64 (Config.sha3_512 (certificates s.mgmt)).toNat)
  | .getCertificate => some (4, certificates s.mgmt)
  | .challenge nonce => some (5, bytesOfNat 32 nonce.toNat ++ signedBy s.mgmt.aliasId (bytesOfNat 32 nonce.toNat))
  | .getMeasurements i =>
    let block : List Byte := BitVec.ofNat 8 i :: (if i = 1 then bytesOfNat 64 Config.romDigest.toNat else if i = 2 then bytesOfNat 64 s.mgmt.fwDigest.toNat
      else if i = 3 then bytesOfNat 64 Config.configDigest.toNat else if i = 4 then bytesOfNat 64 s.mgmt.dmv.toNat
      else if 16 ≤ i ∧ i < 48 then (match s.part? (i - 16) with | some p => bytesOfNat 64 p.pmv.toNat | none => []) else [])
    some (6, block ++ signedBy s.mgmt.aliasId block)
  | .vendorDefinedRequest req seq =>
    if req.vendor = Config.dexsonVendor ∧ req.code = 1 then some (7, match s.part? req.part with | some p => ((p.log.drop seq).take 32).flatten | none => [])
    else some (8, [])
  | _ => none
/-- A partition's fields are those of its settings (R26, R27, R395). -/
def Follows (c : PartSpec) (p : Part) : Prop :=
  p.quads = c.quads ∧ p.mode = c.mode ∧ p.ldevs = c.ldevs ∧ p.quota = c.quota ∧ p.wayMasks = c.wayMasks ∧ p.alloc = c.alloc ∧ p.pinQuota = c.pinQuota ∧
  p.span = c.span ∧ p.lease = c.lease ∧ p.pdl = c.pdl ∧ p.imgShare = c.imgShare ∧ p.actLimit = c.actLimit ∧ p.peers = c.peers
/-- Each quadrant asked for exists, is in service, and is no other partition's (R26). -/
abbrev QuadsFree (s : State) (part : Nat) (qs : List Nat) : Prop :=
  qs ≠ [] ∧ qs.Nodup ∧ ∀ q ∈ qs, q < 256 ∧ (s.quad q).retired = false ∧ ((s.quad q).part = none ∨ (s.quad q).part = some part)
/-- A lease is 1 to 4,096 units long (R253), a PDL 24 bits (R387), no span port is another partition's (log 49), and the shares of the
image cache do not exceed its 8 MiB (R169). -/
abbrev LimitsKept (s : State) (c : PartSpec) : Prop :=
  1 ≤ c.lease ∧ c.lease ≤ 4096 ∧ c.pdl < 2 ^ 24 ∧ c.span < 2 ^ 12 ∧ (∀ p ∈ s.parts, p.1 = c.index ∨ p.2.span &&& c.span = 0) ∧
  (s.parts.filter fun p => p.1 != c.index).foldl (fun n p => n + p.2.imgShare) c.imgShare ≤ 8388608
/-- No team of a partition is resident. -/
abbrev NoTeams (s : State) (part : Nat) : Prop := ∀ t ∈ s.teams, ∀ g ∈ s.grid? t.2.grid, g.ctx / 16 ≠ part

end Sys2Proof.Spec

open Sys2Proof Sys2Proof.Machine Sys2Proof.Spec

/-- R398, R399, R401: a package reset clears the package but for the boot store; at a third failure, or with FAILCNT at 3, it
enters Midnight mode; firmware that fails its check or a self-test that fails counts and is named; a start that passes enters
normal service with its mark, which clears FAILCNT, or fails with reason 3; BOOTCTL takes the image of FWWIN. How that image's version
and signature are read, and that from Midnight mode FAILCNT becomes 2 without an image too, is the model's choice (log 45). -/
def Sys2Proof.Spec.StartsRun : Prop :=
  (∀ (s : State),
    let valid : Prop := Config.mlDsaVerify Config.dexsonKey s.mgmt.firmware s.mgmt.sig = true
    let old : Prop := s.mgmt.version < Config.minVersion
    ∃ u, exec .packageReset s = .next u ∧ Cleared s u ∧ SameBootStore s u ∧
      (s.mgmt.failcnt = 3 → u.mgmt.boot = .midnight ∧ u.mgmt.mode = .midnight ∧ u.mgmt.failcnt = 3) ∧
      (s.mgmt.failcnt ≠ 3 →
        (¬ valid → u.mgmt.failcnt = s.mgmt.failcnt + 1 ∧ u.mgmt.reason = 1) ∧
        (valid → old → u.mgmt.failcnt = s.mgmt.failcnt + 1 ∧ u.mgmt.reason = 2) ∧
        (valid → ¬ old →
          (u.mgmt.boot = .selftest ∧ u.mgmt.mode = .test ∧ u.mgmt.failcnt = s.mgmt.failcnt ∧ u.mgmt.fwDigest = Config.sha3_512 s.mgmt.firmware ∧
            u.mgmt.dmv = dmvOf (Config.sha3_512 s.mgmt.firmware)) ∨
          (u.mgmt.failcnt = s.mgmt.failcnt + 1 ∧ 4 ≤ u.mgmt.reason ∧ u.mgmt.reason ≤ 8)) ∧
        (u.mgmt.failcnt = s.mgmt.failcnt + 1 → (u.mgmt.boot = .midnight ↔ s.mgmt.failcnt + 1 = 3)))) ∧
  (∀ s : State, s.mgmt.boot = .selftest → exec .startedMark s = .next { s with mgmt := { s.mgmt with
    boot := .service, mode := .normal, started := true, failcnt := 0 } }) ∧
  (∀ (s : State) (stage : Nat), s.mgmt.boot = .selftest → stage = 4 ∨ stage = 5 →
    ∃ u, exec (.startTimeout stage 3#8) s = .next u ∧ Cleared s u ∧ SameBootStore s u ∧ u.mgmt.failcnt = s.mgmt.failcnt + 1 ∧ u.mgmt.reason = 3) ∧
  ∀ s : State, ∃ u, exec .bootctlReset s = .next u ∧ Cleared s u ∧ (s.mgmt.fwwin = [] → SameBootStore s u) ∧
    (s.mgmt.fwwin ≠ [] → ∀ i, i < u.mgmt.firmware.length → u.mgmt.firmware[i]? = some (s.mgmt.fwwin.read i)) ∧
    u.mgmt.failcnt = (if s.mgmt.boot = .midnight then 2 else s.mgmt.failcnt)

/-- R400: a part that answers gives each attestation request its response, and negotiation is remembered. How a response is framed, the
number that stands before it and the answer to another vendor's request are the model's choice (log 46). -/
def Sys2Proof.Spec.AttestationAnswers : Prop :=
  ∀ (i : Instr) (n : Nat) (bs : List Byte) (s : State), attestRow s i = some (n, bs) → s.mgmt.boot ≠ .off → s.mgmt.boot ≠ .poweredDown →
    exec i s = .next { s with mgmt := { s.mgmt with
      spdm := s.mgmt.spdm ++ [BitVec.ofNat 8 n :: bs], negotiated := s.mgmt.negotiated || i == .negotiateAlgorithms } }

/-- R26, R27, R395, R263, R172: a partition is created with its settings and takes its quadrants, or is refused where its die
masks cannot be formed; with no team resident a change is made whole, and a quadrant given up keeps nothing but its slots' bindings (R174); a reset
releases its pins, and changes nothing else, its bindings among it, which is the model's choice (log 47); a key removed takes its verdicts
with it. What the access tables hold for the quadrants and the span ports is the model's choice (log 49). -/
def Sys2Proof.Spec.PartitionsAreManaged : Prop :=
  (∀ (c : PartSpec) (s : State), s.mgmt.boot = .service → QuadsFree s c.index c.quads → LimitsKept s c →
    (c.index < 32 → s.part? c.index = none → c.keys.length ≤ 4 →
      (ldevsOk c.quads c.mode c.ldevs = false → exec (.partitionCreate c) s = .next s) ∧
      (ldevsOk c.quads c.mode c.ldevs = true → ∃ u p, exec (.partitionCreate c) s = .next u ∧ u.part? c.index = some p ∧ Follows c p ∧
        p.trust = (0, Config.dexsonKey.toNat) :: c.keys.zipIdx.map (fun k => (k.2 + 1, k.1)) ∧ p.pmv = 0 ∧ p.log = [] ∧
        (∀ q, (u.quad q).part = if q ∈ c.quads then some c.index else (s.quad q).part) ∧
        (∀ t : Target, (∀ q ∈ c.quads, mapGet 0 u.access (t.key q) = 3 + 4 * c.index) ∧
          ∀ i, i < 12 → c.span.testBit i = true → mapGet 0 u.access (t.key (258 + i)) = 3 + 4 * c.index) ∧ SameMemory s u ∧ ∀ k, u.agent? k = s.agent? k)) ∧
    ∀ p, s.part? c.index = some p → ldevsOk c.quads c.mode c.ldevs = true → NoTeams s c.index →
      ∃ u r, exec (.partitionConfigure c) s = .next u ∧ u.part? c.index = some r ∧ Follows c r ∧ r.trust = p.trust ∧ r.pmv = p.pmv ∧ r.log = p.log ∧
        (∀ q ∈ c.quads, (u.quad q).part = some c.index) ∧
        ∀ q ∈ p.quads, q < 256 → q ∉ c.quads → (u.quad q).part = none ∧ (u.quad q).bind = (s.quad q).bind ∧ (u.quad q).l1 = [] ∧ (u.quad q).banks = [] ∧
          ∀ t : Target, mapGet 0 u.access (t.key q) = 0) ∧
  (∀ (part : Nat) (s : State) (p : Part), s.part? part = some p →
    ∃ u, exec (.partitionReset part) s = .next u ∧ u = { s with cgs := u.cgs } ∧
      ∀ x ∈ u.cgs, (∀ l ∈ x.2.msc, l.pin ≠ some part) ∧ mapGet 0 x.2.pins part = 0) ∧
  ∀ (part key : Nat) (s : State) (p : Part), s.part? part = some p → (∃ t ∈ p.trust, t.1 = key) →
    ∃ u, exec (.trustKeyRemove part key) s = .next u ∧ u = { s with parts := u.parts } ∧
      u.part? part = some { p with trust := p.trust.filter (fun t => t.1 != key), verified := p.verified.filter fun v => v.2 != key }

/-- R240, R417: a shared space is created with its tables, attached at a free window, and destroyed once none attaches it: its
frames, lines and bytes go. -/
def Sys2Proof.Spec.SpacesAreManaged : Prop :=
  (∀ (c : SpaceSpec) (s : State) (p : Part), s.mgmt.boot = .service → c.sid < 4096 → s.space? c.sid = none → s.part? c.owner = some p →
    diesOk c.dies = true → ∃ u x, exec (.spaceCreate c) s = .next u ∧ u = { s with spaces := u.spaces, sysm := u.sysm } ∧ u.space? c.sid = some x ∧
      x.root = c.root ∧ x.seed = c.seed ∧ x.owner = c.owner ∧ x.shared = true ∧ (∀ d, d ∈ x.dies ↔ d ∈ c.dies) ∧
      ∀ addr e, c.tables.getLast? = some (addr, e) → wordAt u.sysm (c.owner * 2 ^ 52 + addr) 8 = e % 2 ^ 64) ∧
  (∀ (ctx window sid : Nat) (s : State) (c : Ctx) (x : Space), s.ctx? ctx = some c → s.space? sid = some x → x.shared = true → window < 4 →
    tabGet c.attached window = none → ∃ u, exec (.sharedSpaceAttach ctx window sid) s = .next u ∧ u = { s with ctxs := u.ctxs } ∧
      ∃ d, u.ctx? ctx = some d ∧ tabGet d.attached window = some sid ∧ ∀ w, w ≠ window → tabGet d.attached w = tabGet c.attached w) ∧
  ∀ (sid : Nat) (s : State) (x : Space), s.space? sid = some x → x.shared = true → (∀ c ∈ s.ctxs, ∀ a ∈ c.2.attached, a.2 ≠ sid) →
    ∃ u, exec (.spaceDestroy sid) s = .next u ∧ u.space? sid = none ∧ (∀ n, u.dmem.read n = if n / 2 ^ 57 = sid then 0#8 else s.dmem.read n) ∧
      (∀ c ∈ u.cgs, (∀ l ∈ c.2.msc, l.sid ≠ sid) ∧ (∀ l ∈ c.2.leases, l.sid ≠ sid) ∧ ∀ k ∈ c.2.chunks, k.1 / 2 ^ 45 ≠ sid) ∧
      (∀ q ∈ u.quads, ∀ l ∈ q.2.l1, l.sid ≠ sid) ∧ ∀ l ∈ u.hub.leases, l.sid ≠ sid

/-- R28, R233, R350, R351, R360, R417: a context whose tables reach every leaf of its reservation has its bytes placed and its kernel
record checked: where the checks pass it is created with its private space, its resident grid queued and its virtual function; where
they fail nothing is created and the request fails with their status; one that has stopped is destroyed with its space, teams and
grids, and no ACCOWN is cleared by it. -/
def Sys2Proof.Spec.ContextsAreManaged : Prop :=
  (∀ (c : CtxSpec) (s : State) (p : Part), s.mgmt.boot = .service → s.part? c.part = some p → c.ctx < 16 → s.ctx? (16 * c.part + c.ctx) = none →
    c.sid < 4096 → s.space? c.sid = none → (∀ v, c.vf = some v → v < 384 ∧ (s.vf v).ctx = none) →
    c.nrp = 0 ∨ (c.nrp % 32 = 0 ∧ c.nrp ≤ 2 ^ 20 ∧ c.resBase % 2 ^ 21 = 0) →
    let id := 16 * c.part + c.ctx
    let sp : Space := { root := c.root, seed := c.seed, dies := sortDies (p.ldevs.flatMap fun d => d), owner := c.part, shared := false,
                        resBase := c.resBase, nrp := c.nrp, ctx := id }
    let s1 := ((s.setSpace c.sid sp).putTables c.part c.tables).setCtx id (newCtx c)
    let s2 := c.load.foldl (fun s l => s.placeBytes id sp c.sid l.1 l.2) (if c.nrp = 0 then s1 else s1.chargeReservation c.sid sp false)
    let checked := s2.checkLaunch ((s2.ldQuads c.part 0).headD 0) id c.krec.toNat 1 false 0
    (s1.reservationBuilt sp = false → exec (.contextCreate c) s = .fault .notEnabled) ∧
    (s1.reservationBuilt sp = true → ∀ n, checked = .error n →
      exec (.contextCreate c) s = .next { s with mgmt := { s.mgmt with createStatus := n } }) ∧
    (s1.reservationBuilt sp = true → ∀ shape, checked = .ok shape → ∃ u d x g, u.mgmt.createStatus = 0 ∧ exec (.contextCreate c) s = .next u ∧ u.ctx? (16 * c.part + c.ctx) = some d ∧ u.space? c.sid = some x ∧ u.grid? d.resident = some g ∧
      d.sid = c.sid ∧ d.vf = c.vf ∧ d.hvec = c.hvec ∧ d.shvec = c.shvec ∧ d.caps = [] ∧ d.frozen = false ∧ d.halted = false ∧ d.saveBase = c.saveBase ∧
      x.root = c.root ∧ x.shared = false ∧ x.ctx = 16 * c.part + c.ctx ∧ x.owner = c.part ∧
      d.resident = s.nextGrid ∧ g.ctx = 16 * c.part + c.ctx ∧ g.nteams = 1 ∧ g.depth = 0 ∧ g.queue = 0 ∧ g.parent = none ∧ g.st = .queued ∧
      g.shape = shape ∧ g.krec = c.krec.toNat ∧
      (∀ v, c.vf = some v → (u.vf v).ctx = some id ∧ (u.vf v).slots = [] ∧ ∀ t : Target, mapGet 0 u.access (t.key (271 + v)) = 3 + 4 * c.part) ∧
      ∀ k, u.agent? k = s.agent? k)) ∧
  ∀ (ctx : Nat) (s : State) (c : Ctx) (x : Space), s.ctx? ctx = some c → c.halted = true → s.space? c.sid = some x →
    ∃ u, exec (.contextDestroy ctx) s = .next u ∧ u.ctx? ctx = none ∧ u.space? c.sid = none ∧ (∀ a ∈ u.agents, a.2.ctx ≠ ctx) ∧ (∀ g ∈ u.grids, g.2.ctx ≠ ctx) ∧
      (∀ v, c.vf = some v → (u.vf v).ctx = none ∧ ∀ t : Target, mapGet 0 u.access (t.key (271 + v)) = 0) ∧ (∀ q, (u.quad q).accown = (s.quad q).accown) ∧
      ∀ n, n / 2 ^ 57 = c.sid → u.dmem.read n = 0#8

/-- R396, R397, R405: a tenant that is reset loses its teams, capabilities, messages and collectives and its stop is reported;
one the host stops is reported; a function-level reset clears the function's registers and standing bind. That a tenant reset clears
the whole capability table, and that a function-level reset lets the standing bind go, is the model's choice (log 47). -/
def Sys2Proof.Spec.TenantsStop : Prop :=
  (∀ (ctx : Nat) (s : State) (c : Ctx), s.ctx? ctx = some c →
    (∃ u d, exec (.tenantReset ctx) s = .next u ∧ u.ctx? ctx = some d ∧ d.caps = [] ∧ d.rx = [] ∧ d.early = [] ∧ d.expect = [] ∧ d.colls = [] ∧
      d.halted = true ∧ d.frozen = true ∧ (∀ a ∈ u.agents, a.2.ctx ≠ ctx) ∧ (∀ g ∈ u.grids, g.2.ctx ≠ ctx) ∧ (∀ q ∈ u.quads, q.2.accown ≠ some ctx) ∧
      (∀ x ∈ u.hub.outbox, sentFrom ctx x = false) ∧ ∀ v, c.vf = some v → (u.vf v).status = (s.vf v).status ||| 3#32) ∧
    (c.halted = false → ∃ u d, exec (.hostStopRequest ctx) s = .next u ∧ u.ctx? ctx = some d ∧ d.halted = true ∧ d.frozen = true ∧ d.caps = c.caps ∧
      (∀ a ∈ u.agents, a.2.ctx = ctx → a.2.stopped = true ∧ a.2.run = none ∧ a.2.cmds = []) ∧
      ∀ v, c.vf = some v → (u.vf v).status = (s.vf v).status ||| 1#32)) ∧
  ∀ (v : Nat) (s : State), s.mgmt.boot = .service → v < 384 →
    ∃ u, exec (.functionLevelReset v) s = .next u ∧ (u.vf v).kdrop = 0 ∧ (u.vf v).status = 0 ∧ (u.vf v).dpraddr = 0 ∧ (u.vf v).sbreq = 0 ∧ (u.vf v).sbwaits = false ∧
      (u.vf v).rings = [] ∧ (u.vf v).ctx = (s.vf v).ctx ∧ SameMemory s u ∧
      ∀ ctx d, (s.vf v).ctx = some ctx → u.ctx? ctx = some d → d.standing = []

/-- R404, R405: a host write reaches a function's mailbox slots, and FWWIN, byte by byte, where the access table admits it; a slot's reserved
bytes 4 to 7 ignore it (R5, R351). -/
def Sys2Proof.Spec.RegistersAreWritten : Prop :=
  (∀ (v off : Nat) (data : List Byte) (s : State), v < 384 → s.mgmt.boot = .service → off < 0x20000 → off + data.length ≤ 0x20000 →
    let part := match (s.vf v).ctx with | some c => c / 16 | none => 0
    (s.admits .mailbox (271 + v) part true = true → ∃ u, exec (.registerWrite (some v) off data) s = .next u ∧ u = { s with vfs := u.vfs } ∧
      ∀ n, (u.vf v).slots.read n = if off ≤ n ∧ n < off + data.length ∧ n % 256 / 4 ≠ 1 then data.getD (n - off) 0 else (s.vf v).slots.read n) ∧
    (s.admits .mailbox (271 + v) part true = false → exec (.registerWrite (some v) off data) s = .next s)) ∧
  ∀ (off : Nat) (data : List Byte) (s : State), s.mgmt.boot ≠ .off → s.mgmt.boot ≠ .poweredDown → s.admits .regs 270 0 true = true → 0x1000000 ≤ off →
    off + data.length ≤ 0x2000000 → ∃ u, exec (.registerWrite none off data) s = .next u ∧ u = { s with mgmt := { s.mgmt with fwwin := u.mgmt.fwwin } } ∧
      ∀ n, u.mgmt.fwwin.read n = if off ≤ n + 0x1000000 ∧ n + 0x1000000 < off + data.length then data.getD (n + 0x1000000 - off) 0 else s.mgmt.fwwin.read n

/-- R402, R403, R406, R16, R178: live service. A checked image waits for its handoff, or times out; a scrub that finds a
mismatch reloads the slot; recalibrations change nothing; a quadrant or a channel group without teams leaves service; a step
down costs 100 MHz, one quadrant a step (log 48), a quadrant of a tenant in debt before the others, then the highest-numbered; a trip takes the power; a port changes its use once what waits for the use it has has left (log 54). When a
swap is handed over, and that recalibrations and retries change nothing here, is log 45's reading; what a trip's capture holds is log 48's;
the access tables' entries are log 49's. -/
def Sys2Proof.Spec.PartsAreServiced : Prop :=
  (∀ (image : List Byte) (version : Nat) (sig : List Byte) (s : State), s.mgmt.boot = .service → s.mgmt.handoff = false →
    let good : Prop := Config.mlDsaVerify Config.dexsonKey image sig = true ∧ Config.minVersion ≤ version
    (good → exec (.firmwareSwap image version sig) s =
      .next { s with mgmt := { s.mgmt with swap := some (image, version, sig), handoff := true } }) ∧
    (¬ good → exec (.firmwareSwap image version sig) s = .next s)) ∧
  (∀ s : State, s.mgmt.handoff = true → exec .swapTimeout s = .next { s with mgmt := { s.mgmt with swap := none, handoff := false } }) ∧
  (∀ (quad slot : Nat) (s : State), exec (.slotScrub quad slot false) s = .next s ∧
    (∀ im, tabGet (s.quad quad).phys slot = some im → ((s.quad quad).bind.find? fun b => b.1 % 16 == slot && b.2.gen == im.gen) = none →
      ∃ u, exec (.slotScrub quad slot true) s = .next u ∧ u = s.setQuad quad { s.quad quad with rt := (u.quad quad).rt, scrubs := (s.quad quad).scrubs + 1 }) ∧
    ∀ im b, tabGet (s.quad quad).phys slot = some im → ((s.quad quad).bind.find? fun b => b.1 % 16 == slot && b.2.gen == im.gen) = some b →
      b.1 ∉ (s.quad quad).reloading → exec (.slotScrub quad slot true) s =
        .next (s.setQuad quad { s.quad quad with reloading := (s.quad quad).reloading ++ [b.1], scrubs := (s.quad quad).scrubs + 1 })) ∧
  (∀ (n a b g : Nat) (s : State), (n < 512 → exec (.hbmRecalibration n) s = .next s) ∧
    (linked a b = true → exec (.linkRecalibration a b g) s = .next s ∧ exec (.retryRound a b) s = .next s)) ∧
  (∀ (q part : Nat) (s : State) (p : Part), q < 256 → (s.quad q).retired = false → (s.quad q).part = some part → s.part? part = some p →
    NoTeams s part → (∀ g ∈ s.grids, g.2.reload = []) →
    ∃ u, exec (.quadrantRetirement q) s = .next u ∧ (u.quad q).retired = true ∧ (u.quad q).part = none ∧ (u.quad q).bind = (s.quad q).bind ∧
      u.part? part = some { p with quads := p.quads.filter (· != q) } ∧ (∀ t : Target, mapGet 0 u.access (t.key q) = 0) ∧ SameMemory s u) ∧
  (∀ (cg h : Nat) (s : State), cg < 128 → (s.cg cg).retired = false → s.heirCg cg = some h → (s.cg cg).home ≠ cg + 1 →
    ∃ u, exec (.cgRetirement cg) s = .next u ∧ u = { s with cgs := u.cgs, parts := u.parts } ∧ (u.cg cg).retired = true ∧ (u.cg cg).chunks = [] ∧
      ∀ n p, s.part? n = some p →
        let moved := (s.cg cg).chunks.filter fun k => (s.space? (k.1 / 2 ^ 45)).any fun x => x.owner == n
        ∃ r, u.part? n = some r ∧ r = { p with quota := r.quota } ∧ mapGet 0 r.quota h = mapGet 0 p.quota h - moved.length ∧
          ∀ c, c ≠ h → mapGet 0 r.quota c = mapGet 0 p.quota c) ∧
  (∀ (q : Nat) (s : State), q < 256 → (s.quad q).retired = false → 600 < (s.quad q).mhz → 
    (∀ o, o < 256 → o ≠ q → (s.quad o).mhz ≤ 600 ∨ (s.quad o).retired = true ∨ (s.indebted q = true ∧ s.indebted o = false) ∨
      (s.indebted o = s.indebted q ∧ o < q)) →
    exec (.powerLimit q) s = .next (s.setQuad q { s.quad q with mhz := (s.quad q).mhz - 100 })) ∧
  (∀ s : State, s.mgmt.boot ≠ .poweredDown → ∃ u, exec .thermalTrip s = .next u ∧ u.agents = [] ∧ u.teams = [] ∧ u.quads = [] ∧ u.dmem = [] ∧
    u.cmem = [] ∧ u.lmem = [] ∧ u.mgmt.boot = .poweredDown ∧ u.mgmt.reason = 8) ∧
  ∀ (port : Nat) (s : State), s.mgmt.boot = .service → port < 12 → (∀ x ∈ s.hub.outbox, isPost x.packet = mapGet false s.hub.ports port) →
    ∃ u, exec (.portReassign port) s = .next u ∧ u = { s with hub := { s.hub with ports := u.hub.ports } } ∧
      mapGet false u.hub.ports port = !mapGet false s.hub.ports port ∧ ∀ n, n ≠ port → mapGet false u.hub.ports n = mapGet false s.hub.ports n
/-! The instruction set and the step. -/

namespace Sys2Proof.Spec
open Sys2Proof.Machine

/-- CHGRANT's three operations are one word, told apart by the value of its register (R341): the word decodes to the
first of the three constructors. -/
def coreOf : Instr → Instr
  | .chgrantRevoke p desc op img dsts => .chgrantWrite p desc op img dsts
  | .chgrantBind p desc op img dsts => .chgrantWrite p desc op img dsts
  | i => i
/-- The word an instruction is read from: a header, a trailer or a body word. -/
def reads (w : Dword) : Dec Instr :=
  if w.extractLsb' 57 7 = 0x7F#7 then decodeRun w else if w.extractLsb' 57 7 = 0x7E#7 then decodeTrail w else decodeWord false w
/-- A state whose agenda has lost its first move, agent k about to issue. -/
def about (s : State) (rest : List Move) (k : Nat) : State := { s with agenda := rest, cur := k }
/-- Agent k stands at word w of its run, n words of the run after it. -/
abbrev standsAt (s : State) (k : Nat) (a : Agent) (r : RunBuf) (w : Dword) (n : Nat) : Prop :=
  s.agent? k = some a ∧ a.run = some r ∧ ∃ more, r.words.drop r.idx = w :: more ∧ more.length = n
/-- The header of a run stands, readable, at the slot's PC in s; reading it leads to u (R39, R40). Or the agent holds the run since
it fetched it, and memory holds the same words (R45; the runs an agent holds are the model's own, log 15). -/
def headerAt (s : State) (k : Nat) (a : Agent) (i : Instr) (u : State) : Prop :=
  let q := s.quad (quadOf k)
  a.slot.pc.toNat % 8 = 0 ∧ s.sideHeld a.ctx a.slot.pc.toNat 8 = false ∧
  ((q.heldRun a.uid a.slot.pc.toNat = none ∧ ∃ bs, s.readGlobal (quadOf k) a.ctx a.slot.pc.toNat 8 .fetch none = .ok (bs, u) ∧
      (wordOfBytes bs).extractLsb' 57 7 = 0x7F#7 ∧ decodeRun (wordOfBytes bs) = .ok i) ∨
    (u = s ∧ ∃ w ws x, q.heldRun a.uid a.slot.pc.toNat = some (w :: ws) ∧ w.extractLsb' 57 7 = 0x7F#7 ∧ decodeRun w = .ok i ∧
      (∀ f ∈ q.heldRuns a.uid a.slot.pc.toNat, f.words = w :: ws) ∧ s.memoryRun k a.ctx a.slot.pc.toNat = .ok (w :: ws, x)))
/-- What a word at agent k's place does in s (R37, R39, R52): it executes as it decodes; in the lenient modes a word that only
its unused fields or modifiers make illegal executes as it is read past them, its run marked. -/
def issues (s : State) (k : Nat) (rest : List Move) : Prop :=
  ∀ (a : Agent) (r : RunBuf) (w : Dword) (i : Instr),
    (∀ n, standsAt s k a r w (n + 1) → decodeWord false w = .ok i → step s = exec i (about s rest k)) ∧
    (∀ n c, standsAt s k a r w (n + 1) → decodeWord false w = .error c → s.lenient k = true → decodeWord true w = .ok i →
      step s = exec i ((about s rest k).setAgent k { a with run := some { r with fallback := a.acts w } })) ∧
    (standsAt s k a r w 0 → decodeTrail w = .ok i → step s = exec i (about s rest k))

end Sys2Proof.Spec

open Sys2Proof Sys2Proof.Machine Sys2Proof.Spec

/-- R37, R85: a scheduler's move issues the word at which its running gang stands. -/
def Sys2Proof.Spec.GangWordsIssue : Prop :=
  ∀ (s : State) (q sch k : Nat) (rest : List Move), s.agenda = .sched q sch :: rest →
    (∀ x ∈ s.gangsAt q sch, x.2.stopsHere = false) →
    currentGang (((s.quad q).last.drop sch).headD 0) (s.gangsAt q sch) = some k → issues s k rest

/-- R87: a sequencer's move issues the word at which it stands. -/
def Sys2Proof.Spec.SequencerWordsIssue : Prop :=
  ∀ (s : State) (q : Nat) (d : Bool) (a : Agent) (rest : List Move), s.agenda = .seq q d :: rest →
    let k := if d then dseqOf q else mseqOf q
    s.agent? k = some a → a.stopsHere = false → a.stopped = false → a.ended = false → a.restoring = false → s.frozenCtx a.ctx = false →
    a.run.isSome = true → issues s k rest

/-- R39, R85, R86: with no gang in a run, a scheduler's move takes the best ready run and executes its header; a sequencer
between runs executes the header at its PC. Slots whose next run is not fetched and decoded yet have no ready run; which those are comes
with the move, the model's choice (log 68). -/
def Sys2Proof.Spec.HeadersIssue : Prop :=
  (∀ (s u : State) (q sch : Nat) (rest : List Move) (late : List (Nat × Bool)) (c : Cand) (a : Agent) (i : Instr),
    (s.agenda = .sched q sch :: rest ∧ late = []) ∨ s.agenda = .late q sch late :: rest →
    (∀ x ∈ s.gangsAt q sch, x.2.stopsHere = false ∧ x.2.run = none) →
    let gs := s.gangsAt q sch
    let s0 := { s with agenda := rest }
    bestCand (((s.quad q).ptr.drop sch).headD 0) (s0.readyRuns late gs) = some c →
    let s1 := s0.selected q sch gs (s0.readyRuns late gs) c
    s1.agent? c.key = some a → s1.boundaryTrap c.key (a.dropGone c.key) = none →
    headerAt { s1.setAgent c.key (a.dropGone c.key) with cur := c.key } c.key (a.dropGone c.key) i u →
    (a.dropGone c.key).run = none → step s = exec i u) ∧
  ∀ (s u : State) (q : Nat) (d : Bool) (rest : List Move) (a : Agent) (i : Instr), s.agenda = .seq q d :: rest →
    let k := if d then dseqOf q else mseqOf q
    s.agent? k = some a → a.stopsHere = false → a.stopped = false → a.ended = false → a.restoring = false → s.frozenCtx a.ctx = false →
    a.run = none → a.block ≠ .slot → ({ s with agenda := rest } : State).boundaryTrap k (a.dropGone k) = none →
    headerAt { ({ s with agenda := rest } : State).setAgent k (a.dropGone k) with cur := k } k (a.dropGone k) i u → step s = exec i u

/-- R86, R398: a step of the part that is no word executes as it is laid down, and one that is a word is never laid down so. That the
moves of the part come from an agenda (log 8), and that a word laid down with no agent is the fault notEnabled (log 10), is the model's
choice. -/
def Sys2Proof.Spec.EventsExecute : Prop :=
  ∀ (s : State) (i : Instr) (rest : List Move), s.agenda = .event i :: rest →
    step s = if (encode i).isSome then .fault .notEnabled else exec i { s with agenda := rest }

/-- R29 to R36: every well-formed instruction that is a word is read back from its word, every field of it. -/
def Sys2Proof.Spec.DecodeReadsTheEncoding : Prop :=
  ∀ (i : Instr) (w : Dword), wellFormed i = true → encode i = some w → reads w = .ok (coreOf i)

/-- R30, R31: every word that is read is the encoding of what is read from it, a well-formed instruction: no bit of an
accepted word is ignored. -/
def Sys2Proof.Spec.EncodingGivesTheWord : Prop :=
  ∀ (i : Instr) (w : Dword), reads w = .ok i → wellFormed i = true ∧ encode i = some w

/-- R20, R351, R405: every memory, the mailbox slots and the firmware window among them, keeps its canonical form through every step; the
form is the model's own (log entry 3). -/
def Sys2Proof.Spec.MemoriesStayCanonical : Prop :=
  ∀ s t : State, MemoriesWf s → WindowsWf s → step s = .next t → MemoriesWf t ∧ WindowsWf t

/-- R73: no word executed in user mode changes a register of the supervisor bank of its agent, unless it takes the
agent into supervisor mode. -/
def Sys2Proof.Spec.UserModeKeepsTheBank : Prop :=
  ∀ (i : Instr) (s t : State) (a b : Agent) (n : Nat), (encode i).isSome = true → s.agent? s.cur = some a → a.sv = false →
    exec i s = .next t → t.agent? s.cur = some b → b.sv = false → 496 ≤ n → b.s n = a.s n

/-- R92: SADDC's two values, and the bit of the word that tells them apart. -/
def Sys2Proof.Spec.SaddcProducesTheCarry : Prop :=
  (∀ (w : Dword) (p : Pred) (borrow : Bool) (d x : SReg) (y : UOp), decodeWord false w = .ok (.saddc p borrow d x y) → borrow = w.getLsbD 15) ∧
  ∀ (p : Pred) (borrow : Bool) (d x : SReg) (y : UOp) (s : State) (a : Agent), UniReady .all false [d.toNat] p (x.toNat :: readsB y) s a →
    exec (.saddc p borrow d x y) s = .next (s.setAgent s.cur ((a.discard [sCode d.toNat]).setS d.toNat
      (if borrow then (if (a.s x.toNat).toNat < (operandB a y).toNat then 1 else 0)
       else if 2 ^ 32 ≤ (a.s x.toNat).toNat + (operandB a y).toNat then 1 else 0)).retire)

/-- R90: SDIV and SMOD never trap: the corners of the table have their values. -/
def Sys2Proof.Spec.DivisionCorners : Prop :=
  ∀ (p : Pred) (z : Bool) (d x : SReg) (y : UOp) (s : State) (a : Agent), UniReady .all false [d.toNat] p (x.toNat :: readsB y) s a →
    let result (v : Word) : Res := .next (s.setAgent s.cur ((a.discard [sCode d.toNat]).setS d.toNat v).retire)
    (operandB a y = 0 → exec (.sdiv p z d x y) s = result 0xFFFFFFFF ∧ exec (.smod p z d x y) s = result (a.s x.toNat)) ∧
    (z = false → a.s x.toNat = 0x80000000 → operandB a y = 0xFFFFFFFF →
      exec (.sdiv p z d x y) s = result 0x80000000 ∧ exec (.smod p z d x y) s = result 0)

/-- R93: SLEA adds its shifted operand to a pair; its shift is in the word, and an odd pair is illegal with reason 0x12. -/
def Sys2Proof.Spec.SleaComputesAnAddress : Prop :=
  (∀ (w : Dword) (p : Pred) (sh : BitVec 3) (d x : SReg) (y : UOp), decodeWord false w = .ok (.slea p sh d x y) →
    sh = w.extractLsb' 15 3 ∧ d.toNat % 2 = 0 ∧ x.toNat % 2 = 0) ∧
  (∀ (w : Dword) (p : Pred) (sh : BitVec 3) (d x : SReg) (y : UOp), d.toNat % 2 = 1 ∨ x.toNat % 2 = 1 →
    encode (.slea p sh d x y) = some w → decodeWord false w = .error 0x12) ∧
  ∀ (p : Pred) (sh : BitVec 3) (d x : SReg) (y : UOp) (s : State) (a : Agent),
    UniReady .all false [d.toNat, d.toNat + 1] p (x.toNat :: (x.toNat + 1) :: readsB y) s a →
    let sum := (Int.ofNat ((a.s (x.toNat + 1)).toNat * 2 ^ 32 + (a.s x.toNat).toNat) + (operandB a y).toInt * 2 ^ sh.toNat) % 2 ^ 64
    exec (.slea p sh d x y) s = .next (s.setAgent s.cur (((a.discard [sCode d.toNat, sCode (d.toNat + 1)]).setS d.toNat
      (BitVec.ofInt 32 (sum % 2 ^ 32))).setS (d.toNat + 1) (BitVec.ofInt 32 (sum / 2 ^ 32))).retire)

/-- R100: LOOP counts and branches; its counter is not s0, nor in user mode of the supervisor bank. -/
def Sys2Proof.Spec.LoopCounts : Prop :=
  (∀ (w : Dword) (p : Pred) (tgt : BitVec 24), encode (.loop p tgt 0) = some w → decodeWord false w = .error 0x12) ∧
  (∀ (p : Pred) (tgt : BitVec 24) (c : SReg) (s : State) (a : Agent), 496 ≤ c.toNat →
    (MayTrap s a → ∃ b, exec (.loop p tgt c) s = .next (s.setAgent s.cur b) ∧ Entered s a b 0x01 0x16 a.wordAddr a.header a.slot.mask 0) ∧
    (SeqMayTrap s a → ∃ b, exec (.loop p tgt c) s = .next (s.setAgent s.cur b) ∧ EnteredSeq s a b 0x01 0x16 a.header 0)) ∧
  ∀ (p : Pred) (tgt : BitVec 24) (c : SReg) (s : State) (a : Agent) (r : RunBuf), c ≠ 0 → a.run = some r → UniReady .all false [c.toNat] p [c.toNat] s a →
    let n : Word := BitVec.ofInt 32 (Int.ofNat (a.s c.toNat).toNat - 1)
    let b := (a.discard [sCode c.toNat]).setS c.toNat n
    exec (.loop p tgt c) s = .next (s.setAgent s.cur
      (if n = 0 then b else { b with run := some { r with flow := .goto (branchTarget a tgt) } }).retire)

/-- R180: SFENCE waits while a slot of its context is loading or reloading on the quadrant, or a status of its agent is
awaited, and completes when none is. -/
def Sys2Proof.Spec.SfenceWaitsForSlots : Prop :=
  ∀ (p : Pred) (s : State) (a : Agent), UniReady .gangMseq false [] p [] s a →
    let q := s.quad (quadOf s.cur)
    ((∃ j ∈ q.jobs, j.ctx = a.ctx ∨ j.agent = a.uid) ∨ q.reloading ≠ [] → exec (.sfence p) s = .next (s.setAgent s.cur (waits a))) ∧
    ((∀ j ∈ q.jobs, j.ctx ≠ a.ctx ∧ j.agent ≠ a.uid) → q.reloading = [] → exec (.sfence p) s = .next (s.setAgent s.cur a.retire))

/-- R381: TRAP n raises cause 0x0A after its run; under a false predicate it does nothing and the run goes on. -/
def Sys2Proof.Spec.TrapsOnlyWhenItsPredicateHolds : Prop :=
  Spec.TrapWordsEnterTheHandler ∧
  ∀ (p : Pred) (code : BitVec 8) (s : State) (a : Agent), UniClear .all false [] [] s a → a.holds p = false →
    exec (.trap p code) s = .next (s.setAgent s.cur a.retire)

/-- What the package holds at its reset: a boot not begun, no partition, no agent, every quadrant counting from zero
with empty planes, clear banks and its pointers at 0, every memory canonical and reading zero (R75, R86, R205, R213,
R398; the zero memories are the model's choice, log entries 2 and 3). -/
def Sys2Proof.Spec.ResetLeaves : Prop :=
  let s := State.reset
  s.mgmt.boot = .off ∧ s.mgmt.mode = .test ∧ s.parts = [] ∧ s.ctxs = [] ∧ s.teams = [] ∧ s.agents = [] ∧
  (∀ q, (s.quad q).cycle = 0 ∧ (s.quad q).ptr = [0, 0, 0, 0] ∧ (s.quad q).plane0.loaded = false ∧ (s.quad q).plane1.loaded = false ∧
    (s.quad q).banks = [] ∧ (s.quad q).dirtyW = 0 ∧ (s.quad q).dirtyV = 0 ∧ (s.quad q).retW = 0 ∧ (s.quad q).retV = 0 ∧
    (s.quad q).tagW ≠ (s.quad q).tagV ∧ (s.quad q).accown = none ∧ (s.quad q).fused = 0 ∧ (s.quad q).reserve = 64) ∧
  MemoriesWf s ∧ WindowsWf s ∧ (∀ n, s.dmem.read n = 0 ∧ s.hmem.read n = 0 ∧ s.sysm.read n = 0 ∧ s.cmem.read n = 0 ∧ s.lmem.read n = 0 ∧ s.savm.read n = 0)

/-- R29 to R38, R46 to R48: words of the manual's examples, each with what it stands for. -/
def Sys2Proof.Spec.ManualWordsDecode : Prop :=
  reads 0x70204024140B5030 = .ok (.ffma ⟨false, 1⟩ false 5 0 false (.v 8) (.v 9) (.v 10) (.v 11)) ∧
  reads 0x40E0602306000000 = .ok (.vadd always false (.v 12) (.v 8) (.b 3)) ∧
  reads 0x00E018A000860064 = .ok (.scmp always 4 3 40 (.imm 100)) ∧
  reads 0x204200000600000A = .ok (.brv ⟨false, 2⟩ 6 10) ∧
  reads 0x20E5FFFFFC000014 = .ok (.loop always 16777212 20) ∧
  reads 0x30E0100000008006 = .ok (.growT always 2 6) ∧
  reads 0x32E0661400000003 = .ok (.vrdi always false (.v 12) 5 3) ∧
  reads 0x90E0050000287800 = .ok (.sload always 5 40 30) ∧
  reads 0x98E0C301A0980000 = .ok (.mstream always 3 true false 24 26 none) ∧
  reads 0x98E1440220280000 = .ok (.mdrain always 5 0 false false 32 34 none) ∧
  reads 0x9AE1463000000000 = .ok (.mreadv always false (.v 40) 12) ∧
  reads 0xB0E0602C28003804 = .ok (.st always false (.v 12) (.v 11) 20 0 7 none false) ∧
  reads 0xB0E0F0542800F818 = .ok (.sld always false 30 21 20 0 31 none false) ∧
  reads 0xCAE0502C2800F801 = .ok (.atom always false 0 .a32 10 (.v 11) 20 0 ⟨false, false, 0⟩ true) ∧
  reads 0xD0E0410000002420 = .ok (.boarr always 8 0 0 9 1) ∧
  reads 0xD8E0050000002430 = .ok (.xcopy always 40 0 ⟨false, false, 1⟩ (.arrive 9)) ∧
  reads 0xD8E1828160B80080 = .ok (.xpurge always 20 22 23 4) ∧
  reads 0xE4E0028160B87980 = .ok (.chsend always 20 22 23 30 (some 4)) ∧
  reads 0xE6E00502900033B0 = .ok (.collr always 40 41 12 ⟨true, true, 5⟩ true) ∧
  reads 0xF0E002A160006000 = .ok (.launch always 21 22 24) ∧
  reads 0xF0E10160D0703000 = .ok (.mbsend always 11 13 14 12) ∧
  reads 0xF2E0FEC00007D000 = .ok (.ctxsave always 502 500) ∧
  reads 0x40E0A0542C000055 = .ok (.vadds always false true .w8 (.v 20) (.v 21) (.v 22)) ∧
  reads 0x54E01800200003E8 = .ok (.vmovImm always false (.v 3) 1000) ∧
  reads 0x76E0A0542C173000 = .ok (.fdot always false 3 (.v 20) (.v 21) (.v 22) (.v 23)) ∧
  reads 0x72E0603400003000 = .ok (.fcvt always false 3 0 0 false (.v 12) (.v 13)) ∧
  reads 0xC8E0000000000340 = .ok (.fence always true true 2) ∧
  reads 0xFE20800000000000 = .ok (.run 2 2 false) ∧
  reads 0xFC400000000000A2 = .ok (.trail 1 162 0 0 0)

/-! The statements. -/

/-- Words of the manual's examples decode to what they stand for. -/
def Obligations.ManualWordsDecode : Prop :=
  Spec.ManualWordsDecode

/-- A step executes the word at which the moving agent stands. What of it is the model's choice stands in log entries 8, 10, 68. -/
def Obligations.StepRunsTheDecodedWord : Prop :=
  Spec.GangWordsIssue ∧ Spec.SequencerWordsIssue ∧ Spec.HeadersIssue ∧ Spec.EventsExecute

/-- The package after its reset. What of it is the model's choice stands in log entries 2, 3. -/
def Obligations.ResetLeaves : Prop :=
  Spec.ResetLeaves

/-- Every well-formed word is read back from its encoding, every field of it. -/
def Obligations.DecodeReadsTheEncoding : Prop :=
  Spec.DecodeReadsTheEncoding

/-- Every accepted word is the encoding of the well-formed instruction read from it. -/
def Obligations.EncodingGivesTheWord : Prop :=
  Spec.EncodingGivesTheWord

/-- Every step keeps every memory in its canonical form. What of it is the model's choice stands in log entry 3. -/
def Obligations.MemoriesStayCanonical : Prop :=
  Spec.MemoriesStayCanonical

/-- No word of user mode changes a register of the supervisor bank. -/
def Obligations.UserModeKeepsTheBank : Prop :=
  Spec.UserModeKeepsTheBank

/-- SADDC gives the carry, or the borrow, as its word's bit 15 says. Says that exec answers a next state of its own effect, under conditions on the state and the operands alone, for: saddc. -/
def Obligations.SaddcProducesTheCarry : Prop :=
  Spec.SaddcProducesTheCarry

/-- SDIV and SMOD never trap: their corner values. Says that exec answers a next state of its own effect, under conditions on the state and the operands alone, for: sdiv, smod. -/
def Obligations.DivisionCorners : Prop :=
  Spec.DivisionCorners

/-- SLEA computes a 64-bit address in an even pair. Says that exec answers a next state of its own effect, under conditions on the state and the operands alone, for: slea. -/
def Obligations.SleaComputesAnAddress : Prop :=
  Spec.SleaComputesAnAddress

/-- LOOP counts down and branches until zero. Says that exec answers a next state of its own effect, under conditions on the state and the operands alone, for: loop. -/
def Obligations.LoopCounts : Prop :=
  Spec.LoopCounts

/-- SFENCE waits for the loading slots and the awaited statuses. Says that exec answers a next state of its own effect, under conditions on the state and the operands alone, for: sfence. -/
def Obligations.SfenceWaitsForSlots : Prop :=
  Spec.SfenceWaitsForSlots

/-- TRAP n raises cause 0x0A after its run, where its predicate holds. Says that exec answers a next state of its own effect, under conditions on the state and the operands alone, for: trap. -/
def Obligations.TrapsWhenItsPredicateHolds : Prop :=
  Spec.TrapsOnlyWhenItsPredicateHolds

/-- Each uniform word writes its result and nothing else; s0 stays zero. What of it is the model's choice stands in log entry 33. Says that exec answers a next state of its own effect, under conditions on the state and the operands alone, for: sadd, ssub, smul, smulh, sdiv, smod, sand, sor, sxor, sandn, sshl, sshr, ssra, srot, smin, smax, scmp, ssel, smov, saddc, slea, sclz, spopc, sbfe, sbfi, sli, slih, qop. -/
def Obligations.UniformWordsWriteTheirResult : Prop :=
  Spec.UniformWordsWriteTheirValue ∧ Spec.UniformPredicatesWriteTheirValue ∧ Spec.UniformPairsWriteTheirValue ∧ Spec.RegisterZeroIsHardwired

/-- SRD reads and SWR writes each system register of the mode. What of it is the model's choice stands in log entries 4, 68. Says that exec answers a next state of its own effect, under conditions on the state and the operands alone, for: srd, swr. -/
def Obligations.SystemRegistersReadAndWrite : Prop :=
  Spec.SystemRegistersRead ∧ Spec.CounterReadsAdvance ∧ Spec.SystemRegistersWrite

/-- A word whose predicate holds nowhere changes nothing and retires. -/
def Obligations.InactiveWordsOnlyRetire : Prop :=
  Spec.FalsePredicateOnlyRetires ∧ Spec.NoActiveLaneOnlyRetires

/-- A register a word may not name traps, ILLEGAL or REGBLOCK. What of it is the model's choice stands in log entry 66. -/
def Obligations.ForbiddenRegistersTrap : Prop :=
  Spec.SupervisorBankWriteTraps ∧ Spec.RegisterOutsideBlocksTraps ∧ Spec.IndirectAccessOutsideTraps

/-- Branches set where the slot continues; BRV splits the lanes. Says that exec answers a next state of its own effect, under conditions on the state and the operands alone, for: bra, brq, brv, call, ret, loop. -/
def Obligations.BranchesMoveTheSlot : Prop :=
  Spec.BranchesMoveTheSlot ∧ Spec.BrvSplitsTheLanes

/-- NOP, YIELD, EXIT and END. Says that exec answers a next state of its own effect, under conditions on the state and the operands alone, for: exit, endGang, yield, nop. -/
def Obligations.SlotsAndAgentsEnd : Prop :=
  Spec.NopYieldAndExitOfASlot ∧ Spec.EndLeavesTheTeam

/-- Each vector word gives every active lane its value and leaves the rest. What of it is the model's choice stands in log entry 33. Says that exec answers a next state of its own effect, under conditions on the state and the operands alone, for: vadd, vsub, vmul, vmulh, vmad, vadds, vsubs, vabs, vneg, vmin, vmax, vdot4, vsad, vand, vor, vxor, vandn, vnot, vshl, vshr, vsra, vrot, vclz, vpopc, vbfe, vbfi, vbrev, vsel, vmov, vbcast, vlane, vext, vpack, plop, vperm, vpush, vswz, vmatch, vscan, vaddImm, vsubImm, vmulImm, vaddsImm, vsubsImm, vminImm, vmaxImm, vandImm, vorImm, vxorImm, vandnImm, vshlImm, vshrImm, vsraImm, vrotImm, vmovImm. -/
def Obligations.VectorWordsGiveTheirValues : Prop :=
  Spec.VectorArithmetic ∧ Spec.VectorMoves

/-- Vector words that write a predicate, or one value from all lanes. What of it is the model's choice stands in log entry 33. Says that exec answers a next state of its own effect, under conditions on the state and the operands alone, for: vcmp, plop, pcnt, pfirst, vred, vvote, vballot, vcmpImm. -/
def Obligations.VectorPredicatesAndReductions : Prop :=
  Spec.VectorPredicates ∧ Spec.VectorReductions

/-- GROW grants register blocks within the capacity; SHRINK gives them back. What of it is the model's choice stands in log entries 56, 66. Says that exec answers a next state of its own effect, under conditions on the state and the operands alone, for: growB, growT, shrink. -/
def Obligations.BlocksGrowAndShrink : Prop :=
  Spec.GrowBlockedIsGrantedOrWaits ∧ Spec.GrowTestNeverWaits ∧ Spec.ShrinkReleasesBlocks

/-- FLASH records the rewind point; VRDI and VWRI reach the indexed register. What of it is the model's choice stands in log entries 66, 80. Says that exec answers a next state of its own effect, under conditions on the state and the operands alone, for: flash, vrdi, vwri. -/
def Obligations.FlashAndIndirectAccess : Prop :=
  Spec.FlashRecordsTheRewindPoint ∧ Spec.IndirectAccess

/-- Each slot word gives every active lane its code and joins its flags. What of it is the model's choice stands in log entries 7, 33, 83. Says that exec answers a next state of its own effect, under conditions on the state and the operands alone, for: fadd, fsub, fmul, ffma, fmin, fmax, fcmp, fclass, frnd, fscale, fcvt, fcvti, icvtf, frcp, frsq, fsqrt, fexp2, flog2, fsin, fcos, ftanh, fdot, fmxq, fmxe. -/
def Obligations.SlotWordsGiveTheirCodes : Prop :=
  Spec.SlotArithmetic ∧ Spec.SlotCompare

/-- A slot word traps FORMAT at the first slot that does not suit it. -/
def Obligations.SlotFormatTraps : Prop :=
  Spec.SlotFormatTraps

/-- Sums and products are exact, and encoding rounds them correctly. -/
def Obligations.RoundingIsCorrect : Prop :=
  Spec.EncodeRoundsCorrectly ∧ Spec.TheCoreIsExact

/-- Loads, stores and atomics enter flight with their addresses; memory waits. What of it is the model's choice stands in log entries 29, 32. Says that exec answers a next state of its own effect, under conditions on the state and the operands alone, for: ld, st, ldc, stc, sld, sst, atom, atomn, acas. -/
def Obligations.AccessesEnterFlight : Prop :=
  Spec.LoadsIssue ∧ Spec.WritesIssue

/-- An access that faults, in its word or in a lane, changes no memory. What of it is the model's choice stands in log entries 22, 30. -/
def Obligations.AccessFaultsHaveNoEffect : Prop :=
  Spec.AccessFaultsArePrecise ∧ Spec.LaneFaultsAreRecorded

/-- A performed lane reads its element and leaves what its access leaves there. What of it is the model's choice stands in log entries 28, 41. Says that exec answers a next state of its own effect, under conditions on the state and the operands alone, for: cgAccess, hubAccess. -/
def Obligations.LanesPerformTheirElements : Prop :=
  Spec.ClusterLanePerforms ∧ Spec.ClusterBytePerforms ∧ Spec.DeviceLanePerforms ∧ Spec.UnallocatedChunkReadsZero ∧ Spec.HostLanePerforms ∧ Spec.PeerLanePerforms ∧ Spec.LeafLanePerforms ∧ Spec.CrossingLanePerforms

/-- Loads return, stores are acknowledged, and what faulted is kept to be reported. What of it is the model's choice stands in log entry 22. Says that exec answers a next state of its own effect, under conditions on the state and the operands alone, for: loadValueReturn, parkedLoadTrap, storeAck. -/
def Obligations.AccessesComplete : Prop :=
  Spec.LoadsReturn ∧ Spec.StoresAreAcknowledged ∧ Spec.ParkedLoadsTrap

/-- LDL and STL reach each lane's own slice, or fault. Says that exec answers a next state of its own effect, under conditions on the state and the operands alone, for: ldl, stl. -/
def Obligations.LaneStoreWords : Prop :=
  Spec.LaneStoreAccess ∧ Spec.LaneStoreFaults

/-- PREF and EVICT change no data; leases and throttles end. Says that exec answers a next state of its own effect, under conditions on the state and the operands alone, for: pref, evict, throttleWindowEnd, leaseExpiry. -/
def Obligations.HintsAndTimers : Prop :=
  Spec.HintsChangeNoData ∧ Spec.LeasesAndThrottlesEnd

/-- FENCE and WSTC wait for stores and report those that faulted. What of it is the model's choice stands in log entries 70, 71. Says that exec answers a next state of its own effect, under conditions on the state and the operands alone, for: fence, wstc. -/
def Obligations.FencesWaitAndReport : Prop :=
  Spec.FencesComplete ∧ Spec.HeldStoreFaultsAreReported

/-- TBAR and RDV hold their agents until all have arrived. What of it is the model's choice stands in log entry 23. Says that exec answers a next state of its own effect, under conditions on the state and the operands alone, for: tbar, rdv. -/
def Obligations.TeamsMeet : Prop :=
  Spec.TeamBarrier ∧ Spec.Rendezvous

/-- The barrier words on barrier objects. Says that exec answers a next state of its own effect, under conditions on the state and the operands alone, for: boinit, boarr, bowait, botest, bowaitWake. -/
def Obligations.BarrierObjects : Prop :=
  Spec.ClusterAddressesNameTeams ∧ Spec.BarrierInitialises ∧ Spec.BarrierArrivals ∧ Spec.BarrierWaits ∧ Spec.BarrierFaults

/-- An engine word enters its command in the open batch. What of it is the model's choice stands in log entries 21, 24, 32. Says that exec answers a next state of its own effect, under conditions on the state and the operands alone, for: xcopy, xfill, xclone, xpurge, xlease. -/
def Obligations.EngineCommandsIssue : Prop :=
  Spec.EngineCommandsIssue ∧ Spec.LeaseRequestsIssue

/-- XCLOSE closes a batch; XWAIT and XTEST look at its commands. What of it is the model's choice stands in log entry 71. Says that exec answers a next state of its own effect, under conditions on the state and the operands alone, for: xclose, xwait, xtest. -/
def Obligations.BatchesCloseAndAreAwaited : Prop :=
  Spec.BatchesClose ∧ Spec.BatchesAreAwaited

/-- Commands complete in turn, or are held with their fault. What of it is the model's choice stands in log entry 41. Says that exec answers a next state of its own effect, under conditions on the state and the operands alone, for: copyComplete, copyFault. -/
def Obligations.CommandsEnd : Prop :=
  Spec.CommandsComplete ∧ Spec.CommandFaultsAreHeld ∧ Spec.LeaseRequestsComplete

/-- A copy moves its elements and a fill writes its pattern, and nothing else. What of it is the model's choice stands in log entry 72. Says that exec answers a next state of its own effect, under conditions on the state and the operands alone, for: copyComplete. -/
def Obligations.CopiesAndFills : Prop :=
  Spec.CopiesMoveTheirElements ∧ Spec.FillsWriteTheirPattern

/-- SLOAD, SDESC, and how images reach their slots. What of it is the model's choice stands in log entries 36, 65. Says that exec answers a next state of its own effect, under conditions on the state and the operands alone, for: sload, sdesc, sloadComplete, slotReload. -/
def Obligations.SlotImages : Prop :=
  Spec.SlotWords ∧ Spec.FactoryImagesLoad ∧ Spec.SlotsReload

/-- Matrix commands queue, arrive and are awaited. What of it is the model's choice stands in log entries 34, 84. Says that exec answers a next state of its own effect, under conditions on the state and the operands alone, for: mloadw, mloadws, mflip, mstream, mswap, mdrain, mclear, mwait, matrixCmdComplete. -/
def Obligations.MatrixCommandsQueue : Prop :=
  Spec.MatrixCommandsQueue ∧ Spec.MatrixCommandsArrive ∧ Spec.MatrixWaits

/-- MFLIP, MSWAP, MCLEAR and a plane's load. What of it is the model's choice stands in log entry 34. Says that exec answers a next state of its own effect, under conditions on the state and the operands alone, for: matrixCmdComplete. -/
def Obligations.ArrayContents : Prop :=
  Spec.ArrayCommandsComplete ∧ Spec.PlanesLoad ∧ Spec.RecordBytesGoAhead

/-- Streams accumulate products; drains and MREADV read the visible bank. What of it is the model's choice stands in log entry 34. Says that exec answers a next state of its own effect, under conditions on the state and the operands alone, for: mreadv, loadValueReturn, matrixCmdComplete. -/
def Obligations.StreamsAndDrains : Prop :=
  Spec.StreamsAccumulate ∧ Spec.DrainsWriteTheirTiles ∧ Spec.VisibleBankReads

/-- Fusions form and end; accumulators are saved and restored. What of it is the model's choice stands in log entry 35. Says that exec answers a next state of its own effect, under conditions on the state and the operands alone, for: mfuse, msplit, accspill, accfill. -/
def Obligations.FusionsAndSpills : Prop :=
  Spec.FusionsFormAndEnd ∧ Spec.AccumulatorsSaveAndRestore

/-- CHSEND, CHRECV, CHPOLL and CHCAP. What of it is the model's choice stands in log entries 37, 54. Says that exec answers a next state of its own effect, under conditions on the state and the operands alone, for: chsend, chrecv, chpoll, chcap, copyComplete, copyFault. -/
def Obligations.MessagesSentAndReceived : Prop :=
  Spec.MessagesAreSent ∧ Spec.MessagesLeave ∧ Spec.MessagesAreReceived ∧ Spec.ChannelsAreInspected

/-- CHGRANT changes capabilities; CHKEY agrees keys. What of it is the model's choice stands in log entry 38. Says that exec answers a next state of its own effect, under conditions on the state and the operands alone, for: chgrantWrite, chgrantRevoke, chgrantBind, chkey, packetReceive, keyRenewal, chkeyTimeout. -/
def Obligations.CapabilitiesAndKeys : Prop :=
  Spec.CapabilitiesAreGranted ∧ Spec.KeysAreAgreed

/-- Messages are delivered once, in their stream's order. What of it is the model's choice stands in log entries 38, 39, 74. Says that exec answers a next state of its own effect, under conditions on the state and the operands alone, for: packetReceive, messageSkip. -/
def Obligations.MessagesArriveInOrder : Prop :=
  Spec.MessagesArriveInOrder

/-- Collectives issue, are gathered at the root, and complete. What of it is the model's choice stands in log entries 38, 85. Says that exec answers a next state of its own effect, under conditions on the state and the operands alone, for: collr, collg, collb, collq, packetReceive, collDeadline, collNoResultTimeout. -/
def Obligations.Collectives : Prop :=
  Spec.CollectivesIssue ∧ Spec.RootsGather ∧ Spec.CollectivesComplete

/-- LAUNCH queues a grid, waits, or answers why not. What of it is the model's choice stands in log entry 43. Says that exec answers a next state of its own effect, under conditions on the state and the operands alone, for: launch. -/
def Obligations.LaunchesQueueGrids : Prop :=
  Spec.LaunchesQueueGrids

/-- LJOIN waits for a child; FORK starts the sequencers. What of it is the model's choice stands in log entry 75. Says that exec answers a next state of its own effect, under conditions on the state and the operands alone, for: ljoin, fork. -/
def Obligations.JoinAndFork : Prop :=
  Spec.ParentsJoin ∧ Spec.SequencersAreForked

/-- Mailboxes and rings between host and programs. What of it is the model's choice stands in log entries 45, 54. Says that exec answers a next state of its own effect, under conditions on the state and the operands alone, for: mbrecv, mbsend, kick, kickPoll, hostRingCfgWrite, standingBindRequest. -/
def Obligations.Mailboxes : Prop :=
  Spec.MailboxesDeliver ∧ Spec.HostMessagesArePosted ∧ Spec.HostRegistersAct

/-- Words are confined to their agents and modes; a fatal trap stops its team. -/
def Obligations.ForbiddenWordsAndFatalTraps : Prop :=
  Spec.WordsAreConfined ∧ Spec.FatalTrapsStopTheTeam

/-- ERET leaves the handler and REPLAY reissues what faulted. What of it is the model's choice stands in log entry 68. Says that exec answers a next state of its own effect, under conditions on the state and the operands alone, for: eret, replay. -/
def Obligations.HandlersReturnAndReplay : Prop :=
  Spec.HandlersReturn ∧ Spec.FaultsAreReplayed

/-- CTXSAVE writes a team's record and CTXLOAD queues one. What of it is the model's choice stands in log entries 41, 42. Says that exec answers a next state of its own effect, under conditions on the state and the operands alone, for: ctxsave, ctxload. -/
def Obligations.RecordsAreSavedAndLoaded : Prop :=
  Spec.RecordsAreSavedAndLoaded

/-- RUN begins a checked run; TRAIL ends it. What of it is the model's choice stands in log entry 15. Says that exec answers a next state of its own effect, under conditions on the state and the operands alone, for: run, trail. -/
def Obligations.RunsBeginAndEnd : Prop :=
  Spec.RunsBegin ∧ Spec.RunsEnd

/-- Teams are admitted, and teams and grids retire. What of it is the model's choice stands in log entry 47. Says that exec answers a next state of its own effect, under conditions on the state and the operands alone, for: teamAdmit, teamRetire, gridRetire. -/
def Obligations.TeamsAdmittedAndRetired : Prop :=
  Spec.TeamsAreAdmitted ∧ Spec.TeamsAndGridsRetire

/-- A slice's end saves its team; a pass of Matins. What of it is the model's choice stands in log entries 42, 45. Says that exec answers a next state of its own effect, under conditions on the state and the operands alone, for: matinsPass, pdlExpiry, teamRecordWrite. -/
def Obligations.SlicesAndPasses : Prop :=
  Spec.SlicesEnd ∧ Spec.MatinsPasses

/-- Start-up, attestation, partitions and spaces. What of it is the model's choice stands in log entries 45, 46, 47, 49, 78. Says that exec answers a next state of its own effect, under conditions on the state and the operands alone, for: spaceCreate, spaceDestroy, partitionConfigure, trustKeyRemove, bootctlReset, packageReset, startedMark, startTimeout, getVersion, getCapabilities, negotiateAlgorithms, getDigests, getCertificate, challenge, getMeasurements, vendorDefinedRequest, sharedSpaceAttach, partitionCreate, partitionReset. -/
def Obligations.ManagementServices : Prop :=
  Spec.StartsRun ∧ Spec.AttestationAnswers ∧ Spec.PartitionsAreManaged ∧ Spec.SpacesAreManaged

/-- Host register writes and live service. What of it is the model's choice stands in log entries 45, 48, 49, 54. Says that exec answers a next state of its own effect, under conditions on the state and the operands alone, for: registerWrite, firmwareSwap, swapTimeout, slotScrub, hbmRecalibration, linkRecalibration, quadrantRetirement, cgRetirement, powerLimit, thermalTrip, portReassign, retryRound. -/
def Obligations.RegistersAndService : Prop :=
  Spec.RegistersAreWritten ∧ Spec.PartsAreServiced

/-- Contexts are created and destroyed, and tenants stopped. What of it is the model's choice stands in log entry 47. Says that exec answers a next state of its own effect, under conditions on the state and the operands alone, for: contextCreate, tenantReset, functionLevelReset, contextDestroy, hostStopRequest. -/
def Obligations.ContextsAndTenants : Prop :=
  Spec.ContextsAreManaged ∧ Spec.TenantsStop
end

