-- ==== Sys2Proof/Laws/Encoding.lean ====
section
/-! SUPPORT. The fields of an encoded word: what each field accessor of the decoder reads back from each of the
encoder's seven layouts, and the inverses of the small codes. -/

namespace Sys2Proof
open Fields

/-! Slices of a concatenation. -/

theorem extract_append_hi {m n : Nat} (x : BitVec m) (y : BitVec n) (lo k : Nat) (h : n ≤ lo) :
    (x ++ y).extractLsb' lo k = x.extractLsb' (lo - n) k := by
  ext i hi
  simp only [BitVec.getElem_extractLsb', BitVec.getLsbD_append]
  have h1 : ¬ (lo + i < n) := by omega
  have h2 : lo + i - n = lo - n + i := by omega
  simp [h1, h2]
theorem extract_append_lo {m n : Nat} (x : BitVec m) (y : BitVec n) (lo k : Nat) (h : lo + k ≤ n) :
    (x ++ y).extractLsb' lo k = y.extractLsb' lo k := by
  ext i hi
  simp only [BitVec.getElem_extractLsb', BitVec.getLsbD_append]
  have h1 : lo + i < n := by omega
  simp [h1]
theorem getLsbD_append_hi {m n : Nat} (x : BitVec m) (y : BitVec n) (i : Nat) (h : n ≤ i) :
    (x ++ y).getLsbD i = x.getLsbD (i - n) := by
  have h1 : ¬ (i < n) := by omega
  simp [BitVec.getLsbD_append, h1]
theorem getLsbD_append_lo {m n : Nat} (x : BitVec m) (y : BitVec n) (i : Nat) (h : i < n) :
    (x ++ y).getLsbD i = y.getLsbD i := by
  simp [BitVec.getLsbD_append, h]
theorem pred_ext (w : Dword) (p : Pred) (h1 : w.getLsbD 56 = p.neg) (h2 : bits w 53 3 = p.idx) : pred w = p := by
  cases p
  simp_all [pred]

/-! The seven layouts. -/

@[simp] theorem opc_packVA (o : BitVec 7) (p : Pred) (nr : Bool) (d a b c : BitVec 9) (slot : BitVec 4) (rm : BitVec 2) (fn : BitVec 6) (m : BitVec 4) :
    Fields.opc (packVA o p nr d a b c slot rm fn m) = o := by
  change @BitVec.extractLsb' (7+4+1+9+9+9+9+4+2+6+4) 57 7 (o ++ predCode p ++ b1 nr ++ d ++ a ++ b ++ c ++ slot ++ rm ++ fn ++ m) = _
  simp (disch := omega) only [extract_append_hi]
  simp
@[simp] theorem dst_packVA (o : BitVec 7) (p : Pred) (nr : Bool) (d a b c : BitVec 9) (slot : BitVec 4) (rm : BitVec 2) (fn : BitVec 6) (m : BitVec 4) :
    Fields.dst (packVA o p nr d a b c slot rm fn m) = d := by
  change @BitVec.extractLsb' (7+4+1+9+9+9+9+4+2+6+4) 43 9 (o ++ predCode p ++ b1 nr ++ d ++ a ++ b ++ c ++ slot ++ rm ++ fn ++ m) = _
  simp (disch := omega) only [extract_append_hi, extract_append_lo]
  simp
@[simp] theorem sa_packVA (o : BitVec 7) (p : Pred) (nr : Bool) (d a b c : BitVec 9) (slot : BitVec 4) (rm : BitVec 2) (fn : BitVec 6) (m : BitVec 4) :
    Fields.sa (packVA o p nr d a b c slot rm fn m) = a := by
  change @BitVec.extractLsb' (7+4+1+9+9+9+9+4+2+6+4) 34 9 (o ++ predCode p ++ b1 nr ++ d ++ a ++ b ++ c ++ slot ++ rm ++ fn ++ m) = _
  simp (disch := omega) only [extract_append_hi, extract_append_lo]
  simp
@[simp] theorem sb_packVA (o : BitVec 7) (p : Pred) (nr : Bool) (d a b c : BitVec 9) (slot : BitVec 4) (rm : BitVec 2) (fn : BitVec 6) (m : BitVec 4) :
    Fields.sb (packVA o p nr d a b c slot rm fn m) = b := by
  change @BitVec.extractLsb' (7+4+1+9+9+9+9+4+2+6+4) 25 9 (o ++ predCode p ++ b1 nr ++ d ++ a ++ b ++ c ++ slot ++ rm ++ fn ++ m) = _
  simp (disch := omega) only [extract_append_hi, extract_append_lo]
  simp
@[simp] theorem sc_packVA (o : BitVec 7) (p : Pred) (nr : Bool) (d a b c : BitVec 9) (slot : BitVec 4) (rm : BitVec 2) (fn : BitVec 6) (m : BitVec 4) :
    Fields.sc (packVA o p nr d a b c slot rm fn m) = c := by
  change @BitVec.extractLsb' (7+4+1+9+9+9+9+4+2+6+4) 16 9 (o ++ predCode p ++ b1 nr ++ d ++ a ++ b ++ c ++ slot ++ rm ++ fn ++ m) = _
  simp (disch := omega) only [extract_append_hi, extract_append_lo]
  simp
@[simp] theorem slot_packVA (o : BitVec 7) (p : Pred) (nr : Bool) (d a b c : BitVec 9) (slot : BitVec 4) (rm : BitVec 2) (fn : BitVec 6) (m : BitVec 4) :
    Fields.slot (packVA o p nr d a b c slot rm fn m) = slot := by
  change @BitVec.extractLsb' (7+4+1+9+9+9+9+4+2+6+4) 12 4 (o ++ predCode p ++ b1 nr ++ d ++ a ++ b ++ c ++ slot ++ rm ++ fn ++ m) = _
  simp (disch := omega) only [extract_append_hi, extract_append_lo]
  simp
@[simp] theorem rm_packVA (o : BitVec 7) (p : Pred) (nr : Bool) (d a b c : BitVec 9) (slot : BitVec 4) (rm : BitVec 2) (fn : BitVec 6) (m : BitVec 4) :
    Fields.rm (packVA o p nr d a b c slot rm fn m) = rm := by
  change @BitVec.extractLsb' (7+4+1+9+9+9+9+4+2+6+4) 10 2 (o ++ predCode p ++ b1 nr ++ d ++ a ++ b ++ c ++ slot ++ rm ++ fn ++ m) = _
  simp (disch := omega) only [extract_append_hi, extract_append_lo]
  simp
@[simp] theorem fn_packVA (o : BitVec 7) (p : Pred) (nr : Bool) (d a b c : BitVec 9) (slot : BitVec 4) (rm : BitVec 2) (fn : BitVec 6) (m : BitVec 4) :
    Fields.fn (packVA o p nr d a b c slot rm fn m) = fn := by
  change @BitVec.extractLsb' (7+4+1+9+9+9+9+4+2+6+4) 4 6 (o ++ predCode p ++ b1 nr ++ d ++ a ++ b ++ c ++ slot ++ rm ++ fn ++ m) = _
  simp (disch := omega) only [extract_append_hi, extract_append_lo]
  simp
@[simp] theorem mod_packVA (o : BitVec 7) (p : Pred) (nr : Bool) (d a b c : BitVec 9) (slot : BitVec 4) (rm : BitVec 2) (fn : BitVec 6) (m : BitVec 4) :
    Fields.mod (packVA o p nr d a b c slot rm fn m) = m := by
  change @BitVec.extractLsb' (7+4+1+9+9+9+9+4+2+6+4) 0 4 (o ++ predCode p ++ b1 nr ++ d ++ a ++ b ++ c ++ slot ++ rm ++ fn ++ m) = _
  simp (disch := omega) only [extract_append_lo]
  simp
@[simp] theorem nr_packVA (o : BitVec 7) (p : Pred) (nr : Bool) (d a b c : BitVec 9) (slot : BitVec 4) (rm : BitVec 2) (fn : BitVec 6) (m : BitVec 4) :
    Fields.nr (packVA o p nr d a b c slot rm fn m) = nr := by
  change @BitVec.getLsbD (7+4+1+9+9+9+9+4+2+6+4) (o ++ predCode p ++ b1 nr ++ d ++ a ++ b ++ c ++ slot ++ rm ++ fn ++ m) 52 = _
  simp (disch := omega) only [getLsbD_append_hi, getLsbD_append_lo]
  simp [b1]
@[simp] theorem pred_packVA (o : BitVec 7) (p : Pred) (nr : Bool) (d a b c : BitVec 9) (slot : BitVec 4) (rm : BitVec 2) (fn : BitVec 6) (m : BitVec 4) :
    Fields.pred (packVA o p nr d a b c slot rm fn m) = p := by
  refine pred_ext _ p ?_ ?_
  · change @BitVec.getLsbD (7+4+1+9+9+9+9+4+2+6+4) (o ++ predCode p ++ b1 nr ++ d ++ a ++ b ++ c ++ slot ++ rm ++ fn ++ m) 56 = _
    simp (disch := omega) only [getLsbD_append_hi, getLsbD_append_lo, predCode]
    simp
  · change @BitVec.extractLsb' (7+4+1+9+9+9+9+4+2+6+4) 53 3 (o ++ predCode p ++ b1 nr ++ d ++ a ++ b ++ c ++ slot ++ rm ++ fn ++ m) = _
    simp (disch := omega) only [extract_append_hi, extract_append_lo, predCode]
    simp
@[simp] theorem opc_packVI (o : BitVec 7) (p : Pred) (nr : Bool) (d a : BitVec 9) (fn : BitVec 6) (m : BitVec 4) (imm : BitVec 24) :
    Fields.opc (packVI o p nr d a fn m imm) = o := by
  change @BitVec.extractLsb' (7+4+1+9+9+6+4+24) 57 7 (o ++ predCode p ++ b1 nr ++ d ++ a ++ fn ++ m ++ imm) = _
  simp (disch := omega) only [extract_append_hi]
  simp
@[simp] theorem dst_packVI (o : BitVec 7) (p : Pred) (nr : Bool) (d a : BitVec 9) (fn : BitVec 6) (m : BitVec 4) (imm : BitVec 24) :
    Fields.dst (packVI o p nr d a fn m imm) = d := by
  change @BitVec.extractLsb' (7+4+1+9+9+6+4+24) 43 9 (o ++ predCode p ++ b1 nr ++ d ++ a ++ fn ++ m ++ imm) = _
  simp (disch := omega) only [extract_append_hi, extract_append_lo]
  simp
@[simp] theorem sa_packVI (o : BitVec 7) (p : Pred) (nr : Bool) (d a : BitVec 9) (fn : BitVec 6) (m : BitVec 4) (imm : BitVec 24) :
    Fields.sa (packVI o p nr d a fn m imm) = a := by
  change @BitVec.extractLsb' (7+4+1+9+9+6+4+24) 34 9 (o ++ predCode p ++ b1 nr ++ d ++ a ++ fn ++ m ++ imm) = _
  simp (disch := omega) only [extract_append_hi, extract_append_lo]
  simp
@[simp] theorem fnVI_packVI (o : BitVec 7) (p : Pred) (nr : Bool) (d a : BitVec 9) (fn : BitVec 6) (m : BitVec 4) (imm : BitVec 24) :
    Fields.fnVI (packVI o p nr d a fn m imm) = fn := by
  change @BitVec.extractLsb' (7+4+1+9+9+6+4+24) 28 6 (o ++ predCode p ++ b1 nr ++ d ++ a ++ fn ++ m ++ imm) = _
  simp (disch := omega) only [extract_append_hi, extract_append_lo]
  simp
@[simp] theorem modVI_packVI (o : BitVec 7) (p : Pred) (nr : Bool) (d a : BitVec 9) (fn : BitVec 6) (m : BitVec 4) (imm : BitVec 24) :
    Fields.modVI (packVI o p nr d a fn m imm) = m := by
  change @BitVec.extractLsb' (7+4+1+9+9+6+4+24) 24 4 (o ++ predCode p ++ b1 nr ++ d ++ a ++ fn ++ m ++ imm) = _
  simp (disch := omega) only [extract_append_hi, extract_append_lo]
  simp
@[simp] theorem imm24_packVI (o : BitVec 7) (p : Pred) (nr : Bool) (d a : BitVec 9) (fn : BitVec 6) (m : BitVec 4) (imm : BitVec 24) :
    Fields.imm24 (packVI o p nr d a fn m imm) = imm := by
  change @BitVec.extractLsb' (7+4+1+9+9+6+4+24) 0 24 (o ++ predCode p ++ b1 nr ++ d ++ a ++ fn ++ m ++ imm) = _
  simp (disch := omega) only [extract_append_lo]
  simp
@[simp] theorem nr_packVI (o : BitVec 7) (p : Pred) (nr : Bool) (d a : BitVec 9) (fn : BitVec 6) (m : BitVec 4) (imm : BitVec 24) :
    Fields.nr (packVI o p nr d a fn m imm) = nr := by
  change @BitVec.getLsbD (7+4+1+9+9+6+4+24) (o ++ predCode p ++ b1 nr ++ d ++ a ++ fn ++ m ++ imm) 52 = _
  simp (disch := omega) only [getLsbD_append_hi, getLsbD_append_lo]
  simp [b1]
@[simp] theorem pred_packVI (o : BitVec 7) (p : Pred) (nr : Bool) (d a : BitVec 9) (fn : BitVec 6) (m : BitVec 4) (imm : BitVec 24) :
    Fields.pred (packVI o p nr d a fn m imm) = p := by
  refine pred_ext _ p ?_ ?_
  · change @BitVec.getLsbD (7+4+1+9+9+6+4+24) (o ++ predCode p ++ b1 nr ++ d ++ a ++ fn ++ m ++ imm) 56 = _
    simp (disch := omega) only [getLsbD_append_hi, getLsbD_append_lo, predCode]
    simp
  · change @BitVec.extractLsb' (7+4+1+9+9+6+4+24) 53 3 (o ++ predCode p ++ b1 nr ++ d ++ a ++ fn ++ m ++ imm) = _
    simp (disch := omega) only [extract_append_hi, extract_append_lo, predCode]
    simp
@[simp] theorem opc_packU (o : BitVec 7) (p : Pred) (d a b : BitVec 9) (fn : BitVec 6) (m : BitVec 4) (imm : BitVec 15) :
    Fields.opc (packU o p d a b fn m imm) = o := by
  change @BitVec.extractLsb' (7+4+1+9+9+9+6+4+15) 57 7 (o ++ predCode p ++ 0#1 ++ d ++ a ++ b ++ fn ++ m ++ imm) = _
  simp (disch := omega) only [extract_append_hi]
  simp
@[simp] theorem dst_packU (o : BitVec 7) (p : Pred) (d a b : BitVec 9) (fn : BitVec 6) (m : BitVec 4) (imm : BitVec 15) :
    Fields.dst (packU o p d a b fn m imm) = d := by
  change @BitVec.extractLsb' (7+4+1+9+9+9+6+4+15) 43 9 (o ++ predCode p ++ 0#1 ++ d ++ a ++ b ++ fn ++ m ++ imm) = _
  simp (disch := omega) only [extract_append_hi, extract_append_lo]
  simp
@[simp] theorem sa_packU (o : BitVec 7) (p : Pred) (d a b : BitVec 9) (fn : BitVec 6) (m : BitVec 4) (imm : BitVec 15) :
    Fields.sa (packU o p d a b fn m imm) = a := by
  change @BitVec.extractLsb' (7+4+1+9+9+9+6+4+15) 34 9 (o ++ predCode p ++ 0#1 ++ d ++ a ++ b ++ fn ++ m ++ imm) = _
  simp (disch := omega) only [extract_append_hi, extract_append_lo]
  simp
@[simp] theorem sb_packU (o : BitVec 7) (p : Pred) (d a b : BitVec 9) (fn : BitVec 6) (m : BitVec 4) (imm : BitVec 15) :
    Fields.sb (packU o p d a b fn m imm) = b := by
  change @BitVec.extractLsb' (7+4+1+9+9+9+6+4+15) 25 9 (o ++ predCode p ++ 0#1 ++ d ++ a ++ b ++ fn ++ m ++ imm) = _
  simp (disch := omega) only [extract_append_hi, extract_append_lo]
  simp
@[simp] theorem fnU_packU (o : BitVec 7) (p : Pred) (d a b : BitVec 9) (fn : BitVec 6) (m : BitVec 4) (imm : BitVec 15) :
    Fields.fnU (packU o p d a b fn m imm) = fn := by
  change @BitVec.extractLsb' (7+4+1+9+9+9+6+4+15) 19 6 (o ++ predCode p ++ 0#1 ++ d ++ a ++ b ++ fn ++ m ++ imm) = _
  simp (disch := omega) only [extract_append_hi, extract_append_lo]
  simp
@[simp] theorem modU_packU (o : BitVec 7) (p : Pred) (d a b : BitVec 9) (fn : BitVec 6) (m : BitVec 4) (imm : BitVec 15) :
    Fields.modU (packU o p d a b fn m imm) = m := by
  change @BitVec.extractLsb' (7+4+1+9+9+9+6+4+15) 15 4 (o ++ predCode p ++ 0#1 ++ d ++ a ++ b ++ fn ++ m ++ imm) = _
  simp (disch := omega) only [extract_append_hi, extract_append_lo]
  simp
@[simp] theorem imm15_packU (o : BitVec 7) (p : Pred) (d a b : BitVec 9) (fn : BitVec 6) (m : BitVec 4) (imm : BitVec 15) :
    Fields.imm15 (packU o p d a b fn m imm) = imm := by
  change @BitVec.extractLsb' (7+4+1+9+9+9+6+4+15) 0 15 (o ++ predCode p ++ 0#1 ++ d ++ a ++ b ++ fn ++ m ++ imm) = _
  simp (disch := omega) only [extract_append_lo]
  simp
@[simp] theorem nr_packU (o : BitVec 7) (p : Pred) (d a b : BitVec 9) (fn : BitVec 6) (m : BitVec 4) (imm : BitVec 15) :
    Fields.nr (packU o p d a b fn m imm) = false := by
  change @BitVec.getLsbD (7+4+1+9+9+9+6+4+15) (o ++ predCode p ++ 0#1 ++ d ++ a ++ b ++ fn ++ m ++ imm) 52 = _
  simp (disch := omega) only [getLsbD_append_hi, getLsbD_append_lo]
  simp
@[simp] theorem pred_packU (o : BitVec 7) (p : Pred) (d a b : BitVec 9) (fn : BitVec 6) (m : BitVec 4) (imm : BitVec 15) :
    Fields.pred (packU o p d a b fn m imm) = p := by
  refine pred_ext _ p ?_ ?_
  · change @BitVec.getLsbD (7+4+1+9+9+9+6+4+15) (o ++ predCode p ++ 0#1 ++ d ++ a ++ b ++ fn ++ m ++ imm) 56 = _
    simp (disch := omega) only [getLsbD_append_hi, getLsbD_append_lo, predCode]
    simp
  · change @BitVec.extractLsb' (7+4+1+9+9+9+6+4+15) 53 3 (o ++ predCode p ++ 0#1 ++ d ++ a ++ b ++ fn ++ m ++ imm) = _
    simp (disch := omega) only [extract_append_hi, extract_append_lo, predCode]
    simp
@[simp] theorem opc_packUI (p : Pred) (d : BitVec 9) (fn : BitVec 6) (imm : Word) :
    Fields.opc (packUI p d fn imm) = 0x01#7 := by
  change @BitVec.extractLsb' (7+4+1+9+6+5+32) 57 7 (0x01#7 ++ predCode p ++ 0#1 ++ d ++ fn ++ 0#5 ++ imm) = _
  simp (disch := omega) only [extract_append_hi]
  simp
@[simp] theorem dst_packUI (p : Pred) (d : BitVec 9) (fn : BitVec 6) (imm : Word) :
    Fields.dst (packUI p d fn imm) = d := by
  change @BitVec.extractLsb' (7+4+1+9+6+5+32) 43 9 (0x01#7 ++ predCode p ++ 0#1 ++ d ++ fn ++ 0#5 ++ imm) = _
  simp (disch := omega) only [extract_append_hi, extract_append_lo]
  simp
@[simp] theorem fnUI_packUI (p : Pred) (d : BitVec 9) (fn : BitVec 6) (imm : Word) :
    Fields.fnUI (packUI p d fn imm) = fn := by
  change @BitVec.extractLsb' (7+4+1+9+6+5+32) 37 6 (0x01#7 ++ predCode p ++ 0#1 ++ d ++ fn ++ 0#5 ++ imm) = _
  simp (disch := omega) only [extract_append_hi, extract_append_lo]
  simp
@[simp] theorem modUI_packUI (p : Pred) (d : BitVec 9) (fn : BitVec 6) (imm : Word) :
    Fields.modUI (packUI p d fn imm) = 0#5 := by
  change @BitVec.extractLsb' (7+4+1+9+6+5+32) 32 5 (0x01#7 ++ predCode p ++ 0#1 ++ d ++ fn ++ 0#5 ++ imm) = _
  simp (disch := omega) only [extract_append_hi, extract_append_lo]
  simp
@[simp] theorem imm32_packUI (p : Pred) (d : BitVec 9) (fn : BitVec 6) (imm : Word) :
    Fields.imm32 (packUI p d fn imm) = imm := by
  change @BitVec.extractLsb' (7+4+1+9+6+5+32) 0 32 (0x01#7 ++ predCode p ++ 0#1 ++ d ++ fn ++ 0#5 ++ imm) = _
  simp (disch := omega) only [extract_append_lo]
  simp
@[simp] theorem nr_packUI (p : Pred) (d : BitVec 9) (fn : BitVec 6) (imm : Word) :
    Fields.nr (packUI p d fn imm) = false := by
  change @BitVec.getLsbD (7+4+1+9+6+5+32) (0x01#7 ++ predCode p ++ 0#1 ++ d ++ fn ++ 0#5 ++ imm) 52 = _
  simp (disch := omega) only [getLsbD_append_hi, getLsbD_append_lo]
  simp
@[simp] theorem pred_packUI (p : Pred) (d : BitVec 9) (fn : BitVec 6) (imm : Word) :
    Fields.pred (packUI p d fn imm) = p := by
  refine pred_ext _ p ?_ ?_
  · change @BitVec.getLsbD (7+4+1+9+6+5+32) (0x01#7 ++ predCode p ++ 0#1 ++ d ++ fn ++ 0#5 ++ imm) 56 = _
    simp (disch := omega) only [getLsbD_append_hi, getLsbD_append_lo, predCode]
    simp
  · change @BitVec.extractLsb' (7+4+1+9+6+5+32) 53 3 (0x01#7 ++ predCode p ++ 0#1 ++ d ++ fn ++ 0#5 ++ imm) = _
    simp (disch := omega) only [extract_append_hi, extract_append_lo, predCode]
    simp
@[simp] theorem opc_packB (p : Pred) (k : BitVec 4) (t r : BitVec 24) :
    Fields.opc (packB p k t r) = 0x10#7 := by
  change @BitVec.extractLsb' (7+4+1+4+24+24) 57 7 (0x10#7 ++ predCode p ++ 0#1 ++ k ++ t ++ r) = _
  simp (disch := omega) only [extract_append_hi]
  simp
@[simp] theorem predBits_packB (p : Pred) (k : BitVec 4) (t r : BitVec 24) :
    Fields.predBits (packB p k t r) = predCode p := by
  change @BitVec.extractLsb' (7+4+1+4+24+24) 53 4 (0x10#7 ++ predCode p ++ 0#1 ++ k ++ t ++ r) = _
  simp (disch := omega) only [extract_append_hi, extract_append_lo]
  simp
@[simp] theorem kind_packB (p : Pred) (k : BitVec 4) (t r : BitVec 24) :
    Fields.kind (packB p k t r) = k := by
  change @BitVec.extractLsb' (7+4+1+4+24+24) 48 4 (0x10#7 ++ predCode p ++ 0#1 ++ k ++ t ++ r) = _
  simp (disch := omega) only [extract_append_hi, extract_append_lo]
  simp
@[simp] theorem tgt_packB (p : Pred) (k : BitVec 4) (t r : BitVec 24) :
    Fields.tgt (packB p k t r) = t := by
  change @BitVec.extractLsb' (7+4+1+4+24+24) 24 24 (0x10#7 ++ predCode p ++ 0#1 ++ k ++ t ++ r) = _
  simp (disch := omega) only [extract_append_hi, extract_append_lo]
  simp
@[simp] theorem rcv_packB (p : Pred) (k : BitVec 4) (t r : BitVec 24) :
    Fields.rcv (packB p k t r) = r := by
  change @BitVec.extractLsb' (7+4+1+4+24+24) 0 24 (0x10#7 ++ predCode p ++ 0#1 ++ k ++ t ++ r) = _
  simp (disch := omega) only [extract_append_lo]
  simp
@[simp] theorem nr_packB (p : Pred) (k : BitVec 4) (t r : BitVec 24) :
    Fields.nr (packB p k t r) = false := by
  change @BitVec.getLsbD (7+4+1+4+24+24) (0x10#7 ++ predCode p ++ 0#1 ++ k ++ t ++ r) 52 = _
  simp (disch := omega) only [getLsbD_append_hi, getLsbD_append_lo]
  simp
@[simp] theorem pred_packB (p : Pred) (k : BitVec 4) (t r : BitVec 24) :
    Fields.pred (packB p k t r) = p := by
  refine pred_ext _ p ?_ ?_
  · change @BitVec.getLsbD (7+4+1+4+24+24) (0x10#7 ++ predCode p ++ 0#1 ++ k ++ t ++ r) 56 = _
    simp (disch := omega) only [getLsbD_append_hi, getLsbD_append_lo, predCode]
    simp
  · change @BitVec.extractLsb' (7+4+1+4+24+24) 53 3 (0x10#7 ++ predCode p ++ 0#1 ++ k ++ t ++ r) = _
    simp (disch := omega) only [extract_append_hi, extract_append_lo, predCode]
    simp
@[simp] theorem opc_packM (o : BitVec 7) (p : Pred) (nr : Bool) (data addr base pol : BitVec 9) (ew : BitVec 5) (sc : BitVec 3) (ord : BitVec 2) (fn : BitVec 4) (sp : BitVec 2) :
    Fields.opc (packM o p nr data addr base pol ew sc ord fn sp) = o := by
  change @BitVec.extractLsb' (7+4+1+9+9+9+9+5+3+2+4+2) 57 7 (o ++ predCode p ++ b1 nr ++ data ++ addr ++ base ++ pol ++ ew ++ sc ++ ord ++ fn ++ sp) = _
  simp (disch := omega) only [extract_append_hi]
  simp
@[simp] theorem dst_packM (o : BitVec 7) (p : Pred) (nr : Bool) (data addr base pol : BitVec 9) (ew : BitVec 5) (sc : BitVec 3) (ord : BitVec 2) (fn : BitVec 4) (sp : BitVec 2) :
    Fields.dst (packM o p nr data addr base pol ew sc ord fn sp) = data := by
  change @BitVec.extractLsb' (7+4+1+9+9+9+9+5+3+2+4+2) 43 9 (o ++ predCode p ++ b1 nr ++ data ++ addr ++ base ++ pol ++ ew ++ sc ++ ord ++ fn ++ sp) = _
  simp (disch := omega) only [extract_append_hi, extract_append_lo]
  simp
@[simp] theorem sa_packM (o : BitVec 7) (p : Pred) (nr : Bool) (data addr base pol : BitVec 9) (ew : BitVec 5) (sc : BitVec 3) (ord : BitVec 2) (fn : BitVec 4) (sp : BitVec 2) :
    Fields.sa (packM o p nr data addr base pol ew sc ord fn sp) = addr := by
  change @BitVec.extractLsb' (7+4+1+9+9+9+9+5+3+2+4+2) 34 9 (o ++ predCode p ++ b1 nr ++ data ++ addr ++ base ++ pol ++ ew ++ sc ++ ord ++ fn ++ sp) = _
  simp (disch := omega) only [extract_append_hi, extract_append_lo]
  simp
@[simp] theorem sb_packM (o : BitVec 7) (p : Pred) (nr : Bool) (data addr base pol : BitVec 9) (ew : BitVec 5) (sc : BitVec 3) (ord : BitVec 2) (fn : BitVec 4) (sp : BitVec 2) :
    Fields.sb (packM o p nr data addr base pol ew sc ord fn sp) = base := by
  change @BitVec.extractLsb' (7+4+1+9+9+9+9+5+3+2+4+2) 25 9 (o ++ predCode p ++ b1 nr ++ data ++ addr ++ base ++ pol ++ ew ++ sc ++ ord ++ fn ++ sp) = _
  simp (disch := omega) only [extract_append_hi, extract_append_lo]
  simp
@[simp] theorem pol_packM (o : BitVec 7) (p : Pred) (nr : Bool) (data addr base pol : BitVec 9) (ew : BitVec 5) (sc : BitVec 3) (ord : BitVec 2) (fn : BitVec 4) (sp : BitVec 2) :
    Fields.pol (packM o p nr data addr base pol ew sc ord fn sp) = pol := by
  change @BitVec.extractLsb' (7+4+1+9+9+9+9+5+3+2+4+2) 16 9 (o ++ predCode p ++ b1 nr ++ data ++ addr ++ base ++ pol ++ ew ++ sc ++ ord ++ fn ++ sp) = _
  simp (disch := omega) only [extract_append_hi, extract_append_lo]
  simp
@[simp] theorem ew_packM (o : BitVec 7) (p : Pred) (nr : Bool) (data addr base pol : BitVec 9) (ew : BitVec 5) (sc : BitVec 3) (ord : BitVec 2) (fn : BitVec 4) (sp : BitVec 2) :
    Fields.ew (packM o p nr data addr base pol ew sc ord fn sp) = ew := by
  change @BitVec.extractLsb' (7+4+1+9+9+9+9+5+3+2+4+2) 11 5 (o ++ predCode p ++ b1 nr ++ data ++ addr ++ base ++ pol ++ ew ++ sc ++ ord ++ fn ++ sp) = _
  simp (disch := omega) only [extract_append_hi, extract_append_lo]
  simp
@[simp] theorem scM_packM (o : BitVec 7) (p : Pred) (nr : Bool) (data addr base pol : BitVec 9) (ew : BitVec 5) (sc : BitVec 3) (ord : BitVec 2) (fn : BitVec 4) (sp : BitVec 2) :
    Fields.scM (packM o p nr data addr base pol ew sc ord fn sp) = sc := by
  change @BitVec.extractLsb' (7+4+1+9+9+9+9+5+3+2+4+2) 8 3 (o ++ predCode p ++ b1 nr ++ data ++ addr ++ base ++ pol ++ ew ++ sc ++ ord ++ fn ++ sp) = _
  simp (disch := omega) only [extract_append_hi, extract_append_lo]
  simp
@[simp] theorem ord_packM (o : BitVec 7) (p : Pred) (nr : Bool) (data addr base pol : BitVec 9) (ew : BitVec 5) (sc : BitVec 3) (ord : BitVec 2) (fn : BitVec 4) (sp : BitVec 2) :
    Fields.ord (packM o p nr data addr base pol ew sc ord fn sp) = ord := by
  change @BitVec.extractLsb' (7+4+1+9+9+9+9+5+3+2+4+2) 6 2 (o ++ predCode p ++ b1 nr ++ data ++ addr ++ base ++ pol ++ ew ++ sc ++ ord ++ fn ++ sp) = _
  simp (disch := omega) only [extract_append_hi, extract_append_lo]
  simp
@[simp] theorem fnM_packM (o : BitVec 7) (p : Pred) (nr : Bool) (data addr base pol : BitVec 9) (ew : BitVec 5) (sc : BitVec 3) (ord : BitVec 2) (fn : BitVec 4) (sp : BitVec 2) :
    Fields.fnM (packM o p nr data addr base pol ew sc ord fn sp) = fn := by
  change @BitVec.extractLsb' (7+4+1+9+9+9+9+5+3+2+4+2) 2 4 (o ++ predCode p ++ b1 nr ++ data ++ addr ++ base ++ pol ++ ew ++ sc ++ ord ++ fn ++ sp) = _
  simp (disch := omega) only [extract_append_hi, extract_append_lo]
  simp
@[simp] theorem sp_packM (o : BitVec 7) (p : Pred) (nr : Bool) (data addr base pol : BitVec 9) (ew : BitVec 5) (sc : BitVec 3) (ord : BitVec 2) (fn : BitVec 4) (sp : BitVec 2) :
    Fields.sp (packM o p nr data addr base pol ew sc ord fn sp) = sp := by
  change @BitVec.extractLsb' (7+4+1+9+9+9+9+5+3+2+4+2) 0 2 (o ++ predCode p ++ b1 nr ++ data ++ addr ++ base ++ pol ++ ew ++ sc ++ ord ++ fn ++ sp) = _
  simp (disch := omega) only [extract_append_lo]
  simp
@[simp] theorem nr_packM (o : BitVec 7) (p : Pred) (nr : Bool) (data addr base pol : BitVec 9) (ew : BitVec 5) (sc : BitVec 3) (ord : BitVec 2) (fn : BitVec 4) (sp : BitVec 2) :
    Fields.nr (packM o p nr data addr base pol ew sc ord fn sp) = nr := by
  change @BitVec.getLsbD (7+4+1+9+9+9+9+5+3+2+4+2) (o ++ predCode p ++ b1 nr ++ data ++ addr ++ base ++ pol ++ ew ++ sc ++ ord ++ fn ++ sp) 52 = _
  simp (disch := omega) only [getLsbD_append_hi, getLsbD_append_lo]
  simp [b1]
@[simp] theorem pred_packM (o : BitVec 7) (p : Pred) (nr : Bool) (data addr base pol : BitVec 9) (ew : BitVec 5) (sc : BitVec 3) (ord : BitVec 2) (fn : BitVec 4) (sp : BitVec 2) :
    Fields.pred (packM o p nr data addr base pol ew sc ord fn sp) = p := by
  refine pred_ext _ p ?_ ?_
  · change @BitVec.getLsbD (7+4+1+9+9+9+9+5+3+2+4+2) (o ++ predCode p ++ b1 nr ++ data ++ addr ++ base ++ pol ++ ew ++ sc ++ ord ++ fn ++ sp) 56 = _
    simp (disch := omega) only [getLsbD_append_hi, getLsbD_append_lo, predCode]
    simp
  · change @BitVec.extractLsb' (7+4+1+9+9+9+9+5+3+2+4+2) 53 3 (o ++ predCode p ++ b1 nr ++ data ++ addr ++ base ++ pol ++ ew ++ sc ++ ord ++ fn ++ sp) = _
    simp (disch := omega) only [extract_append_hi, extract_append_lo, predCode]
    simp
@[simp] theorem opc_packX (o : BitVec 7) (p : Pred) (fn : BitVec 6) (desc a1 a2 dsts : BitVec 9) (acq rel : Bool) (scope : BitVec 3) (arrive notify : Bool) :
    Fields.opc (packX o p fn desc a1 a2 dsts acq rel scope arrive notify) = o := by
  change @BitVec.extractLsb' (7+4+1+6+9+9+9+9+1+1+3+1+1+3) 57 7 (o ++ predCode p ++ 0#1 ++ fn ++ desc ++ a1 ++ a2 ++ dsts ++ b1 acq ++ b1 rel ++ scope ++ b1 arrive ++ b1 notify ++ 0#3) = _
  simp (disch := omega) only [extract_append_hi]
  simp
@[simp] theorem fnX_packX (o : BitVec 7) (p : Pred) (fn : BitVec 6) (desc a1 a2 dsts : BitVec 9) (acq rel : Bool) (scope : BitVec 3) (arrive notify : Bool) :
    Fields.fnX (packX o p fn desc a1 a2 dsts acq rel scope arrive notify) = fn := by
  change @BitVec.extractLsb' (7+4+1+6+9+9+9+9+1+1+3+1+1+3) 46 6 (o ++ predCode p ++ 0#1 ++ fn ++ desc ++ a1 ++ a2 ++ dsts ++ b1 acq ++ b1 rel ++ scope ++ b1 arrive ++ b1 notify ++ 0#3) = _
  simp (disch := omega) only [extract_append_hi, extract_append_lo]
  simp
@[simp] theorem desc_packX (o : BitVec 7) (p : Pred) (fn : BitVec 6) (desc a1 a2 dsts : BitVec 9) (acq rel : Bool) (scope : BitVec 3) (arrive notify : Bool) :
    Fields.desc (packX o p fn desc a1 a2 dsts acq rel scope arrive notify) = desc := by
  change @BitVec.extractLsb' (7+4+1+6+9+9+9+9+1+1+3+1+1+3) 37 9 (o ++ predCode p ++ 0#1 ++ fn ++ desc ++ a1 ++ a2 ++ dsts ++ b1 acq ++ b1 rel ++ scope ++ b1 arrive ++ b1 notify ++ 0#3) = _
  simp (disch := omega) only [extract_append_hi, extract_append_lo]
  simp
@[simp] theorem arg1_packX (o : BitVec 7) (p : Pred) (fn : BitVec 6) (desc a1 a2 dsts : BitVec 9) (acq rel : Bool) (scope : BitVec 3) (arrive notify : Bool) :
    Fields.arg1 (packX o p fn desc a1 a2 dsts acq rel scope arrive notify) = a1 := by
  change @BitVec.extractLsb' (7+4+1+6+9+9+9+9+1+1+3+1+1+3) 28 9 (o ++ predCode p ++ 0#1 ++ fn ++ desc ++ a1 ++ a2 ++ dsts ++ b1 acq ++ b1 rel ++ scope ++ b1 arrive ++ b1 notify ++ 0#3) = _
  simp (disch := omega) only [extract_append_hi, extract_append_lo]
  simp
@[simp] theorem arg2_packX (o : BitVec 7) (p : Pred) (fn : BitVec 6) (desc a1 a2 dsts : BitVec 9) (acq rel : Bool) (scope : BitVec 3) (arrive notify : Bool) :
    Fields.arg2 (packX o p fn desc a1 a2 dsts acq rel scope arrive notify) = a2 := by
  change @BitVec.extractLsb' (7+4+1+6+9+9+9+9+1+1+3+1+1+3) 19 9 (o ++ predCode p ++ 0#1 ++ fn ++ desc ++ a1 ++ a2 ++ dsts ++ b1 acq ++ b1 rel ++ scope ++ b1 arrive ++ b1 notify ++ 0#3) = _
  simp (disch := omega) only [extract_append_hi, extract_append_lo]
  simp
@[simp] theorem dsts_packX (o : BitVec 7) (p : Pred) (fn : BitVec 6) (desc a1 a2 dsts : BitVec 9) (acq rel : Bool) (scope : BitVec 3) (arrive notify : Bool) :
    Fields.dsts (packX o p fn desc a1 a2 dsts acq rel scope arrive notify) = dsts := by
  change @BitVec.extractLsb' (7+4+1+6+9+9+9+9+1+1+3+1+1+3) 10 9 (o ++ predCode p ++ 0#1 ++ fn ++ desc ++ a1 ++ a2 ++ dsts ++ b1 acq ++ b1 rel ++ scope ++ b1 arrive ++ b1 notify ++ 0#3) = _
  simp (disch := omega) only [extract_append_hi, extract_append_lo]
  simp
@[simp] theorem scope_packX (o : BitVec 7) (p : Pred) (fn : BitVec 6) (desc a1 a2 dsts : BitVec 9) (acq rel : Bool) (scope : BitVec 3) (arrive notify : Bool) :
    Fields.scope (packX o p fn desc a1 a2 dsts acq rel scope arrive notify) = scope := by
  change @BitVec.extractLsb' (7+4+1+6+9+9+9+9+1+1+3+1+1+3) 5 3 (o ++ predCode p ++ 0#1 ++ fn ++ desc ++ a1 ++ a2 ++ dsts ++ b1 acq ++ b1 rel ++ scope ++ b1 arrive ++ b1 notify ++ 0#3) = _
  simp (disch := omega) only [extract_append_hi, extract_append_lo]
  simp
@[simp] theorem lowX_packX (o : BitVec 7) (p : Pred) (fn : BitVec 6) (desc a1 a2 dsts : BitVec 9) (acq rel : Bool) (scope : BitVec 3) (arrive notify : Bool) :
    Fields.lowX (packX o p fn desc a1 a2 dsts acq rel scope arrive notify) = 0#3 := by
  change @BitVec.extractLsb' (7+4+1+6+9+9+9+9+1+1+3+1+1+3) 0 3 (o ++ predCode p ++ 0#1 ++ fn ++ desc ++ a1 ++ a2 ++ dsts ++ b1 acq ++ b1 rel ++ scope ++ b1 arrive ++ b1 notify ++ 0#3) = _
  simp (disch := omega) only [extract_append_lo]
  simp
@[simp] theorem nr_packX (o : BitVec 7) (p : Pred) (fn : BitVec 6) (desc a1 a2 dsts : BitVec 9) (acq rel : Bool) (scope : BitVec 3) (arrive notify : Bool) :
    Fields.nr (packX o p fn desc a1 a2 dsts acq rel scope arrive notify) = false := by
  change @BitVec.getLsbD (7+4+1+6+9+9+9+9+1+1+3+1+1+3) (o ++ predCode p ++ 0#1 ++ fn ++ desc ++ a1 ++ a2 ++ dsts ++ b1 acq ++ b1 rel ++ scope ++ b1 arrive ++ b1 notify ++ 0#3) 52 = _
  simp (disch := omega) only [getLsbD_append_hi, getLsbD_append_lo]
  simp
@[simp] theorem acq_packX (o : BitVec 7) (p : Pred) (fn : BitVec 6) (desc a1 a2 dsts : BitVec 9) (acq rel : Bool) (scope : BitVec 3) (arrive notify : Bool) :
    Fields.acq (packX o p fn desc a1 a2 dsts acq rel scope arrive notify) = acq := by
  change @BitVec.getLsbD (7+4+1+6+9+9+9+9+1+1+3+1+1+3) (o ++ predCode p ++ 0#1 ++ fn ++ desc ++ a1 ++ a2 ++ dsts ++ b1 acq ++ b1 rel ++ scope ++ b1 arrive ++ b1 notify ++ 0#3) 9 = _
  simp (disch := omega) only [getLsbD_append_hi, getLsbD_append_lo]
  simp [b1]
@[simp] theorem rel_packX (o : BitVec 7) (p : Pred) (fn : BitVec 6) (desc a1 a2 dsts : BitVec 9) (acq rel : Bool) (scope : BitVec 3) (arrive notify : Bool) :
    Fields.rel (packX o p fn desc a1 a2 dsts acq rel scope arrive notify) = rel := by
  change @BitVec.getLsbD (7+4+1+6+9+9+9+9+1+1+3+1+1+3) (o ++ predCode p ++ 0#1 ++ fn ++ desc ++ a1 ++ a2 ++ dsts ++ b1 acq ++ b1 rel ++ scope ++ b1 arrive ++ b1 notify ++ 0#3) 8 = _
  simp (disch := omega) only [getLsbD_append_hi, getLsbD_append_lo]
  simp [b1]
@[simp] theorem arrive_packX (o : BitVec 7) (p : Pred) (fn : BitVec 6) (desc a1 a2 dsts : BitVec 9) (acq rel : Bool) (scope : BitVec 3) (arrive notify : Bool) :
    Fields.arrive (packX o p fn desc a1 a2 dsts acq rel scope arrive notify) = arrive := by
  change @BitVec.getLsbD (7+4+1+6+9+9+9+9+1+1+3+1+1+3) (o ++ predCode p ++ 0#1 ++ fn ++ desc ++ a1 ++ a2 ++ dsts ++ b1 acq ++ b1 rel ++ scope ++ b1 arrive ++ b1 notify ++ 0#3) 4 = _
  simp (disch := omega) only [getLsbD_append_hi, getLsbD_append_lo]
  simp [b1]
@[simp] theorem notify_packX (o : BitVec 7) (p : Pred) (fn : BitVec 6) (desc a1 a2 dsts : BitVec 9) (acq rel : Bool) (scope : BitVec 3) (arrive notify : Bool) :
    Fields.notify (packX o p fn desc a1 a2 dsts acq rel scope arrive notify) = notify := by
  change @BitVec.getLsbD (7+4+1+6+9+9+9+9+1+1+3+1+1+3) (o ++ predCode p ++ 0#1 ++ fn ++ desc ++ a1 ++ a2 ++ dsts ++ b1 acq ++ b1 rel ++ scope ++ b1 arrive ++ b1 notify ++ 0#3) 3 = _
  simp (disch := omega) only [getLsbD_append_hi, getLsbD_append_lo]
  simp [b1]
@[simp] theorem pred_packX (o : BitVec 7) (p : Pred) (fn : BitVec 6) (desc a1 a2 dsts : BitVec 9) (acq rel : Bool) (scope : BitVec 3) (arrive notify : Bool) :
    Fields.pred (packX o p fn desc a1 a2 dsts acq rel scope arrive notify) = p := by
  refine pred_ext _ p ?_ ?_
  · change @BitVec.getLsbD (7+4+1+6+9+9+9+9+1+1+3+1+1+3) (o ++ predCode p ++ 0#1 ++ fn ++ desc ++ a1 ++ a2 ++ dsts ++ b1 acq ++ b1 rel ++ scope ++ b1 arrive ++ b1 notify ++ 0#3) 56 = _
    simp (disch := omega) only [getLsbD_append_hi, getLsbD_append_lo, predCode]
    simp
  · change @BitVec.extractLsb' (7+4+1+6+9+9+9+9+1+1+3+1+1+3) 53 3 (o ++ predCode p ++ 0#1 ++ fn ++ desc ++ a1 ++ a2 ++ dsts ++ b1 acq ++ b1 rel ++ scope ++ b1 arrive ++ b1 notify ++ 0#3) = _
    simp (disch := omega) only [extract_append_hi, extract_append_lo, predCode]
    simp

/-! The small codes and their inverses (R30 to R33). -/

theorem ok_of_toOption {α : Type} (e : Dec α) (x : α) (h : e.toOption = some x) : e = .ok x := by
  cases e <;> simp_all [Except.toOption]
theorem vCode_all : ∀ k : Fin 256, (operand (operandCode (.v (.ofFin k)))).toOption = some (.v (.ofFin k))
    ∧ (vdst (vdstCode (.v (.ofFin k)))).toOption = some (.v (.ofFin k)) := by decide +kernel
theorem tCode_all : ∀ k : Fin 8, (operand (operandCode (.t (.ofFin k)))).toOption = some (.t (.ofFin k))
    ∧ (vdst (vdstCode (.t (.ofFin k)))).toOption = some (.t (.ofFin k)) := by decide
theorem bCode_all : ∀ k : Fin 128, (operand (operandCode (.b (.ofFin k)))).toOption = some (.b (.ofFin k))
    ∧ (bcast (bcastCode (.ofFin k))).toOption = some (.ofFin k) := by decide +kernel
theorem pCode_all : ∀ k : Fin 8, pnum (pCode (.ofFin k)) = .ofFin k ∧ pnumClean (pCode (.ofFin k)) = true := by decide
theorem predCode_all : ∀ (n : Bool) (k : Fin 8),
    (predCode { neg := n, idx := .ofFin k } == 7) = decide (Pred.mk n (.ofFin k) = { neg := false, idx := 7 }) := by decide

@[simp] theorem operand_operandCode (x : Operand) : operand (operandCode x) = .ok x := by
  cases x with
  | v n => exact ok_of_toOption _ _ (vCode_all n.toFin).1
  | t n => exact ok_of_toOption _ _ (tCode_all n.toFin).1
  | b n => exact ok_of_toOption _ _ (bCode_all n.toFin).1
@[simp] theorem vdst_vdstCode (x : VDst) : vdst (vdstCode x) = .ok x := by
  cases x with
  | v n => exact ok_of_toOption _ _ (vCode_all n.toFin).2
  | t n => exact ok_of_toOption _ _ (tCode_all n.toFin).2
@[simp] theorem bcast_bcastCode (n : BitVec 7) : bcast (bcastCode n) = .ok n :=
  ok_of_toOption _ _ (bCode_all n.toFin).2
@[simp] theorem pnum_pCode (n : PNum) : pnum (pCode n) = n := (pCode_all n.toFin).1
@[simp] theorem pnumClean_pCode (n : PNum) : pnumClean (pCode n) = true := (pCode_all n.toFin).2
@[simp] theorem widthOf_widthCode (w : Width) : widthOf (widthCode w) = w := by cases w <;> rfl
@[simp] theorem widthCode_ne_three (w : Width) : (widthCode w != 3) = true := by cases w <;> rfl
@[simp] theorem awidth_awidthCode (w : AWidth) : awidth (awidthCode w) = some w := by cases w <;> rfl
@[simp] theorem sysReg_sysRegCode (r : SysReg) : sysReg (sysRegCode r) = some r := by cases r <;> rfl
theorem predCode_eq_seven (p : Pred) : (predCode p == 7) = decide (p = { neg := false, idx := 7 }) :=
  predCode_all p.neg p.idx.toFin

end Sys2Proof
end

