-- ==== Sys2Proof/Laws/Maps.lean ====
section
/-! SUPPORT. Sparse maps and byte memories: a read after a write, every other key untouched, and the canonical form
kept by every operation. -/

namespace Sys2Proof.Machine

/-! Tables. -/

@[simp] theorem tabGet_mapPut_same {α : Type} (m : List (Nat × α)) (k : Nat) (v : α) : tabGet (mapPut m k v) k = some v := by
  induction m with
  | nil => simp [mapPut, tabGet]
  | cons p m ih =>
    obtain ⟨k', v'⟩ := p
    simp only [mapPut]
    split
    · simp [tabGet]
    · split
      · simp [tabGet]
      · rename_i h
        simp [tabGet, Ne.symm h, ih]
theorem tabGet_mapPut_ne {α : Type} (m : List (Nat × α)) (k j : Nat) (v : α) (h : j ≠ k) : tabGet (mapPut m k v) j = tabGet m j := by
  induction m with
  | nil => simp [mapPut, tabGet, Ne.symm h]
  | cons p m ih =>
    obtain ⟨k', v'⟩ := p
    simp only [mapPut]
    split
    · simp [tabGet, Ne.symm h]
    · split
      · rename_i e
        subst e
        simp [tabGet, Ne.symm h]
      · simp [tabGet, ih]
@[simp] theorem tabGet_mapDel_same {α : Type} (m : List (Nat × α)) (k : Nat) : tabGet (mapDel m k) k = none := by
  induction m with
  | nil => rfl
  | cons p m ih =>
    obtain ⟨k', v'⟩ := p
    by_cases h : k' = k
    · simpa [mapDel, h] using ih
    · simpa [mapDel, h, tabGet] using ih
theorem tabGet_mapDel_ne {α : Type} (m : List (Nat × α)) (k j : Nat) (h : j ≠ k) : tabGet (mapDel m k) j = tabGet m j := by
  induction m with
  | nil => rfl
  | cons p m ih =>
    obtain ⟨k', v'⟩ := p
    by_cases e : k' = k
    · simpa [mapDel, e, tabGet, Ne.symm h] using ih
    · by_cases e' : k' = j
      · simp [mapDel, tabGet, e', h]
      · simpa [mapDel, e, tabGet, e'] using ih
theorem mapGet_eq {α : Type} (d : α) (m : List (Nat × α)) (k : Nat) : mapGet d m k = (tabGet m k).getD d := by
  induction m with
  | nil => rfl
  | cons p m ih =>
    obtain ⟨k', v'⟩ := p
    by_cases h : k' = k <;> simp [mapGet, tabGet, h, ih]
@[simp] theorem mapGet_mapPut_same {α : Type} (d : α) (m : List (Nat × α)) (k : Nat) (v : α) : mapGet d (mapPut m k v) k = v := by
  simp [mapGet_eq]
theorem mapGet_mapPut_ne {α : Type} (d : α) (m : List (Nat × α)) (k j : Nat) (v : α) (h : j ≠ k) :
    mapGet d (mapPut m k v) j = mapGet d m j := by
  simp [mapGet_eq, tabGet_mapPut_ne m k j v h]
@[simp] theorem mapGet_mapDel_same {α : Type} (d : α) (m : List (Nat × α)) (k : Nat) : mapGet d (mapDel m k) k = d := by
  simp [mapGet_eq]
theorem mapGet_mapDel_ne {α : Type} (d : α) (m : List (Nat × α)) (k j : Nat) (h : j ≠ k) :
    mapGet d (mapDel m k) j = mapGet d m j := by
  simp [mapGet_eq, tabGet_mapDel_ne m k j h]
@[simp] theorem mapGet_mapSet_same {α : Type} [DecidableEq α] (d : α) (m : List (Nat × α)) (k : Nat) (v : α) :
    mapGet d (mapSet d m k v) k = v := by
  unfold mapSet
  split <;> simp_all
theorem mapGet_mapSet_ne {α : Type} [DecidableEq α] (d : α) (m : List (Nat × α)) (k j : Nat) (v : α) (h : j ≠ k) :
    mapGet d (mapSet d m k v) j = mapGet d m j := by
  unfold mapSet
  split
  · exact mapGet_mapDel_ne d m k j h
  · exact mapGet_mapPut_ne d m k j v h

theorem mapPut_mapPut {α : Type} (m : List (Nat × α)) (k : Nat) (v w : α) : mapPut (mapPut m k v) k w = mapPut m k w := by
  induction m with
  | nil => simp [mapPut]
  | cons p m ih =>
    obtain ⟨k', v'⟩ := p
    simp only [mapPut]
    split
    · simp [mapPut]
    · split
      · simp [mapPut]
      · rename_i h1 h2
        simp [mapPut, h1, h2, ih]

/-! The canonical form. -/

theorem mapAbove_mapPut {α : Type} (m : List (Nat × α)) (lo k : Nat) (v : α) (h : mapAbove lo m = true) (hk : lo < k) :
    mapAbove lo (mapPut m k v) = true := by
  induction m generalizing lo with
  | nil => simp [mapPut, mapAbove, hk]
  | cons p m ih =>
    obtain ⟨k', v'⟩ := p
    simp only [mapAbove, Bool.and_eq_true, decide_eq_true_eq] at h
    simp only [mapPut]
    split
    · rename_i h1
      simp [mapAbove, h.2, h1, hk]
    · split
      · rename_i h2
        subst h2
        simp [mapAbove, h.2, hk]
      · rename_i h1 h2
        simp [mapAbove, h.1, ih k' h.2 (by omega)]
theorem mapSorted_mapPut {α : Type} (m : List (Nat × α)) (k : Nat) (v : α) (h : mapSorted m = true) : mapSorted (mapPut m k v) = true := by
  cases m with
  | nil => simp [mapPut, mapSorted, mapAbove]
  | cons p m =>
    obtain ⟨k', v'⟩ := p
    simp only [mapSorted] at h
    simp only [mapPut]
    split
    · rename_i h1
      simp [mapSorted, mapAbove, h, h1]
    · split
      · rename_i h2
        subst h2
        simpa [mapSorted] using h
      · rename_i h1 h2
        simpa [mapSorted] using mapAbove_mapPut m k' k v h (by omega)
theorem mapAbove_weaken {α : Type} (m : List (Nat × α)) (lo lo' : Nat) (h : mapAbove lo m = true) (hl : lo' ≤ lo) : mapAbove lo' m = true := by
  cases m with
  | nil => rfl
  | cons p m =>
    simp only [mapAbove, Bool.and_eq_true, decide_eq_true_eq] at h ⊢
    exact ⟨by omega, h.2⟩
theorem mapAbove_filter {α : Type} (m : List (Nat × α)) (lo : Nat) (f : Nat × α → Bool) (h : mapAbove lo m = true) :
    mapAbove lo (m.filter f) = true := by
  induction m generalizing lo with
  | nil => rfl
  | cons p m ih =>
    obtain ⟨k', v'⟩ := p
    simp only [mapAbove, Bool.and_eq_true, decide_eq_true_eq] at h
    by_cases hf : f (k', v') = true
    · simp [hf, mapAbove, h.1, ih k' h.2]
    · simp only [hf, Bool.false_eq_true, not_false_eq_true, List.filter_cons_of_neg]
      exact ih lo (mapAbove_weaken m k' lo h.2 (by omega))
theorem mapSorted_filter {α : Type} (m : List (Nat × α)) (f : Nat × α → Bool) (h : mapSorted m = true) : mapSorted (m.filter f) = true := by
  induction m with
  | nil => rfl
  | cons p m ih =>
    obtain ⟨k', v'⟩ := p
    simp only [mapSorted] at h
    by_cases hf : f (k', v') = true
    · simp [hf, mapSorted, mapAbove_filter m k' f h]
    · simp only [hf, Bool.false_eq_true, not_false_eq_true, List.filter_cons_of_neg]
      apply ih
      cases m with
      | nil => rfl
      | cons q m =>
        simp only [mapAbove, Bool.and_eq_true] at h
        simpa [mapSorted] using h.2
theorem mapWf_filter {α : Type} [DecidableEq α] (d : α) (m : List (Nat × α)) (f : Nat × α → Bool) (h : mapWf d m = true) :
    mapWf d (m.filter f) = true := by
  simp only [mapWf, Bool.and_eq_true, List.all_eq_true, List.mem_filter] at h ⊢
  exact ⟨mapSorted_filter m f h.1, fun p hp => h.2 p hp.1⟩
theorem mem_mapPut {α : Type} (m : List (Nat × α)) (k : Nat) (v : α) (p : Nat × α) (h : p ∈ mapPut m k v) : p = (k, v) ∨ p ∈ m := by
  induction m with
  | nil => simpa [mapPut] using h
  | cons q m ih =>
    obtain ⟨k', v'⟩ := q
    simp only [mapPut] at h
    split at h
    · simp only [List.mem_cons] at h ⊢
      exact h
    · split at h
      · simp only [List.mem_cons] at h ⊢
        rcases h with h | h
        · exact .inl h
        · exact .inr (.inr h)
      · simp only [List.mem_cons] at h ⊢
        rcases h with h | h
        · exact .inr (.inl h)
        · rcases ih h with h | h
          · exact .inl h
          · exact .inr (.inr h)
theorem mapWf_mapPut {α : Type} [DecidableEq α] (d : α) (m : List (Nat × α)) (k : Nat) (v : α) (h : mapWf d m = true) (hv : v ≠ d) :
    mapWf d (mapPut m k v) = true := by
  simp only [mapWf, Bool.and_eq_true, List.all_eq_true] at h ⊢
  refine ⟨mapSorted_mapPut m k v h.1, fun p hp => ?_⟩
  rcases mem_mapPut m k v p hp with rfl | hp
  · simpa using hv
  · exact h.2 p hp
theorem mapWf_mapSet {α : Type} [DecidableEq α] (d : α) (m : List (Nat × α)) (k : Nat) (v : α) (h : mapWf d m = true) :
    mapWf d (mapSet d m k v) = true := by
  unfold mapSet
  split
  · exact mapWf_filter d m _ h
  · exact mapWf_mapPut d m k v h ‹_›

/-! Byte memories. -/

@[simp] theorem Memory.wf_nil : Memory.wf [] = true := rfl
theorem Memory.read_write_same (m : Memory) (a : Nat) (v : Byte) : (m.write a v).read a = v := by
  simp [Memory.read, Memory.write]
theorem Memory.read_write_ne (m : Memory) (a b : Nat) (v : Byte) (h : b ≠ a) : (m.write a v).read b = m.read b := by
  simp [Memory.read, Memory.write, mapGet_mapSet_ne _ _ _ _ _ h]
theorem Memory.write_wf (m : Memory) (a : Nat) (v : Byte) (h : m.wf = true) : (m.write a v).wf = true := mapWf_mapSet _ _ _ _ h
theorem Memory.filter_wf (m : Memory) (f : Host.Cell → Bool) (h : m.wf = true) : Memory.wf (m.filter f) = true := mapWf_filter _ _ _ h
/-- Bytes outside the written range read as before. -/
theorem Memory.read_writeBytes_outside (m : Memory) (a : Nat) (bs : List Byte) (b : Nat) (h : b < a ∨ a + bs.length ≤ b) :
    (m.writeBytes a bs).read b = m.read b := by
  induction bs generalizing m a with
  | nil => rfl
  | cons x bs ih =>
    simp only [Memory.writeBytes, List.length_cons] at h ⊢
    rw [ih _ _ (by omega), Memory.read_write_ne _ _ _ _ (by omega)]
/-- A written byte reads back. -/
theorem Memory.read_writeBytes_inside (m : Memory) (a : Nat) (bs : List Byte) (i : Nat) (h : i < bs.length) :
    (m.writeBytes a bs).read (a + i) = bs[i] := by
  induction bs generalizing m a i with
  | nil => simp at h
  | cons x bs ih =>
    simp only [Memory.writeBytes]
    cases i with
    | zero =>
      rw [Memory.read_writeBytes_outside _ _ _ _ (by omega)]
      exact Memory.read_write_same m a x
    | succ i =>
      have := ih (m.write a x) (a + 1) i (by simpa using h)
      rw [show a + 1 + i = a + (i + 1) by omega] at this
      simpa using this
theorem Memory.writeBytes_wf (m : Memory) (a : Nat) (bs : List Byte) (h : m.wf = true) : (m.writeBytes a bs).wf = true := by
  induction bs generalizing m a with
  | nil => exact h
  | cons x bs ih => exact ih _ _ (Memory.write_wf m a x h)
theorem Memory.writeNat_wf (m : Memory) (a n x : Nat) (h : m.wf = true) : (m.writeNat a n x).wf = true := Memory.writeBytes_wf m a _ h
theorem bytesOfNat_length (n x : Nat) : (bytesOfNat n x).length = n := by
  induction n generalizing x with
  | zero => rfl
  | succ n ih => simp [bytesOfNat, ih]
theorem natOfBytes_bytesOfNat (n x : Nat) : natOfBytes (bytesOfNat n x) = x % 2 ^ (8 * n) := by
  induction n generalizing x with
  | zero => simp [bytesOfNat, natOfBytes, Nat.mod_one]
  | succ n ih =>
    simp only [bytesOfNat, natOfBytes, ih, BitVec.toNat_ofNat]
    rw [show 8 * (n + 1) = 8 + 8 * n by omega, Nat.pow_add, Nat.mod_mul]
theorem Memory.readBytes_writeBytes (m : Memory) (a : Nat) (bs : List Byte) : (m.writeBytes a bs).readBytes a bs.length = bs := by
  apply List.ext_getElem
  · simp [Memory.readBytes]
  · intro i h1 h2
    simp only [Memory.readBytes, List.getElem_map, List.getElem_range]
    exact Memory.read_writeBytes_inside m a bs i h2
/-- A number written reads back, reduced to the bytes written. -/
theorem Memory.readNat_writeNat (m : Memory) (a n x : Nat) : (m.writeNat a n x).readNat a n = x % 2 ^ (8 * n) := by
  unfold Memory.readNat Memory.writeNat
  have h := Memory.readBytes_writeBytes m a (bytesOfNat n x)
  rw [bytesOfNat_length] at h
  rw [h, natOfBytes_bytesOfNat]

/-! Lanes and lane sets. -/

@[simp] theorem lane_laneFn (f : Nat → Word) (i : Nat) (h : i < 32) : lane (laneFn f) i = f i := by
  simp [lane, laneFn, h]
theorem lane_ext (v w : LaneVec) (h : ∀ i, i < 32 → lane v i = lane w i) : v = w := by
  apply Vector.ext
  intro i hi
  simpa [lane, hi] using h i hi

theorem maskSum_lt (f : Nat → Bool) (n : Nat) :
    (List.range n).foldl (fun a i => if f i then a + 2 ^ i else a) 0 < 2 ^ n := by
  induction n with
  | zero => simp
  | succ n ih =>
    simp only [List.range_succ, List.foldl_append, List.foldl_cons, List.foldl_nil, Nat.pow_succ]
    split <;> omega
theorem maskSum_testBit (f : Nat → Bool) (n i : Nat) (h : i < n) :
    ((List.range n).foldl (fun a i => if f i then a + 2 ^ i else a) 0).testBit i = f i := by
  induction n with
  | zero => omega
  | succ n ih =>
    have hl := maskSum_lt f n
    simp only [List.range_succ, List.foldl_append, List.foldl_cons, List.foldl_nil]
    by_cases hi : i = n
    · subst hi
      split
      · rename_i hf
        rw [Nat.add_comm, Nat.testBit_two_pow_add_eq, Nat.testBit_lt_two_pow hl, hf]
        rfl
      · rename_i hf
        rw [Nat.testBit_lt_two_pow hl]
        simpa using hf
    · split
      · rw [Nat.add_comm, Nat.testBit_two_pow_add_gt (by omega), ih (by omega)]
      · exact ih (by omega)
@[simp] theorem maskFn_getLsbD (f : Nat → Bool) (i : Nat) (h : i < 32) : (maskFn f).getLsbD i = f i := by
  unfold maskFn laneNums
  rw [BitVec.getLsbD_ofNat, maskSum_testBit f 32 i h]
  simp [h]

end Sys2Proof.Machine
end

