-- ==== Sys2Proof/Laws/Memories.lean ====
section
/-! SUPPORT. Every operation that writes a memory of State keeps its canonical form (log entry 3). -/

namespace Sys2Proof.Machine

theorem zeroRange_wf (m : Memory) (lo n : Nat) (h : m.wf = true) : (zeroRange m lo n).wf = true := Memory.filter_wf m _ h
/-- A fold of operations that each keep the form keeps it. -/
theorem foldl_wf {α : Type} (f : Memory → α → Memory) (hf : ∀ m x, m.wf = true → (f m x).wf = true) (l : List α) (m : Memory)
    (h : m.wf = true) : (l.foldl f m).wf = true := by
  induction l generalizing m with
  | nil => exact h
  | cons x l ih => exact ih _ (hf m x h)
theorem setPte_wf (s : State) (part addr e : Nat) (h : s.sysm.wf = true) : (s.setPte part addr e).sysm.wf = true :=
  Memory.writeNat_wf _ _ _ _ h
theorem storeLane_wf (s : State) (key : Nat) (bit : Int) (w v : Nat) (h : s.lmem.wf = true) : (storeLane s key bit w v).lmem.wf = true :=
  Memory.writeBytes_wf _ _ _ h
theorem updateBarrier_wf (s : State) (key n a c : Nat) (h : s.cmem.wf = true) : (s.updateBarrier key n a c).cmem.wf = true :=
  Memory.writeNat_wf _ _ _ _ h
theorem arriveAt_wf (s : State) (a : Agent) (addr n u c : Nat) (h : s.cmem.wf = true) : (s.arriveAt a addr n u c).cmem.wf = true := by
  unfold State.arriveAt
  split
  · exact updateBarrier_wf _ _ _ _ _ h
  · exact h
theorem zeroTeam_wf (s : State) (t : Team) (hc : s.cmem.wf = true) (hl : s.lmem.wf = true) :
    (s.zeroTeam t).cmem.wf = true ∧ (s.zeroTeam t).lmem.wf = true :=
  ⟨zeroRange_wf _ _ _ hc, foldl_wf _ (fun m _ h => zeroRange_wf m _ _ h) _ _ hl⟩
/-- Two states whose memories are the same. -/
def KeepsMemories (s t : State) : Prop :=
  t.dmem = s.dmem ∧ t.hmem = s.hmem ∧ t.sysm = s.sysm ∧ t.cmem = s.cmem ∧ t.lmem = s.lmem ∧ t.savm = s.savm

theorem KeepsMemories.refl (s : State) : KeepsMemories s s := ⟨rfl, rfl, rfl, rfl, rfl, rfl⟩
theorem KeepsMemories.trans {s t u : State} (h : KeepsMemories s t) (g : KeepsMemories t u) : KeepsMemories s u := by
  obtain ⟨h1, h2, h3, h4, h5, h6⟩ := h
  obtain ⟨g1, g2, g3, g4, g5, g6⟩ := g
  exact ⟨g1.trans h1, g2.trans h2, g3.trans h3, g4.trans h4, g5.trans h5, g6.trans h6⟩
theorem KeepsMemories.wf {s t : State} (h : KeepsMemories s t) (hw : MemoriesWf s) : MemoriesWf t := by
  obtain ⟨h1, h2, h3, h4, h5, h6⟩ := h
  simpa [MemoriesWf, h1, h2, h3, h4, h5, h6] using hw
theorem setCg_keeps (s : State) (c : Nat) (x : Cg) : KeepsMemories s (s.setCg c x) := KeepsMemories.refl s
theorem seek_keeps (s : State) (n : Nat) (ps : List Nat) : KeepsMemories s (s.seek n ps) := by
  unfold State.seek
  dsimp only
  repeat' split
  all_goals exact KeepsMemories.refl s
theorem sendOn_keeps (s : State) (n : Option Nat) (ps : List Nat) (p : Packet) : KeepsMemories s (s.sendOn n ps p) := by
  unfold State.sendOn
  cases n with
  | none => exact KeepsMemories.refl s
  | some n => exact seek_keeps s n ps
theorem peerAccess_keeps (s : State) (e va n : Nat) (req : List Nat) : KeepsMemories s (s.peerAccess e va n req).2 :=
  (KeepsMemories.refl s).trans (sendOn_keeps _ _ _ _)
theorem activate_keeps (s : State) (c frame part : Nat) (m : Bool) : KeepsMemories s (s.activate c frame part m) := by
  unfold State.activate
  split
  · exact KeepsMemories.refl s
  · split
    · exact KeepsMemories.refl s
    · exact ⟨rfl, rfl, rfl, rfl, rfl, rfl⟩
theorem meetChunk_keeps (s : State) (c gran frame sid va n op ctx e : Nat) (pol : Option Word) (w : Bool) :
    KeepsMemories s (s.meetChunk c gran frame sid va n op ctx e pol w) :=
  (setCg_keeps s c _).trans (activate_keeps _ _ _ _ _)
theorem frameFor_keeps {s t : State} {loc : Loc} {src : Option Nat} (h : s.frameFor loc src = .ok t) : KeepsMemories s t := by
  unfold State.frameFor at h
  repeat' split at h
  all_goals cases h
  all_goals exact KeepsMemories.refl s

theorem writeDmem_wf (s : State) (a : Nat) (bs : List Byte) (h : MemoriesWf s) :
    MemoriesWf { s with dmem := s.dmem.writeBytes a bs } := ⟨Memory.writeBytes_wf _ _ _ h.1, h.2⟩

/-- A piece written keeps the form of device and host memory, and no other memory changes. -/
theorem writePiece_wf (s t : State) (loc : Loc) (bs : List Byte) (op ctx : Nat) (pol : Option Word)
    (h : s.writePiece loc bs op ctx pol = .ok t) (hw : MemoriesWf s) : MemoriesWf t := by
  unfold State.writePiece at h
  cases loc with
  | device c sid va e =>
    simp only at h
    split at h
    · cases h
    · rename_i u hu
      cases h
      exact writeDmem_wf _ _ _ ((meetChunk_keeps _ _ _ _ _ _ _ _ _ _ _ _).wf ((frameFor_keeps hu).wf hw))
  | host pa e =>
    cases h
    exact ⟨hw.1, Memory.writeBytes_wf _ _ _ hw.2.1, hw.2.2⟩
  | peer a b c =>
    cases h
    exact (peerAccess_keeps s a b _ _).wf hw

end Sys2Proof.Machine
end

