-- ==== Sys2Proof/Laws/State.lean ====
section
/-! SUPPORT. What each update of the state and of an agent leaves as it was: one lemma per field per update, and the
lookups after an update. -/

namespace Sys2Proof.Machine

/-! Fields of the state after an update of one table. -/

@[simp] theorem State.setAgent_cur (s : State) (k : Nat) (x : Agent) : (s.setAgent k x).cur = s.cur := rfl
@[simp] theorem State.setAgent_fresh (s : State) (k : Nat) (x : Agent) : (s.setAgent k x).fresh = s.fresh := rfl
@[simp] theorem State.setAgent_agenda (s : State) (k : Nat) (x : Agent) : (s.setAgent k x).agenda = s.agenda := rfl
@[simp] theorem State.setAgent_turn (s : State) (k : Nat) (x : Agent) : (s.setAgent k x).turn = s.turn := rfl
@[simp] theorem State.setAgent_mgmt (s : State) (k : Nat) (x : Agent) : (s.setAgent k x).mgmt = s.mgmt := rfl
@[simp] theorem State.setAgent_hub (s : State) (k : Nat) (x : Agent) : (s.setAgent k x).hub = s.hub := rfl
@[simp] theorem State.setAgent_parts (s : State) (k : Nat) (x : Agent) : (s.setAgent k x).parts = s.parts := rfl
@[simp] theorem State.setAgent_ctxs (s : State) (k : Nat) (x : Agent) : (s.setAgent k x).ctxs = s.ctxs := rfl
@[simp] theorem State.setAgent_spaces (s : State) (k : Nat) (x : Agent) : (s.setAgent k x).spaces = s.spaces := rfl
@[simp] theorem State.setAgent_grids (s : State) (k : Nat) (x : Agent) : (s.setAgent k x).grids = s.grids := rfl
@[simp] theorem State.setAgent_nextGrid (s : State) (k : Nat) (x : Agent) : (s.setAgent k x).nextGrid = s.nextGrid := rfl
@[simp] theorem State.setAgent_teams (s : State) (k : Nat) (x : Agent) : (s.setAgent k x).teams = s.teams := rfl
@[simp] theorem State.setAgent_nextTeam (s : State) (k : Nat) (x : Agent) : (s.setAgent k x).nextTeam = s.nextTeam := rfl
@[simp] theorem State.setAgent_nextAgent (s : State) (k : Nat) (x : Agent) : (s.setAgent k x).nextAgent = s.nextAgent := rfl
@[simp] theorem State.setAgent_nextSave (s : State) (k : Nat) (x : Agent) : (s.setAgent k x).nextSave = s.nextSave := rfl
@[simp] theorem State.setAgent_quads (s : State) (k : Nat) (x : Agent) : (s.setAgent k x).quads = s.quads := rfl
@[simp] theorem State.setAgent_cgs (s : State) (k : Nat) (x : Agent) : (s.setAgent k x).cgs = s.cgs := rfl
@[simp] theorem State.setAgent_vfs (s : State) (k : Nat) (x : Agent) : (s.setAgent k x).vfs = s.vfs := rfl
@[simp] theorem State.setAgent_access (s : State) (k : Nat) (x : Agent) : (s.setAgent k x).access = s.access := rfl
@[simp] theorem State.setAgent_purges (s : State) (k : Nat) (x : Agent) : (s.setAgent k x).purges = s.purges := rfl
@[simp] theorem State.setAgent_savm (s : State) (k : Nat) (x : Agent) : (s.setAgent k x).savm = s.savm := rfl
@[simp] theorem State.setAgent_dmem (s : State) (k : Nat) (x : Agent) : (s.setAgent k x).dmem = s.dmem := rfl
@[simp] theorem State.setAgent_hmem (s : State) (k : Nat) (x : Agent) : (s.setAgent k x).hmem = s.hmem := rfl
@[simp] theorem State.setAgent_sysm (s : State) (k : Nat) (x : Agent) : (s.setAgent k x).sysm = s.sysm := rfl
@[simp] theorem State.setAgent_cmem (s : State) (k : Nat) (x : Agent) : (s.setAgent k x).cmem = s.cmem := rfl
@[simp] theorem State.setAgent_lmem (s : State) (k : Nat) (x : Agent) : (s.setAgent k x).lmem = s.lmem := rfl
@[simp] theorem State.delAgent_cur (s : State) (k : Nat) : (s.delAgent k).cur = s.cur := rfl
@[simp] theorem State.delAgent_fresh (s : State) (k : Nat) : (s.delAgent k).fresh = s.fresh := rfl
@[simp] theorem State.delAgent_agenda (s : State) (k : Nat) : (s.delAgent k).agenda = s.agenda := rfl
@[simp] theorem State.delAgent_turn (s : State) (k : Nat) : (s.delAgent k).turn = s.turn := rfl
@[simp] theorem State.delAgent_mgmt (s : State) (k : Nat) : (s.delAgent k).mgmt = s.mgmt := rfl
@[simp] theorem State.delAgent_hub (s : State) (k : Nat) : (s.delAgent k).hub = s.hub := rfl
@[simp] theorem State.delAgent_parts (s : State) (k : Nat) : (s.delAgent k).parts = s.parts := rfl
@[simp] theorem State.delAgent_ctxs (s : State) (k : Nat) : (s.delAgent k).ctxs = s.ctxs := rfl
@[simp] theorem State.delAgent_spaces (s : State) (k : Nat) : (s.delAgent k).spaces = s.spaces := rfl
@[simp] theorem State.delAgent_grids (s : State) (k : Nat) : (s.delAgent k).grids = s.grids := rfl
@[simp] theorem State.delAgent_nextGrid (s : State) (k : Nat) : (s.delAgent k).nextGrid = s.nextGrid := rfl
@[simp] theorem State.delAgent_teams (s : State) (k : Nat) : (s.delAgent k).teams = s.teams := rfl
@[simp] theorem State.delAgent_nextTeam (s : State) (k : Nat) : (s.delAgent k).nextTeam = s.nextTeam := rfl
@[simp] theorem State.delAgent_nextAgent (s : State) (k : Nat) : (s.delAgent k).nextAgent = s.nextAgent := rfl
@[simp] theorem State.delAgent_nextSave (s : State) (k : Nat) : (s.delAgent k).nextSave = s.nextSave := rfl
@[simp] theorem State.delAgent_quads (s : State) (k : Nat) : (s.delAgent k).quads = s.quads := rfl
@[simp] theorem State.delAgent_cgs (s : State) (k : Nat) : (s.delAgent k).cgs = s.cgs := rfl
@[simp] theorem State.delAgent_vfs (s : State) (k : Nat) : (s.delAgent k).vfs = s.vfs := rfl
@[simp] theorem State.delAgent_access (s : State) (k : Nat) : (s.delAgent k).access = s.access := rfl
@[simp] theorem State.delAgent_purges (s : State) (k : Nat) : (s.delAgent k).purges = s.purges := rfl
@[simp] theorem State.delAgent_savm (s : State) (k : Nat) : (s.delAgent k).savm = s.savm := rfl
@[simp] theorem State.delAgent_dmem (s : State) (k : Nat) : (s.delAgent k).dmem = s.dmem := rfl
@[simp] theorem State.delAgent_hmem (s : State) (k : Nat) : (s.delAgent k).hmem = s.hmem := rfl
@[simp] theorem State.delAgent_sysm (s : State) (k : Nat) : (s.delAgent k).sysm = s.sysm := rfl
@[simp] theorem State.delAgent_cmem (s : State) (k : Nat) : (s.delAgent k).cmem = s.cmem := rfl
@[simp] theorem State.delAgent_lmem (s : State) (k : Nat) : (s.delAgent k).lmem = s.lmem := rfl
@[simp] theorem State.setQuad_cur (s : State) (k : Nat) (x : Quad) : (s.setQuad k x).cur = s.cur := rfl
@[simp] theorem State.setQuad_fresh (s : State) (k : Nat) (x : Quad) : (s.setQuad k x).fresh = s.fresh := rfl
@[simp] theorem State.setQuad_agenda (s : State) (k : Nat) (x : Quad) : (s.setQuad k x).agenda = s.agenda := rfl
@[simp] theorem State.setQuad_turn (s : State) (k : Nat) (x : Quad) : (s.setQuad k x).turn = s.turn := rfl
@[simp] theorem State.setQuad_mgmt (s : State) (k : Nat) (x : Quad) : (s.setQuad k x).mgmt = s.mgmt := rfl
@[simp] theorem State.setQuad_hub (s : State) (k : Nat) (x : Quad) : (s.setQuad k x).hub = s.hub := rfl
@[simp] theorem State.setQuad_parts (s : State) (k : Nat) (x : Quad) : (s.setQuad k x).parts = s.parts := rfl
@[simp] theorem State.setQuad_ctxs (s : State) (k : Nat) (x : Quad) : (s.setQuad k x).ctxs = s.ctxs := rfl
@[simp] theorem State.setQuad_spaces (s : State) (k : Nat) (x : Quad) : (s.setQuad k x).spaces = s.spaces := rfl
@[simp] theorem State.setQuad_grids (s : State) (k : Nat) (x : Quad) : (s.setQuad k x).grids = s.grids := rfl
@[simp] theorem State.setQuad_nextGrid (s : State) (k : Nat) (x : Quad) : (s.setQuad k x).nextGrid = s.nextGrid := rfl
@[simp] theorem State.setQuad_teams (s : State) (k : Nat) (x : Quad) : (s.setQuad k x).teams = s.teams := rfl
@[simp] theorem State.setQuad_nextTeam (s : State) (k : Nat) (x : Quad) : (s.setQuad k x).nextTeam = s.nextTeam := rfl
@[simp] theorem State.setQuad_agents (s : State) (k : Nat) (x : Quad) : (s.setQuad k x).agents = s.agents := rfl
@[simp] theorem State.setQuad_nextAgent (s : State) (k : Nat) (x : Quad) : (s.setQuad k x).nextAgent = s.nextAgent := rfl
@[simp] theorem State.setQuad_nextSave (s : State) (k : Nat) (x : Quad) : (s.setQuad k x).nextSave = s.nextSave := rfl
@[simp] theorem State.setQuad_cgs (s : State) (k : Nat) (x : Quad) : (s.setQuad k x).cgs = s.cgs := rfl
@[simp] theorem State.setQuad_vfs (s : State) (k : Nat) (x : Quad) : (s.setQuad k x).vfs = s.vfs := rfl
@[simp] theorem State.setQuad_access (s : State) (k : Nat) (x : Quad) : (s.setQuad k x).access = s.access := rfl
@[simp] theorem State.setQuad_purges (s : State) (k : Nat) (x : Quad) : (s.setQuad k x).purges = s.purges := rfl
@[simp] theorem State.setQuad_savm (s : State) (k : Nat) (x : Quad) : (s.setQuad k x).savm = s.savm := rfl
@[simp] theorem State.setQuad_dmem (s : State) (k : Nat) (x : Quad) : (s.setQuad k x).dmem = s.dmem := rfl
@[simp] theorem State.setQuad_hmem (s : State) (k : Nat) (x : Quad) : (s.setQuad k x).hmem = s.hmem := rfl
@[simp] theorem State.setQuad_sysm (s : State) (k : Nat) (x : Quad) : (s.setQuad k x).sysm = s.sysm := rfl
@[simp] theorem State.setQuad_cmem (s : State) (k : Nat) (x : Quad) : (s.setQuad k x).cmem = s.cmem := rfl
@[simp] theorem State.setQuad_lmem (s : State) (k : Nat) (x : Quad) : (s.setQuad k x).lmem = s.lmem := rfl
@[simp] theorem State.setCg_cur (s : State) (k : Nat) (x : Cg) : (s.setCg k x).cur = s.cur := rfl
@[simp] theorem State.setCg_fresh (s : State) (k : Nat) (x : Cg) : (s.setCg k x).fresh = s.fresh := rfl
@[simp] theorem State.setCg_agenda (s : State) (k : Nat) (x : Cg) : (s.setCg k x).agenda = s.agenda := rfl
@[simp] theorem State.setCg_turn (s : State) (k : Nat) (x : Cg) : (s.setCg k x).turn = s.turn := rfl
@[simp] theorem State.setCg_mgmt (s : State) (k : Nat) (x : Cg) : (s.setCg k x).mgmt = s.mgmt := rfl
@[simp] theorem State.setCg_hub (s : State) (k : Nat) (x : Cg) : (s.setCg k x).hub = s.hub := rfl
@[simp] theorem State.setCg_parts (s : State) (k : Nat) (x : Cg) : (s.setCg k x).parts = s.parts := rfl
@[simp] theorem State.setCg_ctxs (s : State) (k : Nat) (x : Cg) : (s.setCg k x).ctxs = s.ctxs := rfl
@[simp] theorem State.setCg_spaces (s : State) (k : Nat) (x : Cg) : (s.setCg k x).spaces = s.spaces := rfl
@[simp] theorem State.setCg_grids (s : State) (k : Nat) (x : Cg) : (s.setCg k x).grids = s.grids := rfl
@[simp] theorem State.setCg_nextGrid (s : State) (k : Nat) (x : Cg) : (s.setCg k x).nextGrid = s.nextGrid := rfl
@[simp] theorem State.setCg_teams (s : State) (k : Nat) (x : Cg) : (s.setCg k x).teams = s.teams := rfl
@[simp] theorem State.setCg_nextTeam (s : State) (k : Nat) (x : Cg) : (s.setCg k x).nextTeam = s.nextTeam := rfl
@[simp] theorem State.setCg_agents (s : State) (k : Nat) (x : Cg) : (s.setCg k x).agents = s.agents := rfl
@[simp] theorem State.setCg_nextAgent (s : State) (k : Nat) (x : Cg) : (s.setCg k x).nextAgent = s.nextAgent := rfl
@[simp] theorem State.setCg_nextSave (s : State) (k : Nat) (x : Cg) : (s.setCg k x).nextSave = s.nextSave := rfl
@[simp] theorem State.setCg_quads (s : State) (k : Nat) (x : Cg) : (s.setCg k x).quads = s.quads := rfl
@[simp] theorem State.setCg_vfs (s : State) (k : Nat) (x : Cg) : (s.setCg k x).vfs = s.vfs := rfl
@[simp] theorem State.setCg_access (s : State) (k : Nat) (x : Cg) : (s.setCg k x).access = s.access := rfl
@[simp] theorem State.setCg_purges (s : State) (k : Nat) (x : Cg) : (s.setCg k x).purges = s.purges := rfl
@[simp] theorem State.setCg_savm (s : State) (k : Nat) (x : Cg) : (s.setCg k x).savm = s.savm := rfl
@[simp] theorem State.setCg_dmem (s : State) (k : Nat) (x : Cg) : (s.setCg k x).dmem = s.dmem := rfl
@[simp] theorem State.setCg_hmem (s : State) (k : Nat) (x : Cg) : (s.setCg k x).hmem = s.hmem := rfl
@[simp] theorem State.setCg_sysm (s : State) (k : Nat) (x : Cg) : (s.setCg k x).sysm = s.sysm := rfl
@[simp] theorem State.setCg_cmem (s : State) (k : Nat) (x : Cg) : (s.setCg k x).cmem = s.cmem := rfl
@[simp] theorem State.setCg_lmem (s : State) (k : Nat) (x : Cg) : (s.setCg k x).lmem = s.lmem := rfl
@[simp] theorem State.setTeam_cur (s : State) (k : Nat) (x : Team) : (s.setTeam k x).cur = s.cur := rfl
@[simp] theorem State.setTeam_fresh (s : State) (k : Nat) (x : Team) : (s.setTeam k x).fresh = s.fresh := rfl
@[simp] theorem State.setTeam_agenda (s : State) (k : Nat) (x : Team) : (s.setTeam k x).agenda = s.agenda := rfl
@[simp] theorem State.setTeam_turn (s : State) (k : Nat) (x : Team) : (s.setTeam k x).turn = s.turn := rfl
@[simp] theorem State.setTeam_mgmt (s : State) (k : Nat) (x : Team) : (s.setTeam k x).mgmt = s.mgmt := rfl
@[simp] theorem State.setTeam_hub (s : State) (k : Nat) (x : Team) : (s.setTeam k x).hub = s.hub := rfl
@[simp] theorem State.setTeam_parts (s : State) (k : Nat) (x : Team) : (s.setTeam k x).parts = s.parts := rfl
@[simp] theorem State.setTeam_ctxs (s : State) (k : Nat) (x : Team) : (s.setTeam k x).ctxs = s.ctxs := rfl
@[simp] theorem State.setTeam_spaces (s : State) (k : Nat) (x : Team) : (s.setTeam k x).spaces = s.spaces := rfl
@[simp] theorem State.setTeam_grids (s : State) (k : Nat) (x : Team) : (s.setTeam k x).grids = s.grids := rfl
@[simp] theorem State.setTeam_nextGrid (s : State) (k : Nat) (x : Team) : (s.setTeam k x).nextGrid = s.nextGrid := rfl
@[simp] theorem State.setTeam_nextTeam (s : State) (k : Nat) (x : Team) : (s.setTeam k x).nextTeam = s.nextTeam := rfl
@[simp] theorem State.setTeam_agents (s : State) (k : Nat) (x : Team) : (s.setTeam k x).agents = s.agents := rfl
@[simp] theorem State.setTeam_nextAgent (s : State) (k : Nat) (x : Team) : (s.setTeam k x).nextAgent = s.nextAgent := rfl
@[simp] theorem State.setTeam_nextSave (s : State) (k : Nat) (x : Team) : (s.setTeam k x).nextSave = s.nextSave := rfl
@[simp] theorem State.setTeam_quads (s : State) (k : Nat) (x : Team) : (s.setTeam k x).quads = s.quads := rfl
@[simp] theorem State.setTeam_cgs (s : State) (k : Nat) (x : Team) : (s.setTeam k x).cgs = s.cgs := rfl
@[simp] theorem State.setTeam_vfs (s : State) (k : Nat) (x : Team) : (s.setTeam k x).vfs = s.vfs := rfl
@[simp] theorem State.setTeam_access (s : State) (k : Nat) (x : Team) : (s.setTeam k x).access = s.access := rfl
@[simp] theorem State.setTeam_purges (s : State) (k : Nat) (x : Team) : (s.setTeam k x).purges = s.purges := rfl
@[simp] theorem State.setTeam_savm (s : State) (k : Nat) (x : Team) : (s.setTeam k x).savm = s.savm := rfl
@[simp] theorem State.setTeam_dmem (s : State) (k : Nat) (x : Team) : (s.setTeam k x).dmem = s.dmem := rfl
@[simp] theorem State.setTeam_hmem (s : State) (k : Nat) (x : Team) : (s.setTeam k x).hmem = s.hmem := rfl
@[simp] theorem State.setTeam_sysm (s : State) (k : Nat) (x : Team) : (s.setTeam k x).sysm = s.sysm := rfl
@[simp] theorem State.setTeam_cmem (s : State) (k : Nat) (x : Team) : (s.setTeam k x).cmem = s.cmem := rfl
@[simp] theorem State.setTeam_lmem (s : State) (k : Nat) (x : Team) : (s.setTeam k x).lmem = s.lmem := rfl
@[simp] theorem State.setGrid_cur (s : State) (k : Nat) (x : Grid) : (s.setGrid k x).cur = s.cur := rfl
@[simp] theorem State.setGrid_fresh (s : State) (k : Nat) (x : Grid) : (s.setGrid k x).fresh = s.fresh := rfl
@[simp] theorem State.setGrid_agenda (s : State) (k : Nat) (x : Grid) : (s.setGrid k x).agenda = s.agenda := rfl
@[simp] theorem State.setGrid_turn (s : State) (k : Nat) (x : Grid) : (s.setGrid k x).turn = s.turn := rfl
@[simp] theorem State.setGrid_mgmt (s : State) (k : Nat) (x : Grid) : (s.setGrid k x).mgmt = s.mgmt := rfl
@[simp] theorem State.setGrid_hub (s : State) (k : Nat) (x : Grid) : (s.setGrid k x).hub = s.hub := rfl
@[simp] theorem State.setGrid_parts (s : State) (k : Nat) (x : Grid) : (s.setGrid k x).parts = s.parts := rfl
@[simp] theorem State.setGrid_ctxs (s : State) (k : Nat) (x : Grid) : (s.setGrid k x).ctxs = s.ctxs := rfl
@[simp] theorem State.setGrid_spaces (s : State) (k : Nat) (x : Grid) : (s.setGrid k x).spaces = s.spaces := rfl
@[simp] theorem State.setGrid_nextGrid (s : State) (k : Nat) (x : Grid) : (s.setGrid k x).nextGrid = s.nextGrid := rfl
@[simp] theorem State.setGrid_teams (s : State) (k : Nat) (x : Grid) : (s.setGrid k x).teams = s.teams := rfl
@[simp] theorem State.setGrid_nextTeam (s : State) (k : Nat) (x : Grid) : (s.setGrid k x).nextTeam = s.nextTeam := rfl
@[simp] theorem State.setGrid_agents (s : State) (k : Nat) (x : Grid) : (s.setGrid k x).agents = s.agents := rfl
@[simp] theorem State.setGrid_nextAgent (s : State) (k : Nat) (x : Grid) : (s.setGrid k x).nextAgent = s.nextAgent := rfl
@[simp] theorem State.setGrid_nextSave (s : State) (k : Nat) (x : Grid) : (s.setGrid k x).nextSave = s.nextSave := rfl
@[simp] theorem State.setGrid_quads (s : State) (k : Nat) (x : Grid) : (s.setGrid k x).quads = s.quads := rfl
@[simp] theorem State.setGrid_cgs (s : State) (k : Nat) (x : Grid) : (s.setGrid k x).cgs = s.cgs := rfl
@[simp] theorem State.setGrid_vfs (s : State) (k : Nat) (x : Grid) : (s.setGrid k x).vfs = s.vfs := rfl
@[simp] theorem State.setGrid_access (s : State) (k : Nat) (x : Grid) : (s.setGrid k x).access = s.access := rfl
@[simp] theorem State.setGrid_purges (s : State) (k : Nat) (x : Grid) : (s.setGrid k x).purges = s.purges := rfl
@[simp] theorem State.setGrid_savm (s : State) (k : Nat) (x : Grid) : (s.setGrid k x).savm = s.savm := rfl
@[simp] theorem State.setGrid_dmem (s : State) (k : Nat) (x : Grid) : (s.setGrid k x).dmem = s.dmem := rfl
@[simp] theorem State.setGrid_hmem (s : State) (k : Nat) (x : Grid) : (s.setGrid k x).hmem = s.hmem := rfl
@[simp] theorem State.setGrid_sysm (s : State) (k : Nat) (x : Grid) : (s.setGrid k x).sysm = s.sysm := rfl
@[simp] theorem State.setGrid_cmem (s : State) (k : Nat) (x : Grid) : (s.setGrid k x).cmem = s.cmem := rfl
@[simp] theorem State.setGrid_lmem (s : State) (k : Nat) (x : Grid) : (s.setGrid k x).lmem = s.lmem := rfl
@[simp] theorem State.setCtx_cur (s : State) (k : Nat) (x : Ctx) : (s.setCtx k x).cur = s.cur := rfl
@[simp] theorem State.setCtx_fresh (s : State) (k : Nat) (x : Ctx) : (s.setCtx k x).fresh = s.fresh := rfl
@[simp] theorem State.setCtx_agenda (s : State) (k : Nat) (x : Ctx) : (s.setCtx k x).agenda = s.agenda := rfl
@[simp] theorem State.setCtx_turn (s : State) (k : Nat) (x : Ctx) : (s.setCtx k x).turn = s.turn := rfl
@[simp] theorem State.setCtx_mgmt (s : State) (k : Nat) (x : Ctx) : (s.setCtx k x).mgmt = s.mgmt := rfl
@[simp] theorem State.setCtx_hub (s : State) (k : Nat) (x : Ctx) : (s.setCtx k x).hub = s.hub := rfl
@[simp] theorem State.setCtx_parts (s : State) (k : Nat) (x : Ctx) : (s.setCtx k x).parts = s.parts := rfl
@[simp] theorem State.setCtx_spaces (s : State) (k : Nat) (x : Ctx) : (s.setCtx k x).spaces = s.spaces := rfl
@[simp] theorem State.setCtx_grids (s : State) (k : Nat) (x : Ctx) : (s.setCtx k x).grids = s.grids := rfl
@[simp] theorem State.setCtx_nextGrid (s : State) (k : Nat) (x : Ctx) : (s.setCtx k x).nextGrid = s.nextGrid := rfl
@[simp] theorem State.setCtx_teams (s : State) (k : Nat) (x : Ctx) : (s.setCtx k x).teams = s.teams := rfl
@[simp] theorem State.setCtx_nextTeam (s : State) (k : Nat) (x : Ctx) : (s.setCtx k x).nextTeam = s.nextTeam := rfl
@[simp] theorem State.setCtx_agents (s : State) (k : Nat) (x : Ctx) : (s.setCtx k x).agents = s.agents := rfl
@[simp] theorem State.setCtx_nextAgent (s : State) (k : Nat) (x : Ctx) : (s.setCtx k x).nextAgent = s.nextAgent := rfl
@[simp] theorem State.setCtx_nextSave (s : State) (k : Nat) (x : Ctx) : (s.setCtx k x).nextSave = s.nextSave := rfl
@[simp] theorem State.setCtx_quads (s : State) (k : Nat) (x : Ctx) : (s.setCtx k x).quads = s.quads := rfl
@[simp] theorem State.setCtx_cgs (s : State) (k : Nat) (x : Ctx) : (s.setCtx k x).cgs = s.cgs := rfl
@[simp] theorem State.setCtx_vfs (s : State) (k : Nat) (x : Ctx) : (s.setCtx k x).vfs = s.vfs := rfl
@[simp] theorem State.setCtx_access (s : State) (k : Nat) (x : Ctx) : (s.setCtx k x).access = s.access := rfl
@[simp] theorem State.setCtx_purges (s : State) (k : Nat) (x : Ctx) : (s.setCtx k x).purges = s.purges := rfl
@[simp] theorem State.setCtx_savm (s : State) (k : Nat) (x : Ctx) : (s.setCtx k x).savm = s.savm := rfl
@[simp] theorem State.setCtx_dmem (s : State) (k : Nat) (x : Ctx) : (s.setCtx k x).dmem = s.dmem := rfl
@[simp] theorem State.setCtx_hmem (s : State) (k : Nat) (x : Ctx) : (s.setCtx k x).hmem = s.hmem := rfl
@[simp] theorem State.setCtx_sysm (s : State) (k : Nat) (x : Ctx) : (s.setCtx k x).sysm = s.sysm := rfl
@[simp] theorem State.setCtx_cmem (s : State) (k : Nat) (x : Ctx) : (s.setCtx k x).cmem = s.cmem := rfl
@[simp] theorem State.setCtx_lmem (s : State) (k : Nat) (x : Ctx) : (s.setCtx k x).lmem = s.lmem := rfl
@[simp] theorem State.setPart_cur (s : State) (k : Nat) (x : Part) : (s.setPart k x).cur = s.cur := rfl
@[simp] theorem State.setPart_fresh (s : State) (k : Nat) (x : Part) : (s.setPart k x).fresh = s.fresh := rfl
@[simp] theorem State.setPart_agenda (s : State) (k : Nat) (x : Part) : (s.setPart k x).agenda = s.agenda := rfl
@[simp] theorem State.setPart_turn (s : State) (k : Nat) (x : Part) : (s.setPart k x).turn = s.turn := rfl
@[simp] theorem State.setPart_mgmt (s : State) (k : Nat) (x : Part) : (s.setPart k x).mgmt = s.mgmt := rfl
@[simp] theorem State.setPart_hub (s : State) (k : Nat) (x : Part) : (s.setPart k x).hub = s.hub := rfl
@[simp] theorem State.setPart_ctxs (s : State) (k : Nat) (x : Part) : (s.setPart k x).ctxs = s.ctxs := rfl
@[simp] theorem State.setPart_spaces (s : State) (k : Nat) (x : Part) : (s.setPart k x).spaces = s.spaces := rfl
@[simp] theorem State.setPart_grids (s : State) (k : Nat) (x : Part) : (s.setPart k x).grids = s.grids := rfl
@[simp] theorem State.setPart_nextGrid (s : State) (k : Nat) (x : Part) : (s.setPart k x).nextGrid = s.nextGrid := rfl
@[simp] theorem State.setPart_teams (s : State) (k : Nat) (x : Part) : (s.setPart k x).teams = s.teams := rfl
@[simp] theorem State.setPart_nextTeam (s : State) (k : Nat) (x : Part) : (s.setPart k x).nextTeam = s.nextTeam := rfl
@[simp] theorem State.setPart_agents (s : State) (k : Nat) (x : Part) : (s.setPart k x).agents = s.agents := rfl
@[simp] theorem State.setPart_nextAgent (s : State) (k : Nat) (x : Part) : (s.setPart k x).nextAgent = s.nextAgent := rfl
@[simp] theorem State.setPart_nextSave (s : State) (k : Nat) (x : Part) : (s.setPart k x).nextSave = s.nextSave := rfl
@[simp] theorem State.setPart_quads (s : State) (k : Nat) (x : Part) : (s.setPart k x).quads = s.quads := rfl
@[simp] theorem State.setPart_cgs (s : State) (k : Nat) (x : Part) : (s.setPart k x).cgs = s.cgs := rfl
@[simp] theorem State.setPart_vfs (s : State) (k : Nat) (x : Part) : (s.setPart k x).vfs = s.vfs := rfl
@[simp] theorem State.setPart_access (s : State) (k : Nat) (x : Part) : (s.setPart k x).access = s.access := rfl
@[simp] theorem State.setPart_purges (s : State) (k : Nat) (x : Part) : (s.setPart k x).purges = s.purges := rfl
@[simp] theorem State.setPart_savm (s : State) (k : Nat) (x : Part) : (s.setPart k x).savm = s.savm := rfl
@[simp] theorem State.setPart_dmem (s : State) (k : Nat) (x : Part) : (s.setPart k x).dmem = s.dmem := rfl
@[simp] theorem State.setPart_hmem (s : State) (k : Nat) (x : Part) : (s.setPart k x).hmem = s.hmem := rfl
@[simp] theorem State.setPart_sysm (s : State) (k : Nat) (x : Part) : (s.setPart k x).sysm = s.sysm := rfl
@[simp] theorem State.setPart_cmem (s : State) (k : Nat) (x : Part) : (s.setPart k x).cmem = s.cmem := rfl
@[simp] theorem State.setPart_lmem (s : State) (k : Nat) (x : Part) : (s.setPart k x).lmem = s.lmem := rfl
@[simp] theorem State.setSpace_cur (s : State) (k : Nat) (x : Space) : (s.setSpace k x).cur = s.cur := rfl
@[simp] theorem State.setSpace_fresh (s : State) (k : Nat) (x : Space) : (s.setSpace k x).fresh = s.fresh := rfl
@[simp] theorem State.setSpace_agenda (s : State) (k : Nat) (x : Space) : (s.setSpace k x).agenda = s.agenda := rfl
@[simp] theorem State.setSpace_turn (s : State) (k : Nat) (x : Space) : (s.setSpace k x).turn = s.turn := rfl
@[simp] theorem State.setSpace_mgmt (s : State) (k : Nat) (x : Space) : (s.setSpace k x).mgmt = s.mgmt := rfl
@[simp] theorem State.setSpace_hub (s : State) (k : Nat) (x : Space) : (s.setSpace k x).hub = s.hub := rfl
@[simp] theorem State.setSpace_parts (s : State) (k : Nat) (x : Space) : (s.setSpace k x).parts = s.parts := rfl
@[simp] theorem State.setSpace_ctxs (s : State) (k : Nat) (x : Space) : (s.setSpace k x).ctxs = s.ctxs := rfl
@[simp] theorem State.setSpace_grids (s : State) (k : Nat) (x : Space) : (s.setSpace k x).grids = s.grids := rfl
@[simp] theorem State.setSpace_nextGrid (s : State) (k : Nat) (x : Space) : (s.setSpace k x).nextGrid = s.nextGrid := rfl
@[simp] theorem State.setSpace_teams (s : State) (k : Nat) (x : Space) : (s.setSpace k x).teams = s.teams := rfl
@[simp] theorem State.setSpace_nextTeam (s : State) (k : Nat) (x : Space) : (s.setSpace k x).nextTeam = s.nextTeam := rfl
@[simp] theorem State.setSpace_agents (s : State) (k : Nat) (x : Space) : (s.setSpace k x).agents = s.agents := rfl
@[simp] theorem State.setSpace_nextAgent (s : State) (k : Nat) (x : Space) : (s.setSpace k x).nextAgent = s.nextAgent := rfl
@[simp] theorem State.setSpace_nextSave (s : State) (k : Nat) (x : Space) : (s.setSpace k x).nextSave = s.nextSave := rfl
@[simp] theorem State.setSpace_quads (s : State) (k : Nat) (x : Space) : (s.setSpace k x).quads = s.quads := rfl
@[simp] theorem State.setSpace_cgs (s : State) (k : Nat) (x : Space) : (s.setSpace k x).cgs = s.cgs := rfl
@[simp] theorem State.setSpace_vfs (s : State) (k : Nat) (x : Space) : (s.setSpace k x).vfs = s.vfs := rfl
@[simp] theorem State.setSpace_access (s : State) (k : Nat) (x : Space) : (s.setSpace k x).access = s.access := rfl
@[simp] theorem State.setSpace_purges (s : State) (k : Nat) (x : Space) : (s.setSpace k x).purges = s.purges := rfl
@[simp] theorem State.setSpace_savm (s : State) (k : Nat) (x : Space) : (s.setSpace k x).savm = s.savm := rfl
@[simp] theorem State.setSpace_dmem (s : State) (k : Nat) (x : Space) : (s.setSpace k x).dmem = s.dmem := rfl
@[simp] theorem State.setSpace_hmem (s : State) (k : Nat) (x : Space) : (s.setSpace k x).hmem = s.hmem := rfl
@[simp] theorem State.setSpace_sysm (s : State) (k : Nat) (x : Space) : (s.setSpace k x).sysm = s.sysm := rfl
@[simp] theorem State.setSpace_cmem (s : State) (k : Nat) (x : Space) : (s.setSpace k x).cmem = s.cmem := rfl
@[simp] theorem State.setSpace_lmem (s : State) (k : Nat) (x : Space) : (s.setSpace k x).lmem = s.lmem := rfl
@[simp] theorem State.setVf_cur (s : State) (k : Nat) (x : Vf) : (s.setVf k x).cur = s.cur := rfl
@[simp] theorem State.setVf_fresh (s : State) (k : Nat) (x : Vf) : (s.setVf k x).fresh = s.fresh := rfl
@[simp] theorem State.setVf_agenda (s : State) (k : Nat) (x : Vf) : (s.setVf k x).agenda = s.agenda := rfl
@[simp] theorem State.setVf_turn (s : State) (k : Nat) (x : Vf) : (s.setVf k x).turn = s.turn := rfl
@[simp] theorem State.setVf_mgmt (s : State) (k : Nat) (x : Vf) : (s.setVf k x).mgmt = s.mgmt := rfl
@[simp] theorem State.setVf_hub (s : State) (k : Nat) (x : Vf) : (s.setVf k x).hub = s.hub := rfl
@[simp] theorem State.setVf_parts (s : State) (k : Nat) (x : Vf) : (s.setVf k x).parts = s.parts := rfl
@[simp] theorem State.setVf_ctxs (s : State) (k : Nat) (x : Vf) : (s.setVf k x).ctxs = s.ctxs := rfl
@[simp] theorem State.setVf_spaces (s : State) (k : Nat) (x : Vf) : (s.setVf k x).spaces = s.spaces := rfl
@[simp] theorem State.setVf_grids (s : State) (k : Nat) (x : Vf) : (s.setVf k x).grids = s.grids := rfl
@[simp] theorem State.setVf_nextGrid (s : State) (k : Nat) (x : Vf) : (s.setVf k x).nextGrid = s.nextGrid := rfl
@[simp] theorem State.setVf_teams (s : State) (k : Nat) (x : Vf) : (s.setVf k x).teams = s.teams := rfl
@[simp] theorem State.setVf_nextTeam (s : State) (k : Nat) (x : Vf) : (s.setVf k x).nextTeam = s.nextTeam := rfl
@[simp] theorem State.setVf_agents (s : State) (k : Nat) (x : Vf) : (s.setVf k x).agents = s.agents := rfl
@[simp] theorem State.setVf_nextAgent (s : State) (k : Nat) (x : Vf) : (s.setVf k x).nextAgent = s.nextAgent := rfl
@[simp] theorem State.setVf_nextSave (s : State) (k : Nat) (x : Vf) : (s.setVf k x).nextSave = s.nextSave := rfl
@[simp] theorem State.setVf_quads (s : State) (k : Nat) (x : Vf) : (s.setVf k x).quads = s.quads := rfl
@[simp] theorem State.setVf_cgs (s : State) (k : Nat) (x : Vf) : (s.setVf k x).cgs = s.cgs := rfl
@[simp] theorem State.setVf_access (s : State) (k : Nat) (x : Vf) : (s.setVf k x).access = s.access := rfl
@[simp] theorem State.setVf_purges (s : State) (k : Nat) (x : Vf) : (s.setVf k x).purges = s.purges := rfl
@[simp] theorem State.setVf_savm (s : State) (k : Nat) (x : Vf) : (s.setVf k x).savm = s.savm := rfl
@[simp] theorem State.setVf_dmem (s : State) (k : Nat) (x : Vf) : (s.setVf k x).dmem = s.dmem := rfl
@[simp] theorem State.setVf_hmem (s : State) (k : Nat) (x : Vf) : (s.setVf k x).hmem = s.hmem := rfl
@[simp] theorem State.setVf_sysm (s : State) (k : Nat) (x : Vf) : (s.setVf k x).sysm = s.sysm := rfl
@[simp] theorem State.setVf_cmem (s : State) (k : Nat) (x : Vf) : (s.setVf k x).cmem = s.cmem := rfl
@[simp] theorem State.setVf_lmem (s : State) (k : Nat) (x : Vf) : (s.setVf k x).lmem = s.lmem := rfl

/-! Lookups after an update. -/

@[simp] theorem State.agent?_setAgent (s : State) (k : Nat) (a : Agent) : (s.setAgent k a).agent? k = some a := tabGet_mapPut_same _ _ _
theorem State.agent?_setAgent_ne (s : State) (k j : Nat) (a : Agent) (h : j ≠ k) : (s.setAgent k a).agent? j = s.agent? j :=
  tabGet_mapPut_ne _ _ _ _ h
@[simp] theorem State.setAgent_setAgent (s : State) (k : Nat) (a b : Agent) : (s.setAgent k a).setAgent k b = s.setAgent k b := by
  simp [State.setAgent, mapPut_mapPut]
@[simp] theorem State.agent?_delAgent (s : State) (k : Nat) : (s.delAgent k).agent? k = none := tabGet_mapDel_same _ _
theorem State.agent?_delAgent_ne (s : State) (k j : Nat) (h : j ≠ k) : (s.delAgent k).agent? j = s.agent? j := tabGet_mapDel_ne _ _ _ h
@[simp] theorem State.quad_setQuad (s : State) (q : Nat) (x : Quad) : (s.setQuad q x).quad q = x := mapGet_mapSet_same _ _ _ _
theorem State.quad_setQuad_ne (s : State) (q j : Nat) (x : Quad) (h : j ≠ q) : (s.setQuad q x).quad j = s.quad j :=
  mapGet_mapSet_ne _ _ _ _ _ h
@[simp] theorem State.cg_setCg (s : State) (c : Nat) (x : Cg) : (s.setCg c x).cg c = x := mapGet_mapSet_same _ _ _ _
theorem State.cg_setCg_ne (s : State) (c j : Nat) (x : Cg) (h : j ≠ c) : (s.setCg c x).cg j = s.cg j := mapGet_mapSet_ne _ _ _ _ _ h
@[simp] theorem State.team?_setTeam (s : State) (t : Nat) (x : Team) : (s.setTeam t x).team? t = some x := tabGet_mapPut_same _ _ _
theorem State.team?_setTeam_ne (s : State) (t j : Nat) (x : Team) (h : j ≠ t) : (s.setTeam t x).team? j = s.team? j :=
  tabGet_mapPut_ne _ _ _ _ h
@[simp] theorem State.grid?_setGrid (s : State) (g : Nat) (x : Grid) : (s.setGrid g x).grid? g = some x := tabGet_mapPut_same _ _ _
theorem State.grid?_setGrid_ne (s : State) (g j : Nat) (x : Grid) (h : j ≠ g) : (s.setGrid g x).grid? j = s.grid? j :=
  tabGet_mapPut_ne _ _ _ _ h
@[simp] theorem State.ctx?_setCtx (s : State) (c : Nat) (x : Ctx) : (s.setCtx c x).ctx? c = some x := tabGet_mapPut_same _ _ _
theorem State.ctx?_setCtx_ne (s : State) (c j : Nat) (x : Ctx) (h : j ≠ c) : (s.setCtx c x).ctx? j = s.ctx? j := tabGet_mapPut_ne _ _ _ _ h
@[simp] theorem State.part?_setPart (s : State) (p : Nat) (x : Part) : (s.setPart p x).part? p = some x := tabGet_mapPut_same _ _ _
@[simp] theorem State.space?_setSpace (s : State) (i : Nat) (x : Space) : (s.setSpace i x).space? i = some x := tabGet_mapPut_same _ _ _
@[simp] theorem State.vf_setVf (s : State) (v : Nat) (x : Vf) : (s.setVf v x).vf v = x := mapGet_mapSet_same _ _ _ _
@[simp] theorem State.quad_setAgent (s : State) (k : Nat) (x : Agent) (j : Nat) : (s.setAgent k x).quad j = s.quad j := rfl
@[simp] theorem State.cg_setAgent (s : State) (k : Nat) (x : Agent) (j : Nat) : (s.setAgent k x).cg j = s.cg j := rfl
@[simp] theorem State.team?_setAgent (s : State) (k : Nat) (x : Agent) (j : Nat) : (s.setAgent k x).team? j = s.team? j := rfl
@[simp] theorem State.grid?_setAgent (s : State) (k : Nat) (x : Agent) (j : Nat) : (s.setAgent k x).grid? j = s.grid? j := rfl
@[simp] theorem State.ctx?_setAgent (s : State) (k : Nat) (x : Agent) (j : Nat) : (s.setAgent k x).ctx? j = s.ctx? j := rfl
@[simp] theorem State.part?_setAgent (s : State) (k : Nat) (x : Agent) (j : Nat) : (s.setAgent k x).part? j = s.part? j := rfl
@[simp] theorem State.space?_setAgent (s : State) (k : Nat) (x : Agent) (j : Nat) : (s.setAgent k x).space? j = s.space? j := rfl
@[simp] theorem State.vf_setAgent (s : State) (k : Nat) (x : Agent) (j : Nat) : (s.setAgent k x).vf j = s.vf j := rfl
@[simp] theorem State.quad_delAgent (s : State) (k : Nat) (j : Nat) : (s.delAgent k).quad j = s.quad j := rfl
@[simp] theorem State.cg_delAgent (s : State) (k : Nat) (j : Nat) : (s.delAgent k).cg j = s.cg j := rfl
@[simp] theorem State.team?_delAgent (s : State) (k : Nat) (j : Nat) : (s.delAgent k).team? j = s.team? j := rfl
@[simp] theorem State.grid?_delAgent (s : State) (k : Nat) (j : Nat) : (s.delAgent k).grid? j = s.grid? j := rfl
@[simp] theorem State.ctx?_delAgent (s : State) (k : Nat) (j : Nat) : (s.delAgent k).ctx? j = s.ctx? j := rfl
@[simp] theorem State.part?_delAgent (s : State) (k : Nat) (j : Nat) : (s.delAgent k).part? j = s.part? j := rfl
@[simp] theorem State.space?_delAgent (s : State) (k : Nat) (j : Nat) : (s.delAgent k).space? j = s.space? j := rfl
@[simp] theorem State.vf_delAgent (s : State) (k : Nat) (j : Nat) : (s.delAgent k).vf j = s.vf j := rfl
@[simp] theorem State.agent?_setQuad (s : State) (k : Nat) (x : Quad) (j : Nat) : (s.setQuad k x).agent? j = s.agent? j := rfl
@[simp] theorem State.cg_setQuad (s : State) (k : Nat) (x : Quad) (j : Nat) : (s.setQuad k x).cg j = s.cg j := rfl
@[simp] theorem State.team?_setQuad (s : State) (k : Nat) (x : Quad) (j : Nat) : (s.setQuad k x).team? j = s.team? j := rfl
@[simp] theorem State.grid?_setQuad (s : State) (k : Nat) (x : Quad) (j : Nat) : (s.setQuad k x).grid? j = s.grid? j := rfl
@[simp] theorem State.ctx?_setQuad (s : State) (k : Nat) (x : Quad) (j : Nat) : (s.setQuad k x).ctx? j = s.ctx? j := rfl
@[simp] theorem State.part?_setQuad (s : State) (k : Nat) (x : Quad) (j : Nat) : (s.setQuad k x).part? j = s.part? j := rfl
@[simp] theorem State.space?_setQuad (s : State) (k : Nat) (x : Quad) (j : Nat) : (s.setQuad k x).space? j = s.space? j := rfl
@[simp] theorem State.vf_setQuad (s : State) (k : Nat) (x : Quad) (j : Nat) : (s.setQuad k x).vf j = s.vf j := rfl
@[simp] theorem State.agent?_setCg (s : State) (k : Nat) (x : Cg) (j : Nat) : (s.setCg k x).agent? j = s.agent? j := rfl
@[simp] theorem State.quad_setCg (s : State) (k : Nat) (x : Cg) (j : Nat) : (s.setCg k x).quad j = s.quad j := rfl
@[simp] theorem State.team?_setCg (s : State) (k : Nat) (x : Cg) (j : Nat) : (s.setCg k x).team? j = s.team? j := rfl
@[simp] theorem State.grid?_setCg (s : State) (k : Nat) (x : Cg) (j : Nat) : (s.setCg k x).grid? j = s.grid? j := rfl
@[simp] theorem State.ctx?_setCg (s : State) (k : Nat) (x : Cg) (j : Nat) : (s.setCg k x).ctx? j = s.ctx? j := rfl
@[simp] theorem State.part?_setCg (s : State) (k : Nat) (x : Cg) (j : Nat) : (s.setCg k x).part? j = s.part? j := rfl
@[simp] theorem State.space?_setCg (s : State) (k : Nat) (x : Cg) (j : Nat) : (s.setCg k x).space? j = s.space? j := rfl
@[simp] theorem State.vf_setCg (s : State) (k : Nat) (x : Cg) (j : Nat) : (s.setCg k x).vf j = s.vf j := rfl
@[simp] theorem State.agent?_setTeam (s : State) (k : Nat) (x : Team) (j : Nat) : (s.setTeam k x).agent? j = s.agent? j := rfl
@[simp] theorem State.quad_setTeam (s : State) (k : Nat) (x : Team) (j : Nat) : (s.setTeam k x).quad j = s.quad j := rfl
@[simp] theorem State.cg_setTeam (s : State) (k : Nat) (x : Team) (j : Nat) : (s.setTeam k x).cg j = s.cg j := rfl
@[simp] theorem State.grid?_setTeam (s : State) (k : Nat) (x : Team) (j : Nat) : (s.setTeam k x).grid? j = s.grid? j := rfl
@[simp] theorem State.ctx?_setTeam (s : State) (k : Nat) (x : Team) (j : Nat) : (s.setTeam k x).ctx? j = s.ctx? j := rfl
@[simp] theorem State.part?_setTeam (s : State) (k : Nat) (x : Team) (j : Nat) : (s.setTeam k x).part? j = s.part? j := rfl
@[simp] theorem State.space?_setTeam (s : State) (k : Nat) (x : Team) (j : Nat) : (s.setTeam k x).space? j = s.space? j := rfl
@[simp] theorem State.vf_setTeam (s : State) (k : Nat) (x : Team) (j : Nat) : (s.setTeam k x).vf j = s.vf j := rfl
@[simp] theorem State.agent?_setGrid (s : State) (k : Nat) (x : Grid) (j : Nat) : (s.setGrid k x).agent? j = s.agent? j := rfl
@[simp] theorem State.quad_setGrid (s : State) (k : Nat) (x : Grid) (j : Nat) : (s.setGrid k x).quad j = s.quad j := rfl
@[simp] theorem State.cg_setGrid (s : State) (k : Nat) (x : Grid) (j : Nat) : (s.setGrid k x).cg j = s.cg j := rfl
@[simp] theorem State.team?_setGrid (s : State) (k : Nat) (x : Grid) (j : Nat) : (s.setGrid k x).team? j = s.team? j := rfl
@[simp] theorem State.ctx?_setGrid (s : State) (k : Nat) (x : Grid) (j : Nat) : (s.setGrid k x).ctx? j = s.ctx? j := rfl
@[simp] theorem State.part?_setGrid (s : State) (k : Nat) (x : Grid) (j : Nat) : (s.setGrid k x).part? j = s.part? j := rfl
@[simp] theorem State.space?_setGrid (s : State) (k : Nat) (x : Grid) (j : Nat) : (s.setGrid k x).space? j = s.space? j := rfl
@[simp] theorem State.vf_setGrid (s : State) (k : Nat) (x : Grid) (j : Nat) : (s.setGrid k x).vf j = s.vf j := rfl
@[simp] theorem State.agent?_setCtx (s : State) (k : Nat) (x : Ctx) (j : Nat) : (s.setCtx k x).agent? j = s.agent? j := rfl
@[simp] theorem State.quad_setCtx (s : State) (k : Nat) (x : Ctx) (j : Nat) : (s.setCtx k x).quad j = s.quad j := rfl
@[simp] theorem State.cg_setCtx (s : State) (k : Nat) (x : Ctx) (j : Nat) : (s.setCtx k x).cg j = s.cg j := rfl
@[simp] theorem State.team?_setCtx (s : State) (k : Nat) (x : Ctx) (j : Nat) : (s.setCtx k x).team? j = s.team? j := rfl
@[simp] theorem State.grid?_setCtx (s : State) (k : Nat) (x : Ctx) (j : Nat) : (s.setCtx k x).grid? j = s.grid? j := rfl
@[simp] theorem State.part?_setCtx (s : State) (k : Nat) (x : Ctx) (j : Nat) : (s.setCtx k x).part? j = s.part? j := rfl
@[simp] theorem State.space?_setCtx (s : State) (k : Nat) (x : Ctx) (j : Nat) : (s.setCtx k x).space? j = s.space? j := rfl
@[simp] theorem State.vf_setCtx (s : State) (k : Nat) (x : Ctx) (j : Nat) : (s.setCtx k x).vf j = s.vf j := rfl
@[simp] theorem State.agent?_setPart (s : State) (k : Nat) (x : Part) (j : Nat) : (s.setPart k x).agent? j = s.agent? j := rfl
@[simp] theorem State.quad_setPart (s : State) (k : Nat) (x : Part) (j : Nat) : (s.setPart k x).quad j = s.quad j := rfl
@[simp] theorem State.cg_setPart (s : State) (k : Nat) (x : Part) (j : Nat) : (s.setPart k x).cg j = s.cg j := rfl
@[simp] theorem State.team?_setPart (s : State) (k : Nat) (x : Part) (j : Nat) : (s.setPart k x).team? j = s.team? j := rfl
@[simp] theorem State.grid?_setPart (s : State) (k : Nat) (x : Part) (j : Nat) : (s.setPart k x).grid? j = s.grid? j := rfl
@[simp] theorem State.ctx?_setPart (s : State) (k : Nat) (x : Part) (j : Nat) : (s.setPart k x).ctx? j = s.ctx? j := rfl
@[simp] theorem State.space?_setPart (s : State) (k : Nat) (x : Part) (j : Nat) : (s.setPart k x).space? j = s.space? j := rfl
@[simp] theorem State.vf_setPart (s : State) (k : Nat) (x : Part) (j : Nat) : (s.setPart k x).vf j = s.vf j := rfl
@[simp] theorem State.agent?_setSpace (s : State) (k : Nat) (x : Space) (j : Nat) : (s.setSpace k x).agent? j = s.agent? j := rfl
@[simp] theorem State.quad_setSpace (s : State) (k : Nat) (x : Space) (j : Nat) : (s.setSpace k x).quad j = s.quad j := rfl
@[simp] theorem State.cg_setSpace (s : State) (k : Nat) (x : Space) (j : Nat) : (s.setSpace k x).cg j = s.cg j := rfl
@[simp] theorem State.team?_setSpace (s : State) (k : Nat) (x : Space) (j : Nat) : (s.setSpace k x).team? j = s.team? j := rfl
@[simp] theorem State.grid?_setSpace (s : State) (k : Nat) (x : Space) (j : Nat) : (s.setSpace k x).grid? j = s.grid? j := rfl
@[simp] theorem State.ctx?_setSpace (s : State) (k : Nat) (x : Space) (j : Nat) : (s.setSpace k x).ctx? j = s.ctx? j := rfl
@[simp] theorem State.part?_setSpace (s : State) (k : Nat) (x : Space) (j : Nat) : (s.setSpace k x).part? j = s.part? j := rfl
@[simp] theorem State.vf_setSpace (s : State) (k : Nat) (x : Space) (j : Nat) : (s.setSpace k x).vf j = s.vf j := rfl
@[simp] theorem State.agent?_setVf (s : State) (k : Nat) (x : Vf) (j : Nat) : (s.setVf k x).agent? j = s.agent? j := rfl
@[simp] theorem State.quad_setVf (s : State) (k : Nat) (x : Vf) (j : Nat) : (s.setVf k x).quad j = s.quad j := rfl
@[simp] theorem State.cg_setVf (s : State) (k : Nat) (x : Vf) (j : Nat) : (s.setVf k x).cg j = s.cg j := rfl
@[simp] theorem State.team?_setVf (s : State) (k : Nat) (x : Vf) (j : Nat) : (s.setVf k x).team? j = s.team? j := rfl
@[simp] theorem State.grid?_setVf (s : State) (k : Nat) (x : Vf) (j : Nat) : (s.setVf k x).grid? j = s.grid? j := rfl
@[simp] theorem State.ctx?_setVf (s : State) (k : Nat) (x : Vf) (j : Nat) : (s.setVf k x).ctx? j = s.ctx? j := rfl
@[simp] theorem State.part?_setVf (s : State) (k : Nat) (x : Vf) (j : Nat) : (s.setVf k x).part? j = s.part? j := rfl
@[simp] theorem State.space?_setVf (s : State) (k : Nat) (x : Vf) (j : Nat) : (s.setVf k x).space? j = s.space? j := rfl
theorem State.modAgent_of (s : State) (k : Nat) (a : Agent) (f : Agent → Agent) (h : s.agent? k = some a) : s.modAgent k f = s.setAgent k (f a) := by
  simp [State.modAgent, h]
@[simp] theorem State.modAgent_setAgent (s : State) (k : Nat) (a : Agent) (f : Agent → Agent) :
    (s.setAgent k a).modAgent k f = s.setAgent k (f a) := by
  simp [State.modAgent]

/-! Fields of an agent after an update of one of its parts. -/

@[simp] theorem Agent.setS_uid (a : Agent) (n : Nat) (x : Word) : (a.setS n x).uid = a.uid := by unfold Agent.setS; split <;> rfl
@[simp] theorem Agent.setS_team (a : Agent) (n : Nat) (x : Word) : (a.setS n x).team = a.team := by unfold Agent.setS; split <;> rfl
@[simp] theorem Agent.setS_grid (a : Agent) (n : Nat) (x : Word) : (a.setS n x).grid = a.grid := by unfold Agent.setS; split <;> rfl
@[simp] theorem Agent.setS_tindex (a : Agent) (n : Nat) (x : Word) : (a.setS n x).tindex = a.tindex := by unfold Agent.setS; split <;> rfl
@[simp] theorem Agent.setS_gang (a : Agent) (n : Nat) (x : Word) : (a.setS n x).gang = a.gang := by unfold Agent.setS; split <;> rfl
@[simp] theorem Agent.setS_ctx (a : Agent) (n : Nat) (x : Word) : (a.setS n x).ctx = a.ctx := by unfold Agent.setS; split <;> rfl
@[simp] theorem Agent.setS_age (a : Agent) (n : Nat) (x : Word) : (a.setS n x).age = a.age := by unfold Agent.setS; split <;> rfl
@[simp] theorem Agent.setS_qreg (a : Agent) (n : Nat) (x : Word) : (a.setS n x).qreg = a.qreg := by unfold Agent.setS; split <;> rfl
@[simp] theorem Agent.setS_vreg (a : Agent) (n : Nat) (x : Word) : (a.setS n x).vreg = a.vreg := by unfold Agent.setS; split <;> rfl
@[simp] theorem Agent.setS_names (a : Agent) (n : Nat) (x : Word) : (a.setS n x).names = a.names := by unfold Agent.setS; split <;> rfl
@[simp] theorem Agent.setS_temps (a : Agent) (n : Nat) (x : Word) : (a.setS n x).temps = a.temps := by unfold Agent.setS; split <;> rfl
@[simp] theorem Agent.setS_preg (a : Agent) (n : Nat) (x : Word) : (a.setS n x).preg = a.preg := by unfold Agent.setS; split <;> rfl
@[simp] theorem Agent.setS_regs (a : Agent) (n : Nat) (x : Word) : (a.setS n x).regs = a.regs := by unfold Agent.setS; split <;> rfl
@[simp] theorem Agent.setS_blocks (a : Agent) (n : Nat) (x : Word) : (a.setS n x).blocks = a.blocks := by unfold Agent.setS; split <;> rfl
@[simp] theorem Agent.setS_flags (a : Agent) (n : Nat) (x : Word) : (a.setS n x).flags = a.flags := by unfold Agent.setS; split <;> rfl
@[simp] theorem Agent.setS_warn (a : Agent) (n : Nat) (x : Word) : (a.setS n x).warn = a.warn := by unfold Agent.setS; split <;> rfl
@[simp] theorem Agent.setS_noreuse (a : Agent) (n : Nat) (x : Word) : (a.setS n x).noreuse = a.noreuse := by unfold Agent.setS; split <;> rfl
@[simp] theorem Agent.setS_stalls (a : Agent) (n : Nat) (x : Word) : (a.setS n x).stalls = a.stalls := by unfold Agent.setS; split <;> rfl
@[simp] theorem Agent.setS_retired (a : Agent) (n : Nat) (x : Word) : (a.setS n x).retired = a.retired := by unfold Agent.setS; split <;> rfl
@[simp] theorem Agent.setS_since (a : Agent) (n : Nat) (x : Word) : (a.setS n x).since = a.since := by unfold Agent.setS; split <;> rfl
@[simp] theorem Agent.setS_retMark (a : Agent) (n : Nat) (x : Word) : (a.setS n x).retMark = a.retMark := by unfold Agent.setS; split <;> rfl
@[simp] theorem Agent.setS_reused (a : Agent) (n : Nat) (x : Word) : (a.setS n x).reused = a.reused := by unfold Agent.setS; split <;> rfl
@[simp] theorem Agent.setS_ldreused (a : Agent) (n : Nat) (x : Word) : (a.setS n x).ldreused = a.ldreused := by unfold Agent.setS; split <;> rfl
@[simp] theorem Agent.setS_cycleh (a : Agent) (n : Nat) (x : Word) : (a.setS n x).cycleh = a.cycleh := by unfold Agent.setS; split <;> rfl
@[simp] theorem Agent.setS_slot0 (a : Agent) (n : Nat) (x : Word) : (a.setS n x).slot0 = a.slot0 := by unfold Agent.setS; split <;> rfl
@[simp] theorem Agent.setS_slot1 (a : Agent) (n : Nat) (x : Word) : (a.setS n x).slot1 = a.slot1 := by unfold Agent.setS; split <;> rfl
@[simp] theorem Agent.setS_which (a : Agent) (n : Nat) (x : Word) : (a.setS n x).which = a.which := by unfold Agent.setS; split <;> rfl
@[simp] theorem Agent.setS_last (a : Agent) (n : Nat) (x : Word) : (a.setS n x).last = a.last := by unfold Agent.setS; split <;> rfl
@[simp] theorem Agent.setS_stack (a : Agent) (n : Nat) (x : Word) : (a.setS n x).stack = a.stack := by unfold Agent.setS; split <;> rfl
@[simp] theorem Agent.setS_run (a : Agent) (n : Nat) (x : Word) : (a.setS n x).run = a.run := by unfold Agent.setS; split <;> rfl
@[simp] theorem Agent.setS_runs (a : Agent) (n : Nat) (x : Word) : (a.setS n x).runs = a.runs := by unfold Agent.setS; split <;> rfl
@[simp] theorem Agent.setS_tokens (a : Agent) (n : Nat) (x : Word) : (a.setS n x).tokens = a.tokens := by unfold Agent.setS; split <;> rfl
@[simp] theorem Agent.setS_pending (a : Agent) (n : Nat) (x : Word) : (a.setS n x).pending = a.pending := by unfold Agent.setS; split <;> rfl
@[simp] theorem Agent.setS_wait0 (a : Agent) (n : Nat) (x : Word) : (a.setS n x).wait0 = a.wait0 := by unfold Agent.setS; split <;> rfl
@[simp] theorem Agent.setS_wait1 (a : Agent) (n : Nat) (x : Word) : (a.setS n x).wait1 = a.wait1 := by unfold Agent.setS; split <;> rfl
@[simp] theorem Agent.setS_sv (a : Agent) (n : Nat) (x : Word) : (a.setS n x).sv = a.sv := by unfold Agent.setS; split <;> rfl
@[simp] theorem Agent.setS_frame (a : Agent) (n : Nat) (x : Word) : (a.setS n x).frame = a.frame := by unfold Agent.setS; split <;> rfl
@[simp] theorem Agent.setS_accs (a : Agent) (n : Nat) (x : Word) : (a.setS n x).accs = a.accs := by unfold Agent.setS; split <;> rfl
@[simp] theorem Agent.setS_ids (a : Agent) (n : Nat) (x : Word) : (a.setS n x).ids = a.ids := by unfold Agent.setS; split <;> rfl
@[simp] theorem Agent.setS_cmds (a : Agent) (n : Nat) (x : Word) : (a.setS n x).cmds = a.cmds := by unfold Agent.setS; split <;> rfl
@[simp] theorem Agent.setS_batch (a : Agent) (n : Nat) (x : Word) : (a.setS n x).batch = a.batch := by unfold Agent.setS; split <;> rfl
@[simp] theorem Agent.setS_open_ (a : Agent) (n : Nat) (x : Word) : (a.setS n x).open_ = a.open_ := by unfold Agent.setS; split <;> rfl
@[simp] theorem Agent.setS_closed (a : Agent) (n : Nat) (x : Word) : (a.setS n x).closed = a.closed := by unfold Agent.setS; split <;> rfl
@[simp] theorem Agent.setS_rewindable (a : Agent) (n : Nat) (x : Word) : (a.setS n x).rewindable = a.rewindable := by unfold Agent.setS; split <;> rfl
@[simp] theorem Agent.setS_restoring (a : Agent) (n : Nat) (x : Word) : (a.setS n x).restoring = a.restoring := by unfold Agent.setS; split <;> rfl
@[simp] theorem Agent.setS_rwpt (a : Agent) (n : Nat) (x : Word) : (a.setS n x).rwpt = a.rwpt := by unfold Agent.setS; split <;> rfl
@[simp] theorem Agent.setS_cG (a : Agent) (n : Nat) (x : Word) : (a.setS n x).cG = a.cG := by unfold Agent.setS; split <;> rfl
@[simp] theorem Agent.setS_block (a : Agent) (n : Nat) (x : Word) : (a.setS n x).block = a.block := by unfold Agent.setS; split <;> rfl
@[simp] theorem Agent.setS_stopped (a : Agent) (n : Nat) (x : Word) : (a.setS n x).stopped = a.stopped := by unfold Agent.setS; split <;> rfl
@[simp] theorem Agent.setS_sliceEnd (a : Agent) (n : Nat) (x : Word) : (a.setS n x).sliceEnd = a.sliceEnd := by unfold Agent.setS; split <;> rfl
@[simp] theorem Agent.setS_mustStop (a : Agent) (n : Nat) (x : Word) : (a.setS n x).mustStop = a.mustStop := by unfold Agent.setS; split <;> rfl
@[simp] theorem Agent.setS_ended (a : Agent) (n : Nat) (x : Word) : (a.setS n x).ended = a.ended := by unfold Agent.setS; split <;> rfl
@[simp] theorem Agent.setPair_uid (a : Agent) (n : Nat) (x : Dword) : (a.setPair n x).uid = a.uid := by simp [Agent.setPair]
@[simp] theorem Agent.setPair_team (a : Agent) (n : Nat) (x : Dword) : (a.setPair n x).team = a.team := by simp [Agent.setPair]
@[simp] theorem Agent.setPair_grid (a : Agent) (n : Nat) (x : Dword) : (a.setPair n x).grid = a.grid := by simp [Agent.setPair]
@[simp] theorem Agent.setPair_tindex (a : Agent) (n : Nat) (x : Dword) : (a.setPair n x).tindex = a.tindex := by simp [Agent.setPair]
@[simp] theorem Agent.setPair_gang (a : Agent) (n : Nat) (x : Dword) : (a.setPair n x).gang = a.gang := by simp [Agent.setPair]
@[simp] theorem Agent.setPair_ctx (a : Agent) (n : Nat) (x : Dword) : (a.setPair n x).ctx = a.ctx := by simp [Agent.setPair]
@[simp] theorem Agent.setPair_age (a : Agent) (n : Nat) (x : Dword) : (a.setPair n x).age = a.age := by simp [Agent.setPair]
@[simp] theorem Agent.setPair_qreg (a : Agent) (n : Nat) (x : Dword) : (a.setPair n x).qreg = a.qreg := by simp [Agent.setPair]
@[simp] theorem Agent.setPair_vreg (a : Agent) (n : Nat) (x : Dword) : (a.setPair n x).vreg = a.vreg := by simp [Agent.setPair]
@[simp] theorem Agent.setPair_names (a : Agent) (n : Nat) (x : Dword) : (a.setPair n x).names = a.names := by simp [Agent.setPair]
@[simp] theorem Agent.setPair_temps (a : Agent) (n : Nat) (x : Dword) : (a.setPair n x).temps = a.temps := by simp [Agent.setPair]
@[simp] theorem Agent.setPair_preg (a : Agent) (n : Nat) (x : Dword) : (a.setPair n x).preg = a.preg := by simp [Agent.setPair]
@[simp] theorem Agent.setPair_regs (a : Agent) (n : Nat) (x : Dword) : (a.setPair n x).regs = a.regs := by simp [Agent.setPair]
@[simp] theorem Agent.setPair_blocks (a : Agent) (n : Nat) (x : Dword) : (a.setPair n x).blocks = a.blocks := by simp [Agent.setPair]
@[simp] theorem Agent.setPair_flags (a : Agent) (n : Nat) (x : Dword) : (a.setPair n x).flags = a.flags := by simp [Agent.setPair]
@[simp] theorem Agent.setPair_warn (a : Agent) (n : Nat) (x : Dword) : (a.setPair n x).warn = a.warn := by simp [Agent.setPair]
@[simp] theorem Agent.setPair_noreuse (a : Agent) (n : Nat) (x : Dword) : (a.setPair n x).noreuse = a.noreuse := by simp [Agent.setPair]
@[simp] theorem Agent.setPair_stalls (a : Agent) (n : Nat) (x : Dword) : (a.setPair n x).stalls = a.stalls := by simp [Agent.setPair]
@[simp] theorem Agent.setPair_retired (a : Agent) (n : Nat) (x : Dword) : (a.setPair n x).retired = a.retired := by simp [Agent.setPair]
@[simp] theorem Agent.setPair_since (a : Agent) (n : Nat) (x : Dword) : (a.setPair n x).since = a.since := by simp [Agent.setPair]
@[simp] theorem Agent.setPair_retMark (a : Agent) (n : Nat) (x : Dword) : (a.setPair n x).retMark = a.retMark := by simp [Agent.setPair]
@[simp] theorem Agent.setPair_reused (a : Agent) (n : Nat) (x : Dword) : (a.setPair n x).reused = a.reused := by simp [Agent.setPair]
@[simp] theorem Agent.setPair_ldreused (a : Agent) (n : Nat) (x : Dword) : (a.setPair n x).ldreused = a.ldreused := by simp [Agent.setPair]
@[simp] theorem Agent.setPair_cycleh (a : Agent) (n : Nat) (x : Dword) : (a.setPair n x).cycleh = a.cycleh := by simp [Agent.setPair]
@[simp] theorem Agent.setPair_slot0 (a : Agent) (n : Nat) (x : Dword) : (a.setPair n x).slot0 = a.slot0 := by simp [Agent.setPair]
@[simp] theorem Agent.setPair_slot1 (a : Agent) (n : Nat) (x : Dword) : (a.setPair n x).slot1 = a.slot1 := by simp [Agent.setPair]
@[simp] theorem Agent.setPair_which (a : Agent) (n : Nat) (x : Dword) : (a.setPair n x).which = a.which := by simp [Agent.setPair]
@[simp] theorem Agent.setPair_last (a : Agent) (n : Nat) (x : Dword) : (a.setPair n x).last = a.last := by simp [Agent.setPair]
@[simp] theorem Agent.setPair_stack (a : Agent) (n : Nat) (x : Dword) : (a.setPair n x).stack = a.stack := by simp [Agent.setPair]
@[simp] theorem Agent.setPair_run (a : Agent) (n : Nat) (x : Dword) : (a.setPair n x).run = a.run := by simp [Agent.setPair]
@[simp] theorem Agent.setPair_runs (a : Agent) (n : Nat) (x : Dword) : (a.setPair n x).runs = a.runs := by simp [Agent.setPair]
@[simp] theorem Agent.setPair_tokens (a : Agent) (n : Nat) (x : Dword) : (a.setPair n x).tokens = a.tokens := by simp [Agent.setPair]
@[simp] theorem Agent.setPair_pending (a : Agent) (n : Nat) (x : Dword) : (a.setPair n x).pending = a.pending := by simp [Agent.setPair]
@[simp] theorem Agent.setPair_wait0 (a : Agent) (n : Nat) (x : Dword) : (a.setPair n x).wait0 = a.wait0 := by simp [Agent.setPair]
@[simp] theorem Agent.setPair_wait1 (a : Agent) (n : Nat) (x : Dword) : (a.setPair n x).wait1 = a.wait1 := by simp [Agent.setPair]
@[simp] theorem Agent.setPair_sv (a : Agent) (n : Nat) (x : Dword) : (a.setPair n x).sv = a.sv := by simp [Agent.setPair]
@[simp] theorem Agent.setPair_frame (a : Agent) (n : Nat) (x : Dword) : (a.setPair n x).frame = a.frame := by simp [Agent.setPair]
@[simp] theorem Agent.setPair_accs (a : Agent) (n : Nat) (x : Dword) : (a.setPair n x).accs = a.accs := by simp [Agent.setPair]
@[simp] theorem Agent.setPair_ids (a : Agent) (n : Nat) (x : Dword) : (a.setPair n x).ids = a.ids := by simp [Agent.setPair]
@[simp] theorem Agent.setPair_cmds (a : Agent) (n : Nat) (x : Dword) : (a.setPair n x).cmds = a.cmds := by simp [Agent.setPair]
@[simp] theorem Agent.setPair_batch (a : Agent) (n : Nat) (x : Dword) : (a.setPair n x).batch = a.batch := by simp [Agent.setPair]
@[simp] theorem Agent.setPair_open_ (a : Agent) (n : Nat) (x : Dword) : (a.setPair n x).open_ = a.open_ := by simp [Agent.setPair]
@[simp] theorem Agent.setPair_closed (a : Agent) (n : Nat) (x : Dword) : (a.setPair n x).closed = a.closed := by simp [Agent.setPair]
@[simp] theorem Agent.setPair_rewindable (a : Agent) (n : Nat) (x : Dword) : (a.setPair n x).rewindable = a.rewindable := by simp [Agent.setPair]
@[simp] theorem Agent.setPair_restoring (a : Agent) (n : Nat) (x : Dword) : (a.setPair n x).restoring = a.restoring := by simp [Agent.setPair]
@[simp] theorem Agent.setPair_rwpt (a : Agent) (n : Nat) (x : Dword) : (a.setPair n x).rwpt = a.rwpt := by simp [Agent.setPair]
@[simp] theorem Agent.setPair_cG (a : Agent) (n : Nat) (x : Dword) : (a.setPair n x).cG = a.cG := by simp [Agent.setPair]
@[simp] theorem Agent.setPair_block (a : Agent) (n : Nat) (x : Dword) : (a.setPair n x).block = a.block := by simp [Agent.setPair]
@[simp] theorem Agent.setPair_stopped (a : Agent) (n : Nat) (x : Dword) : (a.setPair n x).stopped = a.stopped := by simp [Agent.setPair]
@[simp] theorem Agent.setPair_sliceEnd (a : Agent) (n : Nat) (x : Dword) : (a.setPair n x).sliceEnd = a.sliceEnd := by simp [Agent.setPair]
@[simp] theorem Agent.setPair_mustStop (a : Agent) (n : Nat) (x : Dword) : (a.setPair n x).mustStop = a.mustStop := by simp [Agent.setPair]
@[simp] theorem Agent.setPair_ended (a : Agent) (n : Nat) (x : Dword) : (a.setPair n x).ended = a.ended := by simp [Agent.setPair]
@[simp] theorem Agent.setQ_uid (a : Agent) (n : PNum) (x : Bool) : (a.setQ n x).uid = a.uid := by unfold Agent.setQ; split <;> rfl
@[simp] theorem Agent.setQ_team (a : Agent) (n : PNum) (x : Bool) : (a.setQ n x).team = a.team := by unfold Agent.setQ; split <;> rfl
@[simp] theorem Agent.setQ_grid (a : Agent) (n : PNum) (x : Bool) : (a.setQ n x).grid = a.grid := by unfold Agent.setQ; split <;> rfl
@[simp] theorem Agent.setQ_tindex (a : Agent) (n : PNum) (x : Bool) : (a.setQ n x).tindex = a.tindex := by unfold Agent.setQ; split <;> rfl
@[simp] theorem Agent.setQ_gang (a : Agent) (n : PNum) (x : Bool) : (a.setQ n x).gang = a.gang := by unfold Agent.setQ; split <;> rfl
@[simp] theorem Agent.setQ_ctx (a : Agent) (n : PNum) (x : Bool) : (a.setQ n x).ctx = a.ctx := by unfold Agent.setQ; split <;> rfl
@[simp] theorem Agent.setQ_age (a : Agent) (n : PNum) (x : Bool) : (a.setQ n x).age = a.age := by unfold Agent.setQ; split <;> rfl
@[simp] theorem Agent.setQ_sreg (a : Agent) (n : PNum) (x : Bool) : (a.setQ n x).sreg = a.sreg := by unfold Agent.setQ; split <;> rfl
@[simp] theorem Agent.setQ_vreg (a : Agent) (n : PNum) (x : Bool) : (a.setQ n x).vreg = a.vreg := by unfold Agent.setQ; split <;> rfl
@[simp] theorem Agent.setQ_names (a : Agent) (n : PNum) (x : Bool) : (a.setQ n x).names = a.names := by unfold Agent.setQ; split <;> rfl
@[simp] theorem Agent.setQ_temps (a : Agent) (n : PNum) (x : Bool) : (a.setQ n x).temps = a.temps := by unfold Agent.setQ; split <;> rfl
@[simp] theorem Agent.setQ_preg (a : Agent) (n : PNum) (x : Bool) : (a.setQ n x).preg = a.preg := by unfold Agent.setQ; split <;> rfl
@[simp] theorem Agent.setQ_regs (a : Agent) (n : PNum) (x : Bool) : (a.setQ n x).regs = a.regs := by unfold Agent.setQ; split <;> rfl
@[simp] theorem Agent.setQ_blocks (a : Agent) (n : PNum) (x : Bool) : (a.setQ n x).blocks = a.blocks := by unfold Agent.setQ; split <;> rfl
@[simp] theorem Agent.setQ_flags (a : Agent) (n : PNum) (x : Bool) : (a.setQ n x).flags = a.flags := by unfold Agent.setQ; split <;> rfl
@[simp] theorem Agent.setQ_warn (a : Agent) (n : PNum) (x : Bool) : (a.setQ n x).warn = a.warn := by unfold Agent.setQ; split <;> rfl
@[simp] theorem Agent.setQ_noreuse (a : Agent) (n : PNum) (x : Bool) : (a.setQ n x).noreuse = a.noreuse := by unfold Agent.setQ; split <;> rfl
@[simp] theorem Agent.setQ_stalls (a : Agent) (n : PNum) (x : Bool) : (a.setQ n x).stalls = a.stalls := by unfold Agent.setQ; split <;> rfl
@[simp] theorem Agent.setQ_retired (a : Agent) (n : PNum) (x : Bool) : (a.setQ n x).retired = a.retired := by unfold Agent.setQ; split <;> rfl
@[simp] theorem Agent.setQ_since (a : Agent) (n : PNum) (x : Bool) : (a.setQ n x).since = a.since := by unfold Agent.setQ; split <;> rfl
@[simp] theorem Agent.setQ_retMark (a : Agent) (n : PNum) (x : Bool) : (a.setQ n x).retMark = a.retMark := by unfold Agent.setQ; split <;> rfl
@[simp] theorem Agent.setQ_reused (a : Agent) (n : PNum) (x : Bool) : (a.setQ n x).reused = a.reused := by unfold Agent.setQ; split <;> rfl
@[simp] theorem Agent.setQ_ldreused (a : Agent) (n : PNum) (x : Bool) : (a.setQ n x).ldreused = a.ldreused := by unfold Agent.setQ; split <;> rfl
@[simp] theorem Agent.setQ_cycleh (a : Agent) (n : PNum) (x : Bool) : (a.setQ n x).cycleh = a.cycleh := by unfold Agent.setQ; split <;> rfl
@[simp] theorem Agent.setQ_slot0 (a : Agent) (n : PNum) (x : Bool) : (a.setQ n x).slot0 = a.slot0 := by unfold Agent.setQ; split <;> rfl
@[simp] theorem Agent.setQ_slot1 (a : Agent) (n : PNum) (x : Bool) : (a.setQ n x).slot1 = a.slot1 := by unfold Agent.setQ; split <;> rfl
@[simp] theorem Agent.setQ_which (a : Agent) (n : PNum) (x : Bool) : (a.setQ n x).which = a.which := by unfold Agent.setQ; split <;> rfl
@[simp] theorem Agent.setQ_last (a : Agent) (n : PNum) (x : Bool) : (a.setQ n x).last = a.last := by unfold Agent.setQ; split <;> rfl
@[simp] theorem Agent.setQ_stack (a : Agent) (n : PNum) (x : Bool) : (a.setQ n x).stack = a.stack := by unfold Agent.setQ; split <;> rfl
@[simp] theorem Agent.setQ_run (a : Agent) (n : PNum) (x : Bool) : (a.setQ n x).run = a.run := by unfold Agent.setQ; split <;> rfl
@[simp] theorem Agent.setQ_runs (a : Agent) (n : PNum) (x : Bool) : (a.setQ n x).runs = a.runs := by unfold Agent.setQ; split <;> rfl
@[simp] theorem Agent.setQ_tokens (a : Agent) (n : PNum) (x : Bool) : (a.setQ n x).tokens = a.tokens := by unfold Agent.setQ; split <;> rfl
@[simp] theorem Agent.setQ_pending (a : Agent) (n : PNum) (x : Bool) : (a.setQ n x).pending = a.pending := by unfold Agent.setQ; split <;> rfl
@[simp] theorem Agent.setQ_wait0 (a : Agent) (n : PNum) (x : Bool) : (a.setQ n x).wait0 = a.wait0 := by unfold Agent.setQ; split <;> rfl
@[simp] theorem Agent.setQ_wait1 (a : Agent) (n : PNum) (x : Bool) : (a.setQ n x).wait1 = a.wait1 := by unfold Agent.setQ; split <;> rfl
@[simp] theorem Agent.setQ_sv (a : Agent) (n : PNum) (x : Bool) : (a.setQ n x).sv = a.sv := by unfold Agent.setQ; split <;> rfl
@[simp] theorem Agent.setQ_frame (a : Agent) (n : PNum) (x : Bool) : (a.setQ n x).frame = a.frame := by unfold Agent.setQ; split <;> rfl
@[simp] theorem Agent.setQ_accs (a : Agent) (n : PNum) (x : Bool) : (a.setQ n x).accs = a.accs := by unfold Agent.setQ; split <;> rfl
@[simp] theorem Agent.setQ_ids (a : Agent) (n : PNum) (x : Bool) : (a.setQ n x).ids = a.ids := by unfold Agent.setQ; split <;> rfl
@[simp] theorem Agent.setQ_cmds (a : Agent) (n : PNum) (x : Bool) : (a.setQ n x).cmds = a.cmds := by unfold Agent.setQ; split <;> rfl
@[simp] theorem Agent.setQ_batch (a : Agent) (n : PNum) (x : Bool) : (a.setQ n x).batch = a.batch := by unfold Agent.setQ; split <;> rfl
@[simp] theorem Agent.setQ_open_ (a : Agent) (n : PNum) (x : Bool) : (a.setQ n x).open_ = a.open_ := by unfold Agent.setQ; split <;> rfl
@[simp] theorem Agent.setQ_closed (a : Agent) (n : PNum) (x : Bool) : (a.setQ n x).closed = a.closed := by unfold Agent.setQ; split <;> rfl
@[simp] theorem Agent.setQ_rewindable (a : Agent) (n : PNum) (x : Bool) : (a.setQ n x).rewindable = a.rewindable := by unfold Agent.setQ; split <;> rfl
@[simp] theorem Agent.setQ_restoring (a : Agent) (n : PNum) (x : Bool) : (a.setQ n x).restoring = a.restoring := by unfold Agent.setQ; split <;> rfl
@[simp] theorem Agent.setQ_rwpt (a : Agent) (n : PNum) (x : Bool) : (a.setQ n x).rwpt = a.rwpt := by unfold Agent.setQ; split <;> rfl
@[simp] theorem Agent.setQ_cG (a : Agent) (n : PNum) (x : Bool) : (a.setQ n x).cG = a.cG := by unfold Agent.setQ; split <;> rfl
@[simp] theorem Agent.setQ_block (a : Agent) (n : PNum) (x : Bool) : (a.setQ n x).block = a.block := by unfold Agent.setQ; split <;> rfl
@[simp] theorem Agent.setQ_stopped (a : Agent) (n : PNum) (x : Bool) : (a.setQ n x).stopped = a.stopped := by unfold Agent.setQ; split <;> rfl
@[simp] theorem Agent.setQ_sliceEnd (a : Agent) (n : PNum) (x : Bool) : (a.setQ n x).sliceEnd = a.sliceEnd := by unfold Agent.setQ; split <;> rfl
@[simp] theorem Agent.setQ_mustStop (a : Agent) (n : PNum) (x : Bool) : (a.setQ n x).mustStop = a.mustStop := by unfold Agent.setQ; split <;> rfl
@[simp] theorem Agent.setQ_ended (a : Agent) (n : PNum) (x : Bool) : (a.setQ n x).ended = a.ended := by unfold Agent.setQ; split <;> rfl
@[simp] theorem Agent.setP_uid (a : Agent) (n : PNum) (x : Mask) : (a.setP n x).uid = a.uid := by unfold Agent.setP; split <;> rfl
@[simp] theorem Agent.setP_team (a : Agent) (n : PNum) (x : Mask) : (a.setP n x).team = a.team := by unfold Agent.setP; split <;> rfl
@[simp] theorem Agent.setP_grid (a : Agent) (n : PNum) (x : Mask) : (a.setP n x).grid = a.grid := by unfold Agent.setP; split <;> rfl
@[simp] theorem Agent.setP_tindex (a : Agent) (n : PNum) (x : Mask) : (a.setP n x).tindex = a.tindex := by unfold Agent.setP; split <;> rfl
@[simp] theorem Agent.setP_gang (a : Agent) (n : PNum) (x : Mask) : (a.setP n x).gang = a.gang := by unfold Agent.setP; split <;> rfl
@[simp] theorem Agent.setP_ctx (a : Agent) (n : PNum) (x : Mask) : (a.setP n x).ctx = a.ctx := by unfold Agent.setP; split <;> rfl
@[simp] theorem Agent.setP_age (a : Agent) (n : PNum) (x : Mask) : (a.setP n x).age = a.age := by unfold Agent.setP; split <;> rfl
@[simp] theorem Agent.setP_sreg (a : Agent) (n : PNum) (x : Mask) : (a.setP n x).sreg = a.sreg := by unfold Agent.setP; split <;> rfl
@[simp] theorem Agent.setP_qreg (a : Agent) (n : PNum) (x : Mask) : (a.setP n x).qreg = a.qreg := by unfold Agent.setP; split <;> rfl
@[simp] theorem Agent.setP_vreg (a : Agent) (n : PNum) (x : Mask) : (a.setP n x).vreg = a.vreg := by unfold Agent.setP; split <;> rfl
@[simp] theorem Agent.setP_names (a : Agent) (n : PNum) (x : Mask) : (a.setP n x).names = a.names := by unfold Agent.setP; split <;> rfl
@[simp] theorem Agent.setP_temps (a : Agent) (n : PNum) (x : Mask) : (a.setP n x).temps = a.temps := by unfold Agent.setP; split <;> rfl
@[simp] theorem Agent.setP_regs (a : Agent) (n : PNum) (x : Mask) : (a.setP n x).regs = a.regs := by unfold Agent.setP; split <;> rfl
@[simp] theorem Agent.setP_blocks (a : Agent) (n : PNum) (x : Mask) : (a.setP n x).blocks = a.blocks := by unfold Agent.setP; split <;> rfl
@[simp] theorem Agent.setP_flags (a : Agent) (n : PNum) (x : Mask) : (a.setP n x).flags = a.flags := by unfold Agent.setP; split <;> rfl
@[simp] theorem Agent.setP_warn (a : Agent) (n : PNum) (x : Mask) : (a.setP n x).warn = a.warn := by unfold Agent.setP; split <;> rfl
@[simp] theorem Agent.setP_noreuse (a : Agent) (n : PNum) (x : Mask) : (a.setP n x).noreuse = a.noreuse := by unfold Agent.setP; split <;> rfl
@[simp] theorem Agent.setP_stalls (a : Agent) (n : PNum) (x : Mask) : (a.setP n x).stalls = a.stalls := by unfold Agent.setP; split <;> rfl
@[simp] theorem Agent.setP_retired (a : Agent) (n : PNum) (x : Mask) : (a.setP n x).retired = a.retired := by unfold Agent.setP; split <;> rfl
@[simp] theorem Agent.setP_since (a : Agent) (n : PNum) (x : Mask) : (a.setP n x).since = a.since := by unfold Agent.setP; split <;> rfl
@[simp] theorem Agent.setP_retMark (a : Agent) (n : PNum) (x : Mask) : (a.setP n x).retMark = a.retMark := by unfold Agent.setP; split <;> rfl
@[simp] theorem Agent.setP_reused (a : Agent) (n : PNum) (x : Mask) : (a.setP n x).reused = a.reused := by unfold Agent.setP; split <;> rfl
@[simp] theorem Agent.setP_ldreused (a : Agent) (n : PNum) (x : Mask) : (a.setP n x).ldreused = a.ldreused := by unfold Agent.setP; split <;> rfl
@[simp] theorem Agent.setP_cycleh (a : Agent) (n : PNum) (x : Mask) : (a.setP n x).cycleh = a.cycleh := by unfold Agent.setP; split <;> rfl
@[simp] theorem Agent.setP_slot0 (a : Agent) (n : PNum) (x : Mask) : (a.setP n x).slot0 = a.slot0 := by unfold Agent.setP; split <;> rfl
@[simp] theorem Agent.setP_slot1 (a : Agent) (n : PNum) (x : Mask) : (a.setP n x).slot1 = a.slot1 := by unfold Agent.setP; split <;> rfl
@[simp] theorem Agent.setP_which (a : Agent) (n : PNum) (x : Mask) : (a.setP n x).which = a.which := by unfold Agent.setP; split <;> rfl
@[simp] theorem Agent.setP_last (a : Agent) (n : PNum) (x : Mask) : (a.setP n x).last = a.last := by unfold Agent.setP; split <;> rfl
@[simp] theorem Agent.setP_stack (a : Agent) (n : PNum) (x : Mask) : (a.setP n x).stack = a.stack := by unfold Agent.setP; split <;> rfl
@[simp] theorem Agent.setP_run (a : Agent) (n : PNum) (x : Mask) : (a.setP n x).run = a.run := by unfold Agent.setP; split <;> rfl
@[simp] theorem Agent.setP_runs (a : Agent) (n : PNum) (x : Mask) : (a.setP n x).runs = a.runs := by unfold Agent.setP; split <;> rfl
@[simp] theorem Agent.setP_tokens (a : Agent) (n : PNum) (x : Mask) : (a.setP n x).tokens = a.tokens := by unfold Agent.setP; split <;> rfl
@[simp] theorem Agent.setP_pending (a : Agent) (n : PNum) (x : Mask) : (a.setP n x).pending = a.pending := by unfold Agent.setP; split <;> rfl
@[simp] theorem Agent.setP_wait0 (a : Agent) (n : PNum) (x : Mask) : (a.setP n x).wait0 = a.wait0 := by unfold Agent.setP; split <;> rfl
@[simp] theorem Agent.setP_wait1 (a : Agent) (n : PNum) (x : Mask) : (a.setP n x).wait1 = a.wait1 := by unfold Agent.setP; split <;> rfl
@[simp] theorem Agent.setP_sv (a : Agent) (n : PNum) (x : Mask) : (a.setP n x).sv = a.sv := by unfold Agent.setP; split <;> rfl
@[simp] theorem Agent.setP_frame (a : Agent) (n : PNum) (x : Mask) : (a.setP n x).frame = a.frame := by unfold Agent.setP; split <;> rfl
@[simp] theorem Agent.setP_accs (a : Agent) (n : PNum) (x : Mask) : (a.setP n x).accs = a.accs := by unfold Agent.setP; split <;> rfl
@[simp] theorem Agent.setP_ids (a : Agent) (n : PNum) (x : Mask) : (a.setP n x).ids = a.ids := by unfold Agent.setP; split <;> rfl
@[simp] theorem Agent.setP_cmds (a : Agent) (n : PNum) (x : Mask) : (a.setP n x).cmds = a.cmds := by unfold Agent.setP; split <;> rfl
@[simp] theorem Agent.setP_batch (a : Agent) (n : PNum) (x : Mask) : (a.setP n x).batch = a.batch := by unfold Agent.setP; split <;> rfl
@[simp] theorem Agent.setP_open_ (a : Agent) (n : PNum) (x : Mask) : (a.setP n x).open_ = a.open_ := by unfold Agent.setP; split <;> rfl
@[simp] theorem Agent.setP_closed (a : Agent) (n : PNum) (x : Mask) : (a.setP n x).closed = a.closed := by unfold Agent.setP; split <;> rfl
@[simp] theorem Agent.setP_rewindable (a : Agent) (n : PNum) (x : Mask) : (a.setP n x).rewindable = a.rewindable := by unfold Agent.setP; split <;> rfl
@[simp] theorem Agent.setP_restoring (a : Agent) (n : PNum) (x : Mask) : (a.setP n x).restoring = a.restoring := by unfold Agent.setP; split <;> rfl
@[simp] theorem Agent.setP_rwpt (a : Agent) (n : PNum) (x : Mask) : (a.setP n x).rwpt = a.rwpt := by unfold Agent.setP; split <;> rfl
@[simp] theorem Agent.setP_cG (a : Agent) (n : PNum) (x : Mask) : (a.setP n x).cG = a.cG := by unfold Agent.setP; split <;> rfl
@[simp] theorem Agent.setP_block (a : Agent) (n : PNum) (x : Mask) : (a.setP n x).block = a.block := by unfold Agent.setP; split <;> rfl
@[simp] theorem Agent.setP_stopped (a : Agent) (n : PNum) (x : Mask) : (a.setP n x).stopped = a.stopped := by unfold Agent.setP; split <;> rfl
@[simp] theorem Agent.setP_sliceEnd (a : Agent) (n : PNum) (x : Mask) : (a.setP n x).sliceEnd = a.sliceEnd := by unfold Agent.setP; split <;> rfl
@[simp] theorem Agent.setP_mustStop (a : Agent) (n : PNum) (x : Mask) : (a.setP n x).mustStop = a.mustStop := by unfold Agent.setP; split <;> rfl
@[simp] theorem Agent.setP_ended (a : Agent) (n : PNum) (x : Mask) : (a.setP n x).ended = a.ended := by unfold Agent.setP; split <;> rfl
@[simp] theorem Agent.setV_uid (a : Agent) (n : Nat) (x : LaneVec) : (a.setV n x).uid = a.uid := rfl
@[simp] theorem Agent.setV_team (a : Agent) (n : Nat) (x : LaneVec) : (a.setV n x).team = a.team := rfl
@[simp] theorem Agent.setV_grid (a : Agent) (n : Nat) (x : LaneVec) : (a.setV n x).grid = a.grid := rfl
@[simp] theorem Agent.setV_tindex (a : Agent) (n : Nat) (x : LaneVec) : (a.setV n x).tindex = a.tindex := rfl
@[simp] theorem Agent.setV_gang (a : Agent) (n : Nat) (x : LaneVec) : (a.setV n x).gang = a.gang := rfl
@[simp] theorem Agent.setV_ctx (a : Agent) (n : Nat) (x : LaneVec) : (a.setV n x).ctx = a.ctx := rfl
@[simp] theorem Agent.setV_age (a : Agent) (n : Nat) (x : LaneVec) : (a.setV n x).age = a.age := rfl
@[simp] theorem Agent.setV_sreg (a : Agent) (n : Nat) (x : LaneVec) : (a.setV n x).sreg = a.sreg := rfl
@[simp] theorem Agent.setV_qreg (a : Agent) (n : Nat) (x : LaneVec) : (a.setV n x).qreg = a.qreg := rfl
@[simp] theorem Agent.setV_names (a : Agent) (n : Nat) (x : LaneVec) : (a.setV n x).names = a.names := rfl
@[simp] theorem Agent.setV_temps (a : Agent) (n : Nat) (x : LaneVec) : (a.setV n x).temps = a.temps := rfl
@[simp] theorem Agent.setV_preg (a : Agent) (n : Nat) (x : LaneVec) : (a.setV n x).preg = a.preg := rfl
@[simp] theorem Agent.setV_regs (a : Agent) (n : Nat) (x : LaneVec) : (a.setV n x).regs = a.regs := rfl
@[simp] theorem Agent.setV_blocks (a : Agent) (n : Nat) (x : LaneVec) : (a.setV n x).blocks = a.blocks := rfl
@[simp] theorem Agent.setV_flags (a : Agent) (n : Nat) (x : LaneVec) : (a.setV n x).flags = a.flags := rfl
@[simp] theorem Agent.setV_warn (a : Agent) (n : Nat) (x : LaneVec) : (a.setV n x).warn = a.warn := rfl
@[simp] theorem Agent.setV_noreuse (a : Agent) (n : Nat) (x : LaneVec) : (a.setV n x).noreuse = a.noreuse := rfl
@[simp] theorem Agent.setV_stalls (a : Agent) (n : Nat) (x : LaneVec) : (a.setV n x).stalls = a.stalls := rfl
@[simp] theorem Agent.setV_retired (a : Agent) (n : Nat) (x : LaneVec) : (a.setV n x).retired = a.retired := rfl
@[simp] theorem Agent.setV_since (a : Agent) (n : Nat) (x : LaneVec) : (a.setV n x).since = a.since := rfl
@[simp] theorem Agent.setV_retMark (a : Agent) (n : Nat) (x : LaneVec) : (a.setV n x).retMark = a.retMark := rfl
@[simp] theorem Agent.setV_reused (a : Agent) (n : Nat) (x : LaneVec) : (a.setV n x).reused = a.reused := rfl
@[simp] theorem Agent.setV_ldreused (a : Agent) (n : Nat) (x : LaneVec) : (a.setV n x).ldreused = a.ldreused := rfl
@[simp] theorem Agent.setV_cycleh (a : Agent) (n : Nat) (x : LaneVec) : (a.setV n x).cycleh = a.cycleh := rfl
@[simp] theorem Agent.setV_slot0 (a : Agent) (n : Nat) (x : LaneVec) : (a.setV n x).slot0 = a.slot0 := rfl
@[simp] theorem Agent.setV_slot1 (a : Agent) (n : Nat) (x : LaneVec) : (a.setV n x).slot1 = a.slot1 := rfl
@[simp] theorem Agent.setV_which (a : Agent) (n : Nat) (x : LaneVec) : (a.setV n x).which = a.which := rfl
@[simp] theorem Agent.setV_last (a : Agent) (n : Nat) (x : LaneVec) : (a.setV n x).last = a.last := rfl
@[simp] theorem Agent.setV_stack (a : Agent) (n : Nat) (x : LaneVec) : (a.setV n x).stack = a.stack := rfl
@[simp] theorem Agent.setV_run (a : Agent) (n : Nat) (x : LaneVec) : (a.setV n x).run = a.run := rfl
@[simp] theorem Agent.setV_runs (a : Agent) (n : Nat) (x : LaneVec) : (a.setV n x).runs = a.runs := rfl
@[simp] theorem Agent.setV_tokens (a : Agent) (n : Nat) (x : LaneVec) : (a.setV n x).tokens = a.tokens := rfl
@[simp] theorem Agent.setV_pending (a : Agent) (n : Nat) (x : LaneVec) : (a.setV n x).pending = a.pending := rfl
@[simp] theorem Agent.setV_wait0 (a : Agent) (n : Nat) (x : LaneVec) : (a.setV n x).wait0 = a.wait0 := rfl
@[simp] theorem Agent.setV_wait1 (a : Agent) (n : Nat) (x : LaneVec) : (a.setV n x).wait1 = a.wait1 := rfl
@[simp] theorem Agent.setV_sv (a : Agent) (n : Nat) (x : LaneVec) : (a.setV n x).sv = a.sv := rfl
@[simp] theorem Agent.setV_frame (a : Agent) (n : Nat) (x : LaneVec) : (a.setV n x).frame = a.frame := rfl
@[simp] theorem Agent.setV_accs (a : Agent) (n : Nat) (x : LaneVec) : (a.setV n x).accs = a.accs := rfl
@[simp] theorem Agent.setV_ids (a : Agent) (n : Nat) (x : LaneVec) : (a.setV n x).ids = a.ids := rfl
@[simp] theorem Agent.setV_cmds (a : Agent) (n : Nat) (x : LaneVec) : (a.setV n x).cmds = a.cmds := rfl
@[simp] theorem Agent.setV_batch (a : Agent) (n : Nat) (x : LaneVec) : (a.setV n x).batch = a.batch := rfl
@[simp] theorem Agent.setV_open_ (a : Agent) (n : Nat) (x : LaneVec) : (a.setV n x).open_ = a.open_ := rfl
@[simp] theorem Agent.setV_closed (a : Agent) (n : Nat) (x : LaneVec) : (a.setV n x).closed = a.closed := rfl
@[simp] theorem Agent.setV_rewindable (a : Agent) (n : Nat) (x : LaneVec) : (a.setV n x).rewindable = a.rewindable := rfl
@[simp] theorem Agent.setV_restoring (a : Agent) (n : Nat) (x : LaneVec) : (a.setV n x).restoring = a.restoring := rfl
@[simp] theorem Agent.setV_rwpt (a : Agent) (n : Nat) (x : LaneVec) : (a.setV n x).rwpt = a.rwpt := rfl
@[simp] theorem Agent.setV_cG (a : Agent) (n : Nat) (x : LaneVec) : (a.setV n x).cG = a.cG := rfl
@[simp] theorem Agent.setV_block (a : Agent) (n : Nat) (x : LaneVec) : (a.setV n x).block = a.block := rfl
@[simp] theorem Agent.setV_stopped (a : Agent) (n : Nat) (x : LaneVec) : (a.setV n x).stopped = a.stopped := rfl
@[simp] theorem Agent.setV_sliceEnd (a : Agent) (n : Nat) (x : LaneVec) : (a.setV n x).sliceEnd = a.sliceEnd := rfl
@[simp] theorem Agent.setV_mustStop (a : Agent) (n : Nat) (x : LaneVec) : (a.setV n x).mustStop = a.mustStop := rfl
@[simp] theorem Agent.setV_ended (a : Agent) (n : Nat) (x : LaneVec) : (a.setV n x).ended = a.ended := rfl
@[simp] theorem Agent.setT_uid (a : Agent) (n : Nat) (x : LaneVec) : (a.setT n x).uid = a.uid := rfl
@[simp] theorem Agent.setT_team (a : Agent) (n : Nat) (x : LaneVec) : (a.setT n x).team = a.team := rfl
@[simp] theorem Agent.setT_grid (a : Agent) (n : Nat) (x : LaneVec) : (a.setT n x).grid = a.grid := rfl
@[simp] theorem Agent.setT_tindex (a : Agent) (n : Nat) (x : LaneVec) : (a.setT n x).tindex = a.tindex := rfl
@[simp] theorem Agent.setT_gang (a : Agent) (n : Nat) (x : LaneVec) : (a.setT n x).gang = a.gang := rfl
@[simp] theorem Agent.setT_ctx (a : Agent) (n : Nat) (x : LaneVec) : (a.setT n x).ctx = a.ctx := rfl
@[simp] theorem Agent.setT_age (a : Agent) (n : Nat) (x : LaneVec) : (a.setT n x).age = a.age := rfl
@[simp] theorem Agent.setT_sreg (a : Agent) (n : Nat) (x : LaneVec) : (a.setT n x).sreg = a.sreg := rfl
@[simp] theorem Agent.setT_qreg (a : Agent) (n : Nat) (x : LaneVec) : (a.setT n x).qreg = a.qreg := rfl
@[simp] theorem Agent.setT_vreg (a : Agent) (n : Nat) (x : LaneVec) : (a.setT n x).vreg = a.vreg := rfl
@[simp] theorem Agent.setT_names (a : Agent) (n : Nat) (x : LaneVec) : (a.setT n x).names = a.names := rfl
@[simp] theorem Agent.setT_preg (a : Agent) (n : Nat) (x : LaneVec) : (a.setT n x).preg = a.preg := rfl
@[simp] theorem Agent.setT_regs (a : Agent) (n : Nat) (x : LaneVec) : (a.setT n x).regs = a.regs := rfl
@[simp] theorem Agent.setT_blocks (a : Agent) (n : Nat) (x : LaneVec) : (a.setT n x).blocks = a.blocks := rfl
@[simp] theorem Agent.setT_flags (a : Agent) (n : Nat) (x : LaneVec) : (a.setT n x).flags = a.flags := rfl
@[simp] theorem Agent.setT_warn (a : Agent) (n : Nat) (x : LaneVec) : (a.setT n x).warn = a.warn := rfl
@[simp] theorem Agent.setT_noreuse (a : Agent) (n : Nat) (x : LaneVec) : (a.setT n x).noreuse = a.noreuse := rfl
@[simp] theorem Agent.setT_stalls (a : Agent) (n : Nat) (x : LaneVec) : (a.setT n x).stalls = a.stalls := rfl
@[simp] theorem Agent.setT_retired (a : Agent) (n : Nat) (x : LaneVec) : (a.setT n x).retired = a.retired := rfl
@[simp] theorem Agent.setT_since (a : Agent) (n : Nat) (x : LaneVec) : (a.setT n x).since = a.since := rfl
@[simp] theorem Agent.setT_retMark (a : Agent) (n : Nat) (x : LaneVec) : (a.setT n x).retMark = a.retMark := rfl
@[simp] theorem Agent.setT_reused (a : Agent) (n : Nat) (x : LaneVec) : (a.setT n x).reused = a.reused := rfl
@[simp] theorem Agent.setT_ldreused (a : Agent) (n : Nat) (x : LaneVec) : (a.setT n x).ldreused = a.ldreused := rfl
@[simp] theorem Agent.setT_cycleh (a : Agent) (n : Nat) (x : LaneVec) : (a.setT n x).cycleh = a.cycleh := rfl
@[simp] theorem Agent.setT_slot0 (a : Agent) (n : Nat) (x : LaneVec) : (a.setT n x).slot0 = a.slot0 := rfl
@[simp] theorem Agent.setT_slot1 (a : Agent) (n : Nat) (x : LaneVec) : (a.setT n x).slot1 = a.slot1 := rfl
@[simp] theorem Agent.setT_which (a : Agent) (n : Nat) (x : LaneVec) : (a.setT n x).which = a.which := rfl
@[simp] theorem Agent.setT_last (a : Agent) (n : Nat) (x : LaneVec) : (a.setT n x).last = a.last := rfl
@[simp] theorem Agent.setT_stack (a : Agent) (n : Nat) (x : LaneVec) : (a.setT n x).stack = a.stack := rfl
@[simp] theorem Agent.setT_run (a : Agent) (n : Nat) (x : LaneVec) : (a.setT n x).run = a.run := rfl
@[simp] theorem Agent.setT_runs (a : Agent) (n : Nat) (x : LaneVec) : (a.setT n x).runs = a.runs := rfl
@[simp] theorem Agent.setT_tokens (a : Agent) (n : Nat) (x : LaneVec) : (a.setT n x).tokens = a.tokens := rfl
@[simp] theorem Agent.setT_pending (a : Agent) (n : Nat) (x : LaneVec) : (a.setT n x).pending = a.pending := rfl
@[simp] theorem Agent.setT_wait0 (a : Agent) (n : Nat) (x : LaneVec) : (a.setT n x).wait0 = a.wait0 := rfl
@[simp] theorem Agent.setT_wait1 (a : Agent) (n : Nat) (x : LaneVec) : (a.setT n x).wait1 = a.wait1 := rfl
@[simp] theorem Agent.setT_sv (a : Agent) (n : Nat) (x : LaneVec) : (a.setT n x).sv = a.sv := rfl
@[simp] theorem Agent.setT_frame (a : Agent) (n : Nat) (x : LaneVec) : (a.setT n x).frame = a.frame := rfl
@[simp] theorem Agent.setT_accs (a : Agent) (n : Nat) (x : LaneVec) : (a.setT n x).accs = a.accs := rfl
@[simp] theorem Agent.setT_ids (a : Agent) (n : Nat) (x : LaneVec) : (a.setT n x).ids = a.ids := rfl
@[simp] theorem Agent.setT_cmds (a : Agent) (n : Nat) (x : LaneVec) : (a.setT n x).cmds = a.cmds := rfl
@[simp] theorem Agent.setT_batch (a : Agent) (n : Nat) (x : LaneVec) : (a.setT n x).batch = a.batch := rfl
@[simp] theorem Agent.setT_open_ (a : Agent) (n : Nat) (x : LaneVec) : (a.setT n x).open_ = a.open_ := rfl
@[simp] theorem Agent.setT_closed (a : Agent) (n : Nat) (x : LaneVec) : (a.setT n x).closed = a.closed := rfl
@[simp] theorem Agent.setT_rewindable (a : Agent) (n : Nat) (x : LaneVec) : (a.setT n x).rewindable = a.rewindable := rfl
@[simp] theorem Agent.setT_restoring (a : Agent) (n : Nat) (x : LaneVec) : (a.setT n x).restoring = a.restoring := rfl
@[simp] theorem Agent.setT_rwpt (a : Agent) (n : Nat) (x : LaneVec) : (a.setT n x).rwpt = a.rwpt := rfl
@[simp] theorem Agent.setT_cG (a : Agent) (n : Nat) (x : LaneVec) : (a.setT n x).cG = a.cG := rfl
@[simp] theorem Agent.setT_block (a : Agent) (n : Nat) (x : LaneVec) : (a.setT n x).block = a.block := rfl
@[simp] theorem Agent.setT_stopped (a : Agent) (n : Nat) (x : LaneVec) : (a.setT n x).stopped = a.stopped := rfl
@[simp] theorem Agent.setT_sliceEnd (a : Agent) (n : Nat) (x : LaneVec) : (a.setT n x).sliceEnd = a.sliceEnd := rfl
@[simp] theorem Agent.setT_mustStop (a : Agent) (n : Nat) (x : LaneVec) : (a.setT n x).mustStop = a.mustStop := rfl
@[simp] theorem Agent.setT_ended (a : Agent) (n : Nat) (x : LaneVec) : (a.setT n x).ended = a.ended := rfl
@[simp] theorem Agent.setSlot_uid (a : Agent) (x : PcSlot) : (a.setSlot x).uid = a.uid := by unfold Agent.setSlot; split <;> rfl
@[simp] theorem Agent.setSlot_team (a : Agent) (x : PcSlot) : (a.setSlot x).team = a.team := by unfold Agent.setSlot; split <;> rfl
@[simp] theorem Agent.setSlot_grid (a : Agent) (x : PcSlot) : (a.setSlot x).grid = a.grid := by unfold Agent.setSlot; split <;> rfl
@[simp] theorem Agent.setSlot_tindex (a : Agent) (x : PcSlot) : (a.setSlot x).tindex = a.tindex := by unfold Agent.setSlot; split <;> rfl
@[simp] theorem Agent.setSlot_gang (a : Agent) (x : PcSlot) : (a.setSlot x).gang = a.gang := by unfold Agent.setSlot; split <;> rfl
@[simp] theorem Agent.setSlot_ctx (a : Agent) (x : PcSlot) : (a.setSlot x).ctx = a.ctx := by unfold Agent.setSlot; split <;> rfl
@[simp] theorem Agent.setSlot_age (a : Agent) (x : PcSlot) : (a.setSlot x).age = a.age := by unfold Agent.setSlot; split <;> rfl
@[simp] theorem Agent.setSlot_sreg (a : Agent) (x : PcSlot) : (a.setSlot x).sreg = a.sreg := by unfold Agent.setSlot; split <;> rfl
@[simp] theorem Agent.setSlot_qreg (a : Agent) (x : PcSlot) : (a.setSlot x).qreg = a.qreg := by unfold Agent.setSlot; split <;> rfl
@[simp] theorem Agent.setSlot_vreg (a : Agent) (x : PcSlot) : (a.setSlot x).vreg = a.vreg := by unfold Agent.setSlot; split <;> rfl
@[simp] theorem Agent.setSlot_names (a : Agent) (x : PcSlot) : (a.setSlot x).names = a.names := by unfold Agent.setSlot; split <;> rfl
@[simp] theorem Agent.setSlot_temps (a : Agent) (x : PcSlot) : (a.setSlot x).temps = a.temps := by unfold Agent.setSlot; split <;> rfl
@[simp] theorem Agent.setSlot_preg (a : Agent) (x : PcSlot) : (a.setSlot x).preg = a.preg := by unfold Agent.setSlot; split <;> rfl
@[simp] theorem Agent.setSlot_regs (a : Agent) (x : PcSlot) : (a.setSlot x).regs = a.regs := by unfold Agent.setSlot; split <;> rfl
@[simp] theorem Agent.setSlot_blocks (a : Agent) (x : PcSlot) : (a.setSlot x).blocks = a.blocks := by unfold Agent.setSlot; split <;> rfl
@[simp] theorem Agent.setSlot_flags (a : Agent) (x : PcSlot) : (a.setSlot x).flags = a.flags := by unfold Agent.setSlot; split <;> rfl
@[simp] theorem Agent.setSlot_warn (a : Agent) (x : PcSlot) : (a.setSlot x).warn = a.warn := by unfold Agent.setSlot; split <;> rfl
@[simp] theorem Agent.setSlot_noreuse (a : Agent) (x : PcSlot) : (a.setSlot x).noreuse = a.noreuse := by unfold Agent.setSlot; split <;> rfl
@[simp] theorem Agent.setSlot_stalls (a : Agent) (x : PcSlot) : (a.setSlot x).stalls = a.stalls := by unfold Agent.setSlot; split <;> rfl
@[simp] theorem Agent.setSlot_retired (a : Agent) (x : PcSlot) : (a.setSlot x).retired = a.retired := by unfold Agent.setSlot; split <;> rfl
@[simp] theorem Agent.setSlot_since (a : Agent) (x : PcSlot) : (a.setSlot x).since = a.since := by unfold Agent.setSlot; split <;> rfl
@[simp] theorem Agent.setSlot_retMark (a : Agent) (x : PcSlot) : (a.setSlot x).retMark = a.retMark := by unfold Agent.setSlot; split <;> rfl
@[simp] theorem Agent.setSlot_reused (a : Agent) (x : PcSlot) : (a.setSlot x).reused = a.reused := by unfold Agent.setSlot; split <;> rfl
@[simp] theorem Agent.setSlot_ldreused (a : Agent) (x : PcSlot) : (a.setSlot x).ldreused = a.ldreused := by unfold Agent.setSlot; split <;> rfl
@[simp] theorem Agent.setSlot_cycleh (a : Agent) (x : PcSlot) : (a.setSlot x).cycleh = a.cycleh := by unfold Agent.setSlot; split <;> rfl
@[simp] theorem Agent.setSlot_which (a : Agent) (x : PcSlot) : (a.setSlot x).which = a.which := by unfold Agent.setSlot; split <;> rfl
@[simp] theorem Agent.setSlot_last (a : Agent) (x : PcSlot) : (a.setSlot x).last = a.last := by unfold Agent.setSlot; split <;> rfl
@[simp] theorem Agent.setSlot_stack (a : Agent) (x : PcSlot) : (a.setSlot x).stack = a.stack := by unfold Agent.setSlot; split <;> rfl
@[simp] theorem Agent.setSlot_run (a : Agent) (x : PcSlot) : (a.setSlot x).run = a.run := by unfold Agent.setSlot; split <;> rfl
@[simp] theorem Agent.setSlot_runs (a : Agent) (x : PcSlot) : (a.setSlot x).runs = a.runs := by unfold Agent.setSlot; split <;> rfl
@[simp] theorem Agent.setSlot_tokens (a : Agent) (x : PcSlot) : (a.setSlot x).tokens = a.tokens := by unfold Agent.setSlot; split <;> rfl
@[simp] theorem Agent.setSlot_pending (a : Agent) (x : PcSlot) : (a.setSlot x).pending = a.pending := by unfold Agent.setSlot; split <;> rfl
@[simp] theorem Agent.setSlot_wait0 (a : Agent) (x : PcSlot) : (a.setSlot x).wait0 = a.wait0 := by unfold Agent.setSlot; split <;> rfl
@[simp] theorem Agent.setSlot_wait1 (a : Agent) (x : PcSlot) : (a.setSlot x).wait1 = a.wait1 := by unfold Agent.setSlot; split <;> rfl
@[simp] theorem Agent.setSlot_sv (a : Agent) (x : PcSlot) : (a.setSlot x).sv = a.sv := by unfold Agent.setSlot; split <;> rfl
@[simp] theorem Agent.setSlot_frame (a : Agent) (x : PcSlot) : (a.setSlot x).frame = a.frame := by unfold Agent.setSlot; split <;> rfl
@[simp] theorem Agent.setSlot_accs (a : Agent) (x : PcSlot) : (a.setSlot x).accs = a.accs := by unfold Agent.setSlot; split <;> rfl
@[simp] theorem Agent.setSlot_ids (a : Agent) (x : PcSlot) : (a.setSlot x).ids = a.ids := by unfold Agent.setSlot; split <;> rfl
@[simp] theorem Agent.setSlot_cmds (a : Agent) (x : PcSlot) : (a.setSlot x).cmds = a.cmds := by unfold Agent.setSlot; split <;> rfl
@[simp] theorem Agent.setSlot_batch (a : Agent) (x : PcSlot) : (a.setSlot x).batch = a.batch := by unfold Agent.setSlot; split <;> rfl
@[simp] theorem Agent.setSlot_open_ (a : Agent) (x : PcSlot) : (a.setSlot x).open_ = a.open_ := by unfold Agent.setSlot; split <;> rfl
@[simp] theorem Agent.setSlot_closed (a : Agent) (x : PcSlot) : (a.setSlot x).closed = a.closed := by unfold Agent.setSlot; split <;> rfl
@[simp] theorem Agent.setSlot_rewindable (a : Agent) (x : PcSlot) : (a.setSlot x).rewindable = a.rewindable := by unfold Agent.setSlot; split <;> rfl
@[simp] theorem Agent.setSlot_restoring (a : Agent) (x : PcSlot) : (a.setSlot x).restoring = a.restoring := by unfold Agent.setSlot; split <;> rfl
@[simp] theorem Agent.setSlot_rwpt (a : Agent) (x : PcSlot) : (a.setSlot x).rwpt = a.rwpt := by unfold Agent.setSlot; split <;> rfl
@[simp] theorem Agent.setSlot_cG (a : Agent) (x : PcSlot) : (a.setSlot x).cG = a.cG := by unfold Agent.setSlot; split <;> rfl
@[simp] theorem Agent.setSlot_block (a : Agent) (x : PcSlot) : (a.setSlot x).block = a.block := by unfold Agent.setSlot; split <;> rfl
@[simp] theorem Agent.setSlot_stopped (a : Agent) (x : PcSlot) : (a.setSlot x).stopped = a.stopped := by unfold Agent.setSlot; split <;> rfl
@[simp] theorem Agent.setSlot_sliceEnd (a : Agent) (x : PcSlot) : (a.setSlot x).sliceEnd = a.sliceEnd := by unfold Agent.setSlot; split <;> rfl
@[simp] theorem Agent.setSlot_mustStop (a : Agent) (x : PcSlot) : (a.setSlot x).mustStop = a.mustStop := by unfold Agent.setSlot; split <;> rfl
@[simp] theorem Agent.setSlot_ended (a : Agent) (x : PcSlot) : (a.setSlot x).ended = a.ended := by unfold Agent.setSlot; split <;> rfl
@[simp] theorem Agent.setOther_uid (a : Agent) (x : PcSlot) : (a.setOther x).uid = a.uid := by unfold Agent.setOther; split <;> rfl
@[simp] theorem Agent.setOther_team (a : Agent) (x : PcSlot) : (a.setOther x).team = a.team := by unfold Agent.setOther; split <;> rfl
@[simp] theorem Agent.setOther_grid (a : Agent) (x : PcSlot) : (a.setOther x).grid = a.grid := by unfold Agent.setOther; split <;> rfl
@[simp] theorem Agent.setOther_tindex (a : Agent) (x : PcSlot) : (a.setOther x).tindex = a.tindex := by unfold Agent.setOther; split <;> rfl
@[simp] theorem Agent.setOther_gang (a : Agent) (x : PcSlot) : (a.setOther x).gang = a.gang := by unfold Agent.setOther; split <;> rfl
@[simp] theorem Agent.setOther_ctx (a : Agent) (x : PcSlot) : (a.setOther x).ctx = a.ctx := by unfold Agent.setOther; split <;> rfl
@[simp] theorem Agent.setOther_age (a : Agent) (x : PcSlot) : (a.setOther x).age = a.age := by unfold Agent.setOther; split <;> rfl
@[simp] theorem Agent.setOther_sreg (a : Agent) (x : PcSlot) : (a.setOther x).sreg = a.sreg := by unfold Agent.setOther; split <;> rfl
@[simp] theorem Agent.setOther_qreg (a : Agent) (x : PcSlot) : (a.setOther x).qreg = a.qreg := by unfold Agent.setOther; split <;> rfl
@[simp] theorem Agent.setOther_vreg (a : Agent) (x : PcSlot) : (a.setOther x).vreg = a.vreg := by unfold Agent.setOther; split <;> rfl
@[simp] theorem Agent.setOther_names (a : Agent) (x : PcSlot) : (a.setOther x).names = a.names := by unfold Agent.setOther; split <;> rfl
@[simp] theorem Agent.setOther_temps (a : Agent) (x : PcSlot) : (a.setOther x).temps = a.temps := by unfold Agent.setOther; split <;> rfl
@[simp] theorem Agent.setOther_preg (a : Agent) (x : PcSlot) : (a.setOther x).preg = a.preg := by unfold Agent.setOther; split <;> rfl
@[simp] theorem Agent.setOther_regs (a : Agent) (x : PcSlot) : (a.setOther x).regs = a.regs := by unfold Agent.setOther; split <;> rfl
@[simp] theorem Agent.setOther_blocks (a : Agent) (x : PcSlot) : (a.setOther x).blocks = a.blocks := by unfold Agent.setOther; split <;> rfl
@[simp] theorem Agent.setOther_flags (a : Agent) (x : PcSlot) : (a.setOther x).flags = a.flags := by unfold Agent.setOther; split <;> rfl
@[simp] theorem Agent.setOther_warn (a : Agent) (x : PcSlot) : (a.setOther x).warn = a.warn := by unfold Agent.setOther; split <;> rfl
@[simp] theorem Agent.setOther_noreuse (a : Agent) (x : PcSlot) : (a.setOther x).noreuse = a.noreuse := by unfold Agent.setOther; split <;> rfl
@[simp] theorem Agent.setOther_stalls (a : Agent) (x : PcSlot) : (a.setOther x).stalls = a.stalls := by unfold Agent.setOther; split <;> rfl
@[simp] theorem Agent.setOther_retired (a : Agent) (x : PcSlot) : (a.setOther x).retired = a.retired := by unfold Agent.setOther; split <;> rfl
@[simp] theorem Agent.setOther_since (a : Agent) (x : PcSlot) : (a.setOther x).since = a.since := by unfold Agent.setOther; split <;> rfl
@[simp] theorem Agent.setOther_retMark (a : Agent) (x : PcSlot) : (a.setOther x).retMark = a.retMark := by unfold Agent.setOther; split <;> rfl
@[simp] theorem Agent.setOther_reused (a : Agent) (x : PcSlot) : (a.setOther x).reused = a.reused := by unfold Agent.setOther; split <;> rfl
@[simp] theorem Agent.setOther_ldreused (a : Agent) (x : PcSlot) : (a.setOther x).ldreused = a.ldreused := by unfold Agent.setOther; split <;> rfl
@[simp] theorem Agent.setOther_cycleh (a : Agent) (x : PcSlot) : (a.setOther x).cycleh = a.cycleh := by unfold Agent.setOther; split <;> rfl
@[simp] theorem Agent.setOther_which (a : Agent) (x : PcSlot) : (a.setOther x).which = a.which := by unfold Agent.setOther; split <;> rfl
@[simp] theorem Agent.setOther_last (a : Agent) (x : PcSlot) : (a.setOther x).last = a.last := by unfold Agent.setOther; split <;> rfl
@[simp] theorem Agent.setOther_stack (a : Agent) (x : PcSlot) : (a.setOther x).stack = a.stack := by unfold Agent.setOther; split <;> rfl
@[simp] theorem Agent.setOther_run (a : Agent) (x : PcSlot) : (a.setOther x).run = a.run := by unfold Agent.setOther; split <;> rfl
@[simp] theorem Agent.setOther_runs (a : Agent) (x : PcSlot) : (a.setOther x).runs = a.runs := by unfold Agent.setOther; split <;> rfl
@[simp] theorem Agent.setOther_tokens (a : Agent) (x : PcSlot) : (a.setOther x).tokens = a.tokens := by unfold Agent.setOther; split <;> rfl
@[simp] theorem Agent.setOther_pending (a : Agent) (x : PcSlot) : (a.setOther x).pending = a.pending := by unfold Agent.setOther; split <;> rfl
@[simp] theorem Agent.setOther_wait0 (a : Agent) (x : PcSlot) : (a.setOther x).wait0 = a.wait0 := by unfold Agent.setOther; split <;> rfl
@[simp] theorem Agent.setOther_wait1 (a : Agent) (x : PcSlot) : (a.setOther x).wait1 = a.wait1 := by unfold Agent.setOther; split <;> rfl
@[simp] theorem Agent.setOther_sv (a : Agent) (x : PcSlot) : (a.setOther x).sv = a.sv := by unfold Agent.setOther; split <;> rfl
@[simp] theorem Agent.setOther_frame (a : Agent) (x : PcSlot) : (a.setOther x).frame = a.frame := by unfold Agent.setOther; split <;> rfl
@[simp] theorem Agent.setOther_accs (a : Agent) (x : PcSlot) : (a.setOther x).accs = a.accs := by unfold Agent.setOther; split <;> rfl
@[simp] theorem Agent.setOther_ids (a : Agent) (x : PcSlot) : (a.setOther x).ids = a.ids := by unfold Agent.setOther; split <;> rfl
@[simp] theorem Agent.setOther_cmds (a : Agent) (x : PcSlot) : (a.setOther x).cmds = a.cmds := by unfold Agent.setOther; split <;> rfl
@[simp] theorem Agent.setOther_batch (a : Agent) (x : PcSlot) : (a.setOther x).batch = a.batch := by unfold Agent.setOther; split <;> rfl
@[simp] theorem Agent.setOther_open_ (a : Agent) (x : PcSlot) : (a.setOther x).open_ = a.open_ := by unfold Agent.setOther; split <;> rfl
@[simp] theorem Agent.setOther_closed (a : Agent) (x : PcSlot) : (a.setOther x).closed = a.closed := by unfold Agent.setOther; split <;> rfl
@[simp] theorem Agent.setOther_rewindable (a : Agent) (x : PcSlot) : (a.setOther x).rewindable = a.rewindable := by unfold Agent.setOther; split <;> rfl
@[simp] theorem Agent.setOther_restoring (a : Agent) (x : PcSlot) : (a.setOther x).restoring = a.restoring := by unfold Agent.setOther; split <;> rfl
@[simp] theorem Agent.setOther_rwpt (a : Agent) (x : PcSlot) : (a.setOther x).rwpt = a.rwpt := by unfold Agent.setOther; split <;> rfl
@[simp] theorem Agent.setOther_cG (a : Agent) (x : PcSlot) : (a.setOther x).cG = a.cG := by unfold Agent.setOther; split <;> rfl
@[simp] theorem Agent.setOther_block (a : Agent) (x : PcSlot) : (a.setOther x).block = a.block := by unfold Agent.setOther; split <;> rfl
@[simp] theorem Agent.setOther_stopped (a : Agent) (x : PcSlot) : (a.setOther x).stopped = a.stopped := by unfold Agent.setOther; split <;> rfl
@[simp] theorem Agent.setOther_sliceEnd (a : Agent) (x : PcSlot) : (a.setOther x).sliceEnd = a.sliceEnd := by unfold Agent.setOther; split <;> rfl
@[simp] theorem Agent.setOther_mustStop (a : Agent) (x : PcSlot) : (a.setOther x).mustStop = a.mustStop := by unfold Agent.setOther; split <;> rfl
@[simp] theorem Agent.setOther_ended (a : Agent) (x : PcSlot) : (a.setOther x).ended = a.ended := by unfold Agent.setOther; split <;> rfl
@[simp] theorem Agent.setFlow_uid (a : Agent) (x : Flow) : (a.setFlow x).uid = a.uid := rfl
@[simp] theorem Agent.setFlow_team (a : Agent) (x : Flow) : (a.setFlow x).team = a.team := rfl
@[simp] theorem Agent.setFlow_grid (a : Agent) (x : Flow) : (a.setFlow x).grid = a.grid := rfl
@[simp] theorem Agent.setFlow_tindex (a : Agent) (x : Flow) : (a.setFlow x).tindex = a.tindex := rfl
@[simp] theorem Agent.setFlow_gang (a : Agent) (x : Flow) : (a.setFlow x).gang = a.gang := rfl
@[simp] theorem Agent.setFlow_ctx (a : Agent) (x : Flow) : (a.setFlow x).ctx = a.ctx := rfl
@[simp] theorem Agent.setFlow_age (a : Agent) (x : Flow) : (a.setFlow x).age = a.age := rfl
@[simp] theorem Agent.setFlow_sreg (a : Agent) (x : Flow) : (a.setFlow x).sreg = a.sreg := rfl
@[simp] theorem Agent.setFlow_qreg (a : Agent) (x : Flow) : (a.setFlow x).qreg = a.qreg := rfl
@[simp] theorem Agent.setFlow_vreg (a : Agent) (x : Flow) : (a.setFlow x).vreg = a.vreg := rfl
@[simp] theorem Agent.setFlow_names (a : Agent) (x : Flow) : (a.setFlow x).names = a.names := rfl
@[simp] theorem Agent.setFlow_temps (a : Agent) (x : Flow) : (a.setFlow x).temps = a.temps := rfl
@[simp] theorem Agent.setFlow_preg (a : Agent) (x : Flow) : (a.setFlow x).preg = a.preg := rfl
@[simp] theorem Agent.setFlow_regs (a : Agent) (x : Flow) : (a.setFlow x).regs = a.regs := rfl
@[simp] theorem Agent.setFlow_blocks (a : Agent) (x : Flow) : (a.setFlow x).blocks = a.blocks := rfl
@[simp] theorem Agent.setFlow_flags (a : Agent) (x : Flow) : (a.setFlow x).flags = a.flags := rfl
@[simp] theorem Agent.setFlow_warn (a : Agent) (x : Flow) : (a.setFlow x).warn = a.warn := rfl
@[simp] theorem Agent.setFlow_noreuse (a : Agent) (x : Flow) : (a.setFlow x).noreuse = a.noreuse := rfl
@[simp] theorem Agent.setFlow_stalls (a : Agent) (x : Flow) : (a.setFlow x).stalls = a.stalls := rfl
@[simp] theorem Agent.setFlow_retired (a : Agent) (x : Flow) : (a.setFlow x).retired = a.retired := rfl
@[simp] theorem Agent.setFlow_since (a : Agent) (x : Flow) : (a.setFlow x).since = a.since := rfl
@[simp] theorem Agent.setFlow_retMark (a : Agent) (x : Flow) : (a.setFlow x).retMark = a.retMark := rfl
@[simp] theorem Agent.setFlow_reused (a : Agent) (x : Flow) : (a.setFlow x).reused = a.reused := rfl
@[simp] theorem Agent.setFlow_ldreused (a : Agent) (x : Flow) : (a.setFlow x).ldreused = a.ldreused := rfl
@[simp] theorem Agent.setFlow_cycleh (a : Agent) (x : Flow) : (a.setFlow x).cycleh = a.cycleh := rfl
@[simp] theorem Agent.setFlow_slot0 (a : Agent) (x : Flow) : (a.setFlow x).slot0 = a.slot0 := rfl
@[simp] theorem Agent.setFlow_slot1 (a : Agent) (x : Flow) : (a.setFlow x).slot1 = a.slot1 := rfl
@[simp] theorem Agent.setFlow_which (a : Agent) (x : Flow) : (a.setFlow x).which = a.which := rfl
@[simp] theorem Agent.setFlow_last (a : Agent) (x : Flow) : (a.setFlow x).last = a.last := rfl
@[simp] theorem Agent.setFlow_stack (a : Agent) (x : Flow) : (a.setFlow x).stack = a.stack := rfl
@[simp] theorem Agent.setFlow_runs (a : Agent) (x : Flow) : (a.setFlow x).runs = a.runs := rfl
@[simp] theorem Agent.setFlow_tokens (a : Agent) (x : Flow) : (a.setFlow x).tokens = a.tokens := rfl
@[simp] theorem Agent.setFlow_pending (a : Agent) (x : Flow) : (a.setFlow x).pending = a.pending := rfl
@[simp] theorem Agent.setFlow_wait0 (a : Agent) (x : Flow) : (a.setFlow x).wait0 = a.wait0 := rfl
@[simp] theorem Agent.setFlow_wait1 (a : Agent) (x : Flow) : (a.setFlow x).wait1 = a.wait1 := rfl
@[simp] theorem Agent.setFlow_sv (a : Agent) (x : Flow) : (a.setFlow x).sv = a.sv := rfl
@[simp] theorem Agent.setFlow_frame (a : Agent) (x : Flow) : (a.setFlow x).frame = a.frame := rfl
@[simp] theorem Agent.setFlow_accs (a : Agent) (x : Flow) : (a.setFlow x).accs = a.accs := rfl
@[simp] theorem Agent.setFlow_ids (a : Agent) (x : Flow) : (a.setFlow x).ids = a.ids := rfl
@[simp] theorem Agent.setFlow_cmds (a : Agent) (x : Flow) : (a.setFlow x).cmds = a.cmds := rfl
@[simp] theorem Agent.setFlow_batch (a : Agent) (x : Flow) : (a.setFlow x).batch = a.batch := rfl
@[simp] theorem Agent.setFlow_open_ (a : Agent) (x : Flow) : (a.setFlow x).open_ = a.open_ := rfl
@[simp] theorem Agent.setFlow_closed (a : Agent) (x : Flow) : (a.setFlow x).closed = a.closed := rfl
@[simp] theorem Agent.setFlow_rewindable (a : Agent) (x : Flow) : (a.setFlow x).rewindable = a.rewindable := rfl
@[simp] theorem Agent.setFlow_restoring (a : Agent) (x : Flow) : (a.setFlow x).restoring = a.restoring := rfl
@[simp] theorem Agent.setFlow_rwpt (a : Agent) (x : Flow) : (a.setFlow x).rwpt = a.rwpt := rfl
@[simp] theorem Agent.setFlow_cG (a : Agent) (x : Flow) : (a.setFlow x).cG = a.cG := rfl
@[simp] theorem Agent.setFlow_block (a : Agent) (x : Flow) : (a.setFlow x).block = a.block := rfl
@[simp] theorem Agent.setFlow_stopped (a : Agent) (x : Flow) : (a.setFlow x).stopped = a.stopped := rfl
@[simp] theorem Agent.setFlow_sliceEnd (a : Agent) (x : Flow) : (a.setFlow x).sliceEnd = a.sliceEnd := rfl
@[simp] theorem Agent.setFlow_mustStop (a : Agent) (x : Flow) : (a.setFlow x).mustStop = a.mustStop := rfl
@[simp] theorem Agent.setFlow_ended (a : Agent) (x : Flow) : (a.setFlow x).ended = a.ended := rfl
@[simp] theorem Agent.retire_uid (a : Agent) : (a.retire).uid = a.uid := rfl
@[simp] theorem Agent.retire_team (a : Agent) : (a.retire).team = a.team := rfl
@[simp] theorem Agent.retire_grid (a : Agent) : (a.retire).grid = a.grid := rfl
@[simp] theorem Agent.retire_tindex (a : Agent) : (a.retire).tindex = a.tindex := rfl
@[simp] theorem Agent.retire_gang (a : Agent) : (a.retire).gang = a.gang := rfl
@[simp] theorem Agent.retire_ctx (a : Agent) : (a.retire).ctx = a.ctx := rfl
@[simp] theorem Agent.retire_age (a : Agent) : (a.retire).age = a.age := rfl
@[simp] theorem Agent.retire_sreg (a : Agent) : (a.retire).sreg = a.sreg := rfl
@[simp] theorem Agent.retire_qreg (a : Agent) : (a.retire).qreg = a.qreg := rfl
@[simp] theorem Agent.retire_vreg (a : Agent) : (a.retire).vreg = a.vreg := rfl
@[simp] theorem Agent.retire_names (a : Agent) : (a.retire).names = a.names := rfl
@[simp] theorem Agent.retire_temps (a : Agent) : (a.retire).temps = a.temps := rfl
@[simp] theorem Agent.retire_preg (a : Agent) : (a.retire).preg = a.preg := rfl
@[simp] theorem Agent.retire_regs (a : Agent) : (a.retire).regs = a.regs := rfl
@[simp] theorem Agent.retire_blocks (a : Agent) : (a.retire).blocks = a.blocks := rfl
@[simp] theorem Agent.retire_flags (a : Agent) : (a.retire).flags = a.flags := rfl
@[simp] theorem Agent.retire_noreuse (a : Agent) : (a.retire).noreuse = a.noreuse := rfl
@[simp] theorem Agent.retire_stalls (a : Agent) : (a.retire).stalls = a.stalls := rfl
@[simp] theorem Agent.retire_retMark (a : Agent) : (a.retire).retMark = a.retMark := rfl
@[simp] theorem Agent.retire_reused (a : Agent) : (a.retire).reused = a.reused := rfl
@[simp] theorem Agent.retire_ldreused (a : Agent) : (a.retire).ldreused = a.ldreused := rfl
@[simp] theorem Agent.retire_cycleh (a : Agent) : (a.retire).cycleh = a.cycleh := rfl
@[simp] theorem Agent.retire_slot0 (a : Agent) : (a.retire).slot0 = a.slot0 := rfl
@[simp] theorem Agent.retire_slot1 (a : Agent) : (a.retire).slot1 = a.slot1 := rfl
@[simp] theorem Agent.retire_which (a : Agent) : (a.retire).which = a.which := rfl
@[simp] theorem Agent.retire_last (a : Agent) : (a.retire).last = a.last := rfl
@[simp] theorem Agent.retire_stack (a : Agent) : (a.retire).stack = a.stack := rfl
@[simp] theorem Agent.retire_runs (a : Agent) : (a.retire).runs = a.runs := rfl
@[simp] theorem Agent.retire_tokens (a : Agent) : (a.retire).tokens = a.tokens := rfl
@[simp] theorem Agent.retire_pending (a : Agent) : (a.retire).pending = a.pending := rfl
@[simp] theorem Agent.retire_wait0 (a : Agent) : (a.retire).wait0 = a.wait0 := rfl
@[simp] theorem Agent.retire_wait1 (a : Agent) : (a.retire).wait1 = a.wait1 := rfl
@[simp] theorem Agent.retire_sv (a : Agent) : (a.retire).sv = a.sv := rfl
@[simp] theorem Agent.retire_frame (a : Agent) : (a.retire).frame = a.frame := rfl
@[simp] theorem Agent.retire_accs (a : Agent) : (a.retire).accs = a.accs := rfl
@[simp] theorem Agent.retire_ids (a : Agent) : (a.retire).ids = a.ids := rfl
@[simp] theorem Agent.retire_cmds (a : Agent) : (a.retire).cmds = a.cmds := rfl
@[simp] theorem Agent.retire_batch (a : Agent) : (a.retire).batch = a.batch := rfl
@[simp] theorem Agent.retire_open_ (a : Agent) : (a.retire).open_ = a.open_ := rfl
@[simp] theorem Agent.retire_closed (a : Agent) : (a.retire).closed = a.closed := rfl
@[simp] theorem Agent.retire_rewindable (a : Agent) : (a.retire).rewindable = a.rewindable := rfl
@[simp] theorem Agent.retire_restoring (a : Agent) : (a.retire).restoring = a.restoring := rfl
@[simp] theorem Agent.retire_rwpt (a : Agent) : (a.retire).rwpt = a.rwpt := rfl
@[simp] theorem Agent.retire_cG (a : Agent) : (a.retire).cG = a.cG := rfl
@[simp] theorem Agent.retire_stopped (a : Agent) : (a.retire).stopped = a.stopped := rfl
@[simp] theorem Agent.retire_sliceEnd (a : Agent) : (a.retire).sliceEnd = a.sliceEnd := rfl
@[simp] theorem Agent.retire_mustStop (a : Agent) : (a.retire).mustStop = a.mustStop := rfl
@[simp] theorem Agent.retire_ended (a : Agent) : (a.retire).ended = a.ended := rfl
@[simp] theorem Agent.skip_uid (a : Agent) : (a.skip).uid = a.uid := rfl
@[simp] theorem Agent.skip_team (a : Agent) : (a.skip).team = a.team := rfl
@[simp] theorem Agent.skip_grid (a : Agent) : (a.skip).grid = a.grid := rfl
@[simp] theorem Agent.skip_tindex (a : Agent) : (a.skip).tindex = a.tindex := rfl
@[simp] theorem Agent.skip_gang (a : Agent) : (a.skip).gang = a.gang := rfl
@[simp] theorem Agent.skip_ctx (a : Agent) : (a.skip).ctx = a.ctx := rfl
@[simp] theorem Agent.skip_age (a : Agent) : (a.skip).age = a.age := rfl
@[simp] theorem Agent.skip_sreg (a : Agent) : (a.skip).sreg = a.sreg := rfl
@[simp] theorem Agent.skip_qreg (a : Agent) : (a.skip).qreg = a.qreg := rfl
@[simp] theorem Agent.skip_vreg (a : Agent) : (a.skip).vreg = a.vreg := rfl
@[simp] theorem Agent.skip_names (a : Agent) : (a.skip).names = a.names := rfl
@[simp] theorem Agent.skip_temps (a : Agent) : (a.skip).temps = a.temps := rfl
@[simp] theorem Agent.skip_preg (a : Agent) : (a.skip).preg = a.preg := rfl
@[simp] theorem Agent.skip_regs (a : Agent) : (a.skip).regs = a.regs := rfl
@[simp] theorem Agent.skip_blocks (a : Agent) : (a.skip).blocks = a.blocks := rfl
@[simp] theorem Agent.skip_flags (a : Agent) : (a.skip).flags = a.flags := rfl
@[simp] theorem Agent.skip_warn (a : Agent) : (a.skip).warn = a.warn := rfl
@[simp] theorem Agent.skip_noreuse (a : Agent) : (a.skip).noreuse = a.noreuse := rfl
@[simp] theorem Agent.skip_stalls (a : Agent) : (a.skip).stalls = a.stalls := rfl
@[simp] theorem Agent.skip_retired (a : Agent) : (a.skip).retired = a.retired := rfl
@[simp] theorem Agent.skip_since (a : Agent) : (a.skip).since = a.since := rfl
@[simp] theorem Agent.skip_retMark (a : Agent) : (a.skip).retMark = a.retMark := rfl
@[simp] theorem Agent.skip_reused (a : Agent) : (a.skip).reused = a.reused := rfl
@[simp] theorem Agent.skip_ldreused (a : Agent) : (a.skip).ldreused = a.ldreused := rfl
@[simp] theorem Agent.skip_cycleh (a : Agent) : (a.skip).cycleh = a.cycleh := rfl
@[simp] theorem Agent.skip_slot0 (a : Agent) : (a.skip).slot0 = a.slot0 := rfl
@[simp] theorem Agent.skip_slot1 (a : Agent) : (a.skip).slot1 = a.slot1 := rfl
@[simp] theorem Agent.skip_which (a : Agent) : (a.skip).which = a.which := rfl
@[simp] theorem Agent.skip_last (a : Agent) : (a.skip).last = a.last := rfl
@[simp] theorem Agent.skip_stack (a : Agent) : (a.skip).stack = a.stack := rfl
@[simp] theorem Agent.skip_runs (a : Agent) : (a.skip).runs = a.runs := rfl
@[simp] theorem Agent.skip_tokens (a : Agent) : (a.skip).tokens = a.tokens := rfl
@[simp] theorem Agent.skip_pending (a : Agent) : (a.skip).pending = a.pending := rfl
@[simp] theorem Agent.skip_wait0 (a : Agent) : (a.skip).wait0 = a.wait0 := rfl
@[simp] theorem Agent.skip_wait1 (a : Agent) : (a.skip).wait1 = a.wait1 := rfl
@[simp] theorem Agent.skip_sv (a : Agent) : (a.skip).sv = a.sv := rfl
@[simp] theorem Agent.skip_frame (a : Agent) : (a.skip).frame = a.frame := rfl
@[simp] theorem Agent.skip_accs (a : Agent) : (a.skip).accs = a.accs := rfl
@[simp] theorem Agent.skip_ids (a : Agent) : (a.skip).ids = a.ids := rfl
@[simp] theorem Agent.skip_cmds (a : Agent) : (a.skip).cmds = a.cmds := rfl
@[simp] theorem Agent.skip_batch (a : Agent) : (a.skip).batch = a.batch := rfl
@[simp] theorem Agent.skip_open_ (a : Agent) : (a.skip).open_ = a.open_ := rfl
@[simp] theorem Agent.skip_closed (a : Agent) : (a.skip).closed = a.closed := rfl
@[simp] theorem Agent.skip_rewindable (a : Agent) : (a.skip).rewindable = a.rewindable := rfl
@[simp] theorem Agent.skip_restoring (a : Agent) : (a.skip).restoring = a.restoring := rfl
@[simp] theorem Agent.skip_rwpt (a : Agent) : (a.skip).rwpt = a.rwpt := rfl
@[simp] theorem Agent.skip_cG (a : Agent) : (a.skip).cG = a.cG := rfl
@[simp] theorem Agent.skip_stopped (a : Agent) : (a.skip).stopped = a.stopped := rfl
@[simp] theorem Agent.skip_sliceEnd (a : Agent) : (a.skip).sliceEnd = a.sliceEnd := rfl
@[simp] theorem Agent.skip_mustStop (a : Agent) : (a.skip).mustStop = a.mustStop := rfl
@[simp] theorem Agent.skip_ended (a : Agent) : (a.skip).ended = a.ended := rfl

/-! Registers after a write. -/

@[simp] theorem Agent.s_zero (a : Agent) : a.s 0 = 0#32 := by simp [Agent.s]
@[simp] theorem Agent.setS_zero (a : Agent) (x : Word) : a.setS 0 x = a := by simp [Agent.setS]
theorem Agent.s_setS_same (a : Agent) (n : Nat) (x : Word) (h : n ≠ 0) : (a.setS n x).s n = x := by simp [Agent.s, Agent.setS, h]
theorem Agent.s_setS_ne (a : Agent) (n m : Nat) (x : Word) (h : m ≠ n) : (a.setS n x).s m = a.s m := by
  unfold Agent.s Agent.setS
  split
  · rfl
  · split
    · rfl
    · exact mapGet_mapSet_ne _ _ _ _ _ h
@[simp] theorem Agent.v_setV_same (a : Agent) (n : Nat) (x : LaneVec) : (a.setV n x).v n = x := by simp [Agent.v, Agent.setV]
theorem Agent.v_setV_ne (a : Agent) (n m : Nat) (x : LaneVec) (h : m ≠ n) : (a.setV n x).v m = a.v m := mapGet_mapSet_ne _ _ _ _ _ h
@[simp] theorem Agent.t_setT_same (a : Agent) (n : Nat) (x : LaneVec) : (a.setT n x).t n = x := by simp [Agent.t, Agent.setT]
theorem Agent.t_setT_ne (a : Agent) (n m : Nat) (x : LaneVec) (h : m ≠ n) : (a.setT n x).t m = a.t m := mapGet_mapSet_ne _ _ _ _ _ h
@[simp] theorem Agent.p_seven (a : Agent) : a.p 7#3 = BitVec.allOnes 32 := by simp [Agent.p]
@[simp] theorem Agent.q_seven (a : Agent) : a.q 7#3 = true := by simp [Agent.q]
theorem Agent.p_setP_same (a : Agent) (n : PNum) (x : Mask) (h : n ≠ 7#3) : (a.setP n x).p n = x := by simp [Agent.p, Agent.setP, h]
theorem Agent.p_setP_ne (a : Agent) (n m : PNum) (x : Mask) (h : m ≠ n) : (a.setP n x).p m = a.p m := by
  unfold Agent.p Agent.setP
  split
  · rfl
  · split
    · rfl
    · exact mapGet_mapSet_ne _ _ _ _ _ (fun e => h (BitVec.eq_of_toNat_eq e))

end Sys2Proof.Machine
end

