-- ==== Sys2Proof/Laws/Ops.lean ====
section
/-! SUPPORT. What each shared operation does, said once: the frames of a uniform word and of a vector word, the ways
a word ends, taking an exception and leaving one. -/

namespace Sys2Proof.Machine

/-! How a word ends. -/

theorem endWord_done (s : State) (k : Nat) (a : Agent) (act : Mask) (t : State) :
    endWord s k a act (.done t) = .next (t.modAgent k Agent.retire) := rfl
theorem endWord_wait (s : State) (k : Nat) (a : Agent) (act : Mask) (c : Bool) (t : State) :
    endWord s k a act (.wait c t) = .next (t.modAgent k fun a => a.stallWord c) := rfl
theorem endWord_next (s : State) (k : Nat) (a : Agent) (act : Mask) (v : Verdict) : ∃ t, endWord s k a act v = .next t := by
  cases v <;> exact ⟨_, rfl⟩

/-! What a word meets first. -/

theorem busyWait_clear (s : State) (k : Nat) (a : Agent) (reads writes : List Nat) (h : a.clear reads writes) :
    busyWait s k a reads writes = none := by
  have hb := h.1
  have h1 : reads.any a.busy = false := by
    rw [List.any_eq_false]
    intro c hc
    simp [hb c (List.mem_append_left _ hc)]
  have h2 : writes.any a.busy = false := by
    rw [List.any_eq_false]
    intro c hc
    simp [hb c (List.mem_append_right _ hc)]
  simp [busyWait, h1, h2]
theorem parked_clear (a : Agent) (reads writes : List Nat) (h : a.clear reads writes) : reads.findSome? a.parkedOn = none := by
  rw [List.findSome?_eq_none_iff]
  exact h.2
theorem readWait_clear (s : State) (k : Nat) (a : Agent) (reads writes : List Nat) (h : a.clear reads writes) :
    readWait s k a reads writes = none := by
  simp [readWait, busyWait_clear s k a _ _ h, parked_clear a _ _ h]

theorem Agent.discard_of_none (a : Agent) (writes : List Nat) (h : (a.accs.any fun x => x.overwrittenBy a.runs writes) = false) :
    a.discard writes = a := by
  unfold Agent.discard
  have : a.accs.filter (fun x => !x.overwrittenBy a.runs writes) = a.accs := by
    rw [List.filter_eq_self]
    intro x hx
    rw [List.any_eq_false] at h
    simpa using h x hx
  rw [this]

/-- The state and agent in which a word that writes some registers takes effect. -/
theorem State.overwrite_eq (s : State) (k : Nat) (a : Agent) (writes : List Nat) :
    (s.overwrite k a writes).2 = a.discard writes ∧
    ((s.overwrite k a writes).1 = s ∨ (s.overwrite k a writes).1 = s.setAgent k (a.discard writes)) := by
  unfold State.overwrite
  split
  · exact ⟨rfl, .inr rfl⟩
  · rename_i h
    refine ⟨?_, .inl rfl⟩
    rw [Agent.discard_of_none a writes (by simpa using h)]
theorem State.overwrite_setAgent (s : State) (k : Nat) (a b : Agent) (writes : List Nat) :
    (s.overwrite k a writes).1.setAgent k b = s.setAgent k b := by
  rcases (s.overwrite_eq k a writes).2 with h | h <;> simp [h]

/-! The frame of a uniform word. -/

theorem bank_clear (a : Agent) (sv : Bool) (dsts : List Nat) (h : a.sv = true ∨ (sv = false ∧ ∀ n ∈ dsts, n < 496)) :
    (!a.sv && (sv || dsts.any bankReg)) = false := by
  rcases h with h | ⟨h1, h2⟩
  · simp [h]
  · have : dsts.any bankReg = false := by
      rw [List.any_eq_false]
      intro n hn
      have := h2 n hn
      simp [bankReg]
      omega
    simp [h1, this]

/-- Under its conditions a uniform word is its effect, in the state without the parked loads it overwrites. -/
theorem uniformWord_ready {who : Who} {sv : Bool} {dsts : List Nat} {p : Pred} {reads : List Nat} {s : State} {a : Agent}
    (body : State → Nat → Agent → Verdict) (h : UniReady who sv dsts p reads s a) :
    uniformWord who sv dsts p reads s body =
      endWord s s.cur a 0 (body (s.overwrite s.cur a (dsts.map sCode)).1 s.cur (a.discard (dsts.map sCode))) := by
  obtain ⟨⟨ha, hw, hb, hc⟩, hp⟩ := h
  simp [uniformWord, ha, hw, bank_clear a sv dsts hb, busyWait_clear s s.cur a _ _ hc, parked_clear a _ _ hc, hp, (s.overwrite_eq s.cur a _).1]
/-- One whose predicate is false only retires (R29). -/
theorem uniformWord_off {who : Who} {sv : Bool} {dsts : List Nat} {p : Pred} {reads : List Nat} {s : State} {a : Agent}
    (body : State → Nat → Agent → Verdict) (h : UniClear who sv dsts reads s a) (hp : a.holds p = false) :
    uniformWord who sv dsts p reads s body = .next (s.setAgent s.cur a.retire) := by
  obtain ⟨ha, hw, hb, -⟩ := h
  simp [uniformWord, ha, hw, bank_clear a sv dsts hb, hp, endWord_done, State.modAgent_of s s.cur a _ ha]
/-- A word of register results only: its agent changes, and nothing else. -/
theorem uniformWord_result {who : Who} {sv : Bool} {dsts : List Nat} {p : Pred} {reads : List Nat} {s : State} {a : Agent}
    (f : State → Agent → Agent) (h : UniReady who sv dsts p reads s a)
    (hf : ∀ b : Agent, f (s.setAgent s.cur b) = f s) :
    uniformWord who sv dsts p reads s (fun s k a => .done (s.setAgent k (f s a))) =
      .next (s.setAgent s.cur (f s (a.discard (dsts.map sCode))).retire) := by
  rw [uniformWord_ready _ h, endWord_done, State.overwrite_setAgent, State.modAgent_setAgent]
  rcases (s.overwrite_eq s.cur a (dsts.map sCode)).2 with e | e <;> simp [e, hf]

/-! The frame of a vector word. -/

theorem vectorWord_ready {p : Pred} {reads writes named : List Nat} {s : State} {a : Agent}
    (body : State → Nat → Agent → Mask → Verdict) (h : VecReady p reads writes named s a) :
    vectorWord p reads writes named s body =
      endWord s s.cur a (a.active p) (body (s.overwrite s.cur a writes).1 s.cur (a.discard writes) (a.active p)) := by
  obtain ⟨⟨ha, hs, hn, hc⟩, hp⟩ := h
  have h1 : named.find? (fun n => !a.hasV n) = none := by
    rw [List.find?_eq_none]
    intro n hn'
    simp [hn n hn']
  have hp' : ¬ a.active p = 0#32 := hp
  simp [vectorWord, ha, hs, h1, busyWait_clear s s.cur a _ _ hc, parked_clear a _ _ hc, hp', (s.overwrite_eq s.cur a _).1]
/-- A vector word with no active lane only retires (R50, R128). -/
theorem vectorWord_off {p : Pred} {reads writes named : List Nat} {s : State} {a : Agent}
    (body : State → Nat → Agent → Mask → Verdict) (h : VecClear reads writes named s a) (hp : a.active p = 0) :
    vectorWord p reads writes named s body = .next (s.setAgent s.cur a.retire) := by
  obtain ⟨ha, hs, hn, -⟩ := h
  have h1 : named.find? (fun n => !a.hasV n) = none := by
    rw [List.find?_eq_none]
    intro n hn'
    simp [hn n hn']
  have hp' : a.active p = 0#32 := hp
  simp [vectorWord, ha, hs, h1, hp', endWord_done, State.modAgent_of s s.cur a _ ha]
/-- A sequencer never executes one (R49). -/
theorem vectorWord_seq {p : Pred} {reads writes named : List Nat} {s : State} {a : Agent}
    (body : State → Nat → Agent → Mask → Verdict) (ha : s.agent? s.cur = some a) (hs : isSeq s.cur = true) :
    vectorWord p reads writes named s body = endWord s s.cur a 0 (illegal 0x15) := by
  simp [vectorWord, ha, hs]


/-! The frame of a word with a condition on its values. -/

/-- Where the registers the condition reads hold values that meet it, a value word is a uniform word (R50, R312). -/
theorem valueWord_good {who : Who} {sv : Bool} {dsts : List Nat} {p : Pred} {reads vals : List Nat} {bad : Agent → Bool} {s : State}
    {a : Agent} (body : State → Nat → Agent → Verdict) (ha : s.agent? s.cur = some a) (hv : ∀ n ∈ vals, a.busy (sCode n) = false)
    (hb : bad a = false) : valueWord who sv dsts p reads vals bad s body = uniformWord who sv dsts p reads s body := by
  have h1 : (vals.map sCode).any a.busy = false := by
    rw [List.any_eq_false]
    intro c hc
    obtain ⟨n, hn, rfl⟩ := List.mem_map.1 hc
    simp [hv n hn]
  simp [valueWord, ha, h1, hb]
/-- Where they do not, it traps ILLEGAL 0x14 whatever its predicate. -/
theorem valueWord_bad {who : Who} {sv : Bool} {dsts : List Nat} {p : Pred} {reads vals : List Nat} {bad : Agent → Bool} {s : State}
    {a : Agent} (body : State → Nat → Agent → Verdict) (ha : s.agent? s.cur = some a) (hl : s.lenient s.cur = false)
    (hv : a.clear (vals.map sCode) []) (hb : bad a = true) : valueWord who sv dsts p reads vals bad s body = illegalWord 0x14 s := by
  have h1 : (vals.map sCode).any a.busy = false := by
    rw [List.any_eq_false]
    intro c hc
    simp [hv.1 c (List.mem_append_left _ hc)]
  simp [valueWord, ha, h1, hb, hl, parked_clear a _ _ hv]

end Sys2Proof.Machine
end

