-- ==== Sys2Proof/Laws/Operands.lean ====
section
/-! SUPPORT. What writing a vector register or a temporary changes, and what a word that computes lane by lane does. -/

namespace Sys2Proof.Machine

/-- Two quadrants that differ in the value store and the reuse table only. -/
def SameQuad (q r : Quad) : Prop := r = { q with vs := r.vs, vclock := r.vclock, rt := r.rt }

theorem SameQuad.refl (q : Quad) : SameQuad q q := rfl
theorem SameQuad.trans {q r x : Quad} (h1 : SameQuad q r) (h2 : SameQuad r x) : SameQuad q x := by
  unfold SameQuad at *
  rw [h2, h1]
theorem Quad.setEntry_same (q : Quad) (e : Nat) (x : VsEntry) : SameQuad q (q.setEntry e x) := rfl
theorem Quad.allocate_same (q : Quad) (e : Nat) (v : LaneVec) (tag : Nat) (f : Bool) : SameQuad q (q.allocate e v tag f) := rfl
theorem Quad.takeFree_same (q : Quad) (tag : Nat) (v : LaneVec) : SameQuad q (q.takeFree tag v).2 := by
  unfold Quad.takeFree
  split <;> rfl
theorem Quad.place_same (q : Quad) (tag : Nat) (v : LaneVec) : SameQuad q (q.place tag v).2 := by
  unfold Quad.place
  split
  · rfl
  · split
    · rfl
    · dsimp only
      split
      · rfl
      · exact Quad.takeFree_same _ _ _
theorem Quad.pin_same (q : Quad) (tag e : Nat) : SameQuad q (q.pin tag e).2 := by
  unfold Quad.pin
  split
  · rfl
  · split
    · rfl
    · exact Quad.takeFree_same _ _ _
theorem Quad.release_same (q : Quad) (e : Nat) : SameQuad q (q.release e) := by
  unfold Quad.release
  split
  · rfl
  · dsimp only
    split <;> rfl
theorem Quad.rtRecord_same (q : Quad) (e : RtEntry) : SameQuad q (q.rtRecord e) := rfl

/-! Only the issuing agent. -/

theorem OnlyAgent.refl (s : State) (k : Nat) : OnlyAgent s s k := ⟨rfl, fun _ _ => rfl, fun _ _ => rfl, rfl⟩
theorem OnlyAgent.trans {s t u : State} {k : Nat} (h1 : OnlyAgent s t k) (h2 : OnlyAgent t u k) : OnlyAgent s u k := by
  refine ⟨?_, fun j hj => (h2.2.1 j hj).trans (h1.2.1 j hj), fun q hq => (h2.2.2.1 q hq).trans (h1.2.2.1 q hq), ?_⟩
  · have := h2.1
    rw [h1.1] at this
    exact this
  · exact SameQuad.trans (q := s.quad (quadOf k)) h1.2.2.2 h2.2.2.2
theorem OnlyAgent.setAgent (s : State) (k : Nat) (a : Agent) : OnlyAgent s (s.setAgent k a) k :=
  ⟨rfl, fun j hj => State.agent?_setAgent_ne s k j a hj, fun _ _ => rfl, rfl⟩
theorem OnlyAgent.setQuad (s : State) (k : Nat) (x : Quad) (h : SameQuad (s.quad (quadOf k)) x) : OnlyAgent s (s.setQuad (quadOf k) x) k := by
  refine ⟨rfl, fun _ _ => rfl, fun q hq => State.quad_setQuad_ne s _ q x hq, ?_⟩
  simp only [State.quad_setQuad]
  exact h
theorem OnlyAgent.fresh (s : State) (k n : Nat) : OnlyAgent s { s with fresh := n } k := ⟨rfl, fun _ _ => rfl, fun _ _ => rfl, rfl⟩
theorem OnlyAgent.choose (s : State) (k : Nat) : OnlyAgent s s.choose.2 k := OnlyAgent.fresh s k _

/-! Writing a vector register. -/

theorem Agent.setV_eq (a : Agent) (n : Nat) (x : LaneVec) : a.setV n x = { a with vreg := mapSet laneZero a.vreg n x } := rfl
theorem Agent.setT_eq (a : Agent) (n : Nat) (x : LaneVec) : a.setT n x = { a with temps := mapSet laneZero a.temps n x } := rfl
theorem State.writeV_eq (s : State) (k : Nat) (a : Agent) (n : Nat) (v : LaneVec) :
    ∃ vr ns x, vr = mapSet laneZero a.vreg n v ∧ SameQuad (s.quad (quadOf k)) x ∧
      s.writeV k a n v = (s.setQuad (quadOf k) x).setAgent k { a with vreg := vr, names := ns } := by
  refine ⟨_, mapSet 0 a.names n ((s.quad (quadOf k)).place a.ctx v).1, ((s.quad (quadOf k)).place a.ctx v).2.release (a.name n), rfl,
    SameQuad.trans (Quad.place_same _ _ _) (Quad.release_same _ _), ?_⟩
  unfold State.writeV
  rw [Agent.setV_eq]

theorem State.nameV_eq (s : State) (k : Nat) (a : Agent) (n : Nat) (v : LaneVec) (e : Nat) :
    ∃ vr ns x, vr = mapSet laneZero a.vreg n v ∧ SameQuad (s.quad (quadOf k)) x ∧
      s.nameV k a n v e = (s.setQuad (quadOf k) x).setAgent k { a with vreg := vr, names := ns } := by
  refine ⟨_, mapSet 0 a.names n ((s.quad (quadOf k)).pin a.ctx e).1, ((s.quad (quadOf k)).pin a.ctx e).2.release (a.name n), rfl,
    SameQuad.trans (Quad.pin_same _ _ _) (Quad.release_same _ _), ?_⟩
  unfold State.nameV
  rw [Agent.setV_eq]

/-- What a destination holds in t after a write of the active lanes in s: the agent and the value store have changed, and no
other register. -/
def Wrote (s t : State) (k : Nat) (a : Agent) (act : Mask) (d : VDst) (f : Nat → Word) : Prop :=
  OnlyAgent s t k ∧ ∃ vr te ns, t.agent? k = some { a with vreg := vr, temps := te, names := ns } ∧
    (∀ i, i < 32 → ({ a with vreg := vr, temps := te, names := ns } : Agent).lane (VDst.src d) i =
      if act.getLsbD i then f i else a.lane (VDst.src d) i) ∧
    (∀ n, vdstCodeOf d ≠ vCode n → mapGet laneZero vr n = a.v n) ∧ ∀ n, vdstCodeOf d ≠ tCode n → mapGet laneZero te n = a.t n

/-- A v register that takes a merged value, placed by content or under a name. -/
theorem wrote_v {s t : State} {k : Nat} {a : Agent} {act : Mask} {m : BitVec 8} {f : Nat → Word} {vr : List (Nat × LaneVec)}
    {ns : List (Nat × Nat)} {x : Quad} (hv : vr = mapSet laneZero a.vreg m.toNat (mergeLanes act (laneFn f) (a.v m.toNat)))
    (hx : SameQuad (s.quad (quadOf k)) x) (he : t = (s.setQuad (quadOf k) x).setAgent k { a with vreg := vr, names := ns }) :
    Wrote s t k a act (.v m) f := by
  subst he
  refine ⟨(OnlyAgent.setQuad s k x hx).trans (OnlyAgent.setAgent _ k _), vr, a.temps, ns, ?_, fun i hi => ?_, fun n hn => ?_, fun n _ => rfl⟩
  · rw [State.agent?_setAgent]
  · simp only [Agent.lane, VDst.src, Agent.v, hv, mapGet_mapSet_same, mergeLanes, lane_laneFn _ i hi]
  · rw [hv]
    exact mapGet_mapSet_ne _ _ _ _ _ (fun e => hn (by simp [vdstCodeOf, vCode, e]))

/-- What a vector destination's write leaves: the agent and the value store. -/
theorem State.writeDst_spec (s : State) (k : Nat) (a : Agent) (act : Mask) (d : VDst) (f : Nat → Word) :
    Wrote s (s.writeDst k a act d f) k a act d f := by
  cases d with
  | v m =>
    obtain ⟨vr, ns, x, hv, hx, he⟩ := State.writeV_eq s k a m.toNat (mergeLanes act (laneFn f) (a.v m.toNat))
    exact wrote_v hv hx he
  | t m =>
    have hv := Agent.setT_eq a m.toNat (mergeLanes act (laneFn f) (a.t m.toNat))
    have he' : s.writeDst k a act (.t m) f = s.setAgent k (a.setT m.toNat (mergeLanes act (laneFn f) (a.t m.toNat))) := by
      unfold State.writeDst
      rfl
    rw [he', hv]
    refine ⟨OnlyAgent.setAgent s k _, a.vreg, mapSet laneZero a.temps m.toNat (mergeLanes act (laneFn f) (a.t m.toNat)), a.names,
      ?_, fun i hi => ?_, fun n _ => rfl, fun n hn => ?_⟩
    · rw [State.agent?_setAgent]
    · simp only [Agent.lane, VDst.src, Agent.t, mapGet_mapSet_same, mergeLanes, lane_laneFn _ i hi]
    · exact mapGet_mapSet_ne _ _ _ _ _ (fun e => hn (by simp [vdstCodeOf, tCode, e]))
/-- The same of a write that may move a name (R111). -/
theorem State.moveDst_spec (move : Option Nat) (s : State) (k : Nat) (a : Agent) (act : Mask) (d : VDst) (f : Nat → Word) :
    Wrote s (s.moveDst move k a act d f) k a act d f := by
  unfold State.moveDst
  split
  · rename_i e m
    obtain ⟨vr, ns, x, hv, hx, he⟩ := State.nameV_eq s k a m.toNat (mergeLanes act (laneFn f) (a.v m.toNat)) e
    exact wrote_v hv hx he
  · exact State.writeDst_spec _ _ _ _ _ _

theorem State.reuseHit_only (s : State) (k : Nat) (a : Agent) (key : List Nat) (v : LaneVec) (fl : Flags) :
    OnlyAgent s (s.reuseHit k a key v fl).2 k := by
  unfold State.reuseHit
  split
  · exact OnlyAgent.refl s k
  · exact OnlyAgent.choose s k
/-- Recording touches the reuse table alone. -/
theorem State.reuseRecord_eq (s : State) (k : Nat) (m : Memo) (slots : List Nat) (dst : Nat) (fl : Flags) (lines : List (Nat × Nat)) :
    s.reuseRecord k m slots dst fl lines = s ∨
    ∃ x, SameQuad (s.quad (quadOf k)) x ∧ s.reuseRecord k m slots dst fl lines = s.setQuad (quadOf k) x := by
  unfold State.reuseRecord
  split
  · exact .inl rfl
  · exact .inr ⟨_, Quad.rtRecord_same _ _, rfl⟩
theorem Wrote.record {s t : State} {k : Nat} {a : Agent} {act : Mask} {d : VDst} {f : Nat → Word} (h : Wrote s t k a act d f)
    (m : Memo) (slots : List Nat) (dst : Nat) (fl : Flags) (lines : List (Nat × Nat)) :
    Wrote s (t.reuseRecord k m slots dst fl lines) k a act d f := by
  rcases t.reuseRecord_eq k m slots dst fl lines with e | ⟨x, hx, e⟩
  · rw [e]
    exact h
  · rw [e]
    exact ⟨h.1.trans (OnlyAgent.setQuad t k x hx), h.2⟩
theorem Wrote.after {s t u : State} {k : Nat} {a : Agent} {act : Mask} {d : VDst} {f : Nat → Word} (h : OnlyAgent s t k)
    (hw : Wrote t u k a act d f) : Wrote s u k a act d f := ⟨h.trans hw.1, hw.2⟩

/-- A vector result, whether the reuse table serves it or not (R116, R120): the register written, and REUSED if it counts. -/
theorem vectorResultOn_done (move : Option Nat) (wm : Mask) (r : Option Reuse) (nr : Bool) (srcs : List Operand) (d : VDst)
    (f : Nat → Word) (fl : Flags) (s : State) (k : Nat) (a : Agent) (act : Mask) :
    ∃ t re, vectorResultOn move wm r nr srcs d f fl s k a act = .done t ∧ (re = a.reused ∨ re = a.reused + 1) ∧
      Wrote s t k { a with flags := a.flags ||| fl, reused := re } wm d f := by
  unfold vectorResultOn
  dsimp only
  split
  · rename_i r' n
    split
    · rename_i hr
      split
      · rename_i e he
        obtain ⟨vr, ns, x, hv, hx, hs⟩ := State.nameV_eq (s.reuseHit k { a with flags := a.flags ||| fl }
          (reuseKey { a with flags := a.flags ||| fl } r' srcs act n.toNat) (mergeLanes wm (laneFn f) (a.v n.toNat)) fl).2 k
          { a with flags := a.flags ||| fl, reused := a.reused + 1 } n.toNat (mergeLanes wm (laneFn f) (a.v n.toNat)) e
        exact ⟨_, a.reused + 1, rfl, .inr rfl, Wrote.after (State.reuseHit_only _ _ _ _ _ _) (wrote_v hv hx hs)⟩
      · exact ⟨_, a.reused, rfl, .inl rfl, Wrote.after (State.reuseHit_only _ _ _ _ _ _) ((State.moveDst_spec _ _ _ _ _ _ _).record _ _ _ _ _)⟩
    · exact ⟨_, a.reused, rfl, .inl rfl, State.moveDst_spec _ _ _ _ _ _ _⟩
  · exact ⟨_, a.reused, rfl, .inl rfl, State.moveDst_spec _ _ _ _ _ _ _⟩
theorem vectorResult_done (r : Option Reuse) (nr : Bool) (srcs : List Operand) (d : VDst) (f : Nat → Word) (fl : Flags)
    (s : State) (k : Nat) (a : Agent) (act : Mask) :
    ∃ t re, vectorResult r nr srcs d f fl s k a act = .done t ∧ (re = a.reused ∨ re = a.reused + 1) ∧
      Wrote s t k { a with flags := a.flags ||| fl, reused := re } act d f := vectorResultOn_done _ _ _ _ _ _ _ _ _ _ _ _

theorem OnlyAgent.overwrite (s : State) (a : Agent) (ws : List Nat) : OnlyAgent s (s.overwrite s.cur a ws).1 s.cur := by
  rcases (s.overwrite_eq s.cur a ws).2 with e | e
  · rw [e]
    exact OnlyAgent.refl s _
  · rw [e]
    exact OnlyAgent.setAgent s _ _

/-- A vector word that ends in a vector result completes. -/
theorem vectorWord_resultOn {p : Pred} {reads named : List Nat} {s : State} {a : Agent} {d : VDst}
    (body : State → Nat → Agent → Mask → Verdict) (move : Option Nat) (wm : Mask) (r : Option Reuse) (nr : Bool) (srcs : List Operand)
    (f : Nat → Word) (fl : Flags) (act : Mask)
    (hb : ∀ s', body s' s.cur (a.discard [vdstCodeOf d]) (a.active p) =
      vectorResultOn move wm r nr srcs d f fl s' s.cur (a.discard [vdstCodeOf d]) act)
    (h : VecReady p reads [vdstCodeOf d] named s a) :
    ∃ t, vectorWord p reads [vdstCodeOf d] named s body = .next t ∧ VecDone s t a wm d f fl := by
  rw [vectorWord_ready _ h, hb]
  obtain ⟨t, re, h1, hre, h2, vr, te, ns, h3, h5, h6, h7⟩ :=
    vectorResultOn_done move wm r nr srcs d f fl (s.overwrite s.cur a [vdstCodeOf d]).1 s.cur (a.discard [vdstCodeOf d]) act
  rw [h1, endWord_done, State.modAgent_of _ _ _ _ h3]
  refine ⟨_, rfl, ((OnlyAgent.overwrite s a _).trans h2).trans (OnlyAgent.setAgent _ _ _), _, State.agent?_setAgent _ _ _, rfl, hre,
    fun i hi => ?_, h6, h7⟩
  have := h5 i hi
  cases d <;> exact this
theorem vectorWord_result {p : Pred} {reads named : List Nat} {s : State} {a : Agent} {d : VDst}
    (body : State → Nat → Agent → Mask → Verdict) (r : Option Reuse) (nr : Bool) (srcs : List Operand)
    (f : Nat → Word) (fl : Flags) (act : Mask)
    (hb : ∀ s', body s' s.cur (a.discard [vdstCodeOf d]) (a.active p) =
      vectorResult r nr srcs d f fl s' s.cur (a.discard [vdstCodeOf d]) act)
    (h : VecReady p reads [vdstCodeOf d] named s a) :
    ∃ t, vectorWord p reads [vdstCodeOf d] named s body = .next t ∧ VecDone s t a act d f fl :=
  vectorWord_resultOn body none act r nr srcs f fl act hb h

/-- A word that computes lane by lane completes. -/
theorem laneWord_ready {w : Nat} {extra : Agent → List Nat} {p : Pred} {nr : Bool} {srcs : List Operand} {d : VDst}
    {f : Agent → Mask → Nat → Word} {s : State} {a : Agent}
    (h : VecReady p (srcs.map operandCodeOf) [vdstCodeOf d] (namedDst d ++ srcs.flatMap namedOf) s a) :
    ∃ t, laneWord w extra p nr srcs d f s = .next t ∧
      VecDone s t a (a.active p) d (f (a.discard [vdstCodeOf d]) (a.active p)) 0 :=
  vectorWord_result _ (some ⟨w, extra (a.discard [vdstCodeOf d]), []⟩) nr srcs _ 0 _ (fun _ => rfl) h

end Sys2Proof.Machine
end

