-- ==== Sys2Proof/Laws/PerInstr.lean ====
section
/-! SUPPORT. The family Encoding: the major opcode of every instruction's word is the one R46 gives it, and a step that
is no word has no encoding. One lemma per constructor. -/

namespace Sys2Proof

/-- The major opcode R46 gives an instruction. -/
def opcodeOf : Instr → Option (BitVec 7)
  | .sadd .. | .ssub .. | .smul .. | .smulh .. | .sdiv .. | .smod .. | .sand .. | .sor .. | .sxor .. | .sandn .. |
    .sshl .. | .sshr .. | .ssra .. | .srot .. | .smin .. | .smax .. | .scmp .. | .ssel .. | .smov .. | .saddc .. |
    .slea .. | .sclz .. | .spopc .. | .sbfe .. | .sbfi .. => some 0x00#7
  | .sli .. | .slih .. => some 0x01#7
  | .qop .. => some 0x02#7
  | .srd .. | .swr .. => some 0x03#7
  | .bra .. | .brq .. | .brv .. | .call .. | .ret .. | .loop .. => some 0x10#7
  | .exit .. | .endGang .. | .yield .. | .nop .. => some 0x11#7
  | .flash .. => some 0x12#7
  | .growB .. | .growT .. | .shrink .. => some 0x18#7
  | .vrdi .. | .vwri .. => some 0x19#7
  | .vadd .. | .vsub .. | .vmul .. | .vmulh .. | .vmad .. | .vadds .. | .vsubs .. | .vabs .. | .vneg .. | .vmin .. |
    .vmax .. | .vdot4 .. | .vsad .. => some 0x20#7
  | .vand .. | .vor .. | .vxor .. | .vandn .. | .vnot .. | .vshl .. | .vshr .. | .vsra .. | .vrot .. | .vclz .. |
    .vpopc .. | .vbfe .. | .vbfi .. | .vbrev .. => some 0x21#7
  | .vcmp .. | .vsel .. | .vmov .. | .vbcast .. | .vlane .. | .vext .. | .vpack .. => some 0x22#7
  | .plop .. | .pcnt .. | .pfirst .. => some 0x23#7
  | .vperm .. | .vpush .. | .vswz .. | .vmatch .. | .vred .. | .vscan .. | .vvote .. | .vballot .. => some 0x24#7
  | .vaddImm .. | .vsubImm .. | .vmulImm .. | .vaddsImm .. | .vsubsImm .. | .vminImm .. | .vmaxImm .. => some 0x28#7
  | .vandImm .. | .vorImm .. | .vxorImm .. | .vandnImm .. | .vshlImm .. | .vshrImm .. | .vsraImm .. |
    .vrotImm .. => some 0x29#7
  | .vcmpImm .. | .vmovImm .. => some 0x2A#7
  | .fadd .. | .fsub .. | .fmul .. | .ffma .. | .fmin .. | .fmax .. | .fcmp .. | .fclass .. | .frnd .. |
    .fscale .. => some 0x38#7
  | .fcvt .. | .fcvti .. | .icvtf .. => some 0x39#7
  | .frcp .. | .frsq .. | .fsqrt .. | .fexp2 .. | .flog2 .. | .fsin .. | .fcos .. | .ftanh .. => some 0x3A#7
  | .fdot .. | .fmxq .. | .fmxe .. => some 0x3B#7
  | .sload .. | .sfence .. | .sdesc .. => some 0x48#7
  | .mloadw .. | .mloadws .. | .mflip .. | .mstream .. | .mswap .. | .mdrain .. | .mclear .. | .mfuse .. |
    .msplit .. | .mwait .. | .accspill .. | .accfill .. => some 0x4C#7
  | .mreadv .. => some 0x4D#7
  | .ld .. | .st .. | .ldc .. | .stc .. | .ldl .. | .stl .. | .sld .. | .sst .. | .pref .. | .evict .. => some 0x58#7
  | .fence .. | .wstc .. | .tbar .. | .rdv .. => some 0x64#7
  | .atom .. => some 0x65#7
  | .atomn .. => some 0x66#7
  | .acas .. => some 0x67#7
  | .boinit .. | .boarr .. | .bowait .. | .botest .. => some 0x68#7
  | .xcopy .. | .xclose .. | .xwait .. | .xtest .. | .xfill .. | .xclone .. | .xpurge .. | .xlease .. => some 0x6C#7
  | .chsend .. | .chrecv .. | .chpoll .. | .chcap .. | .chgrantWrite .. | .chgrantRevoke .. | .chgrantBind .. |
    .chkey .. => some 0x72#7
  | .collr .. | .collg .. | .collb .. | .collq .. => some 0x73#7
  | .launch .. | .ljoin .. | .fork .. | .mbrecv .. | .mbsend .. => some 0x78#7
  | .trap .. | .eret .. | .replay .. | .ctxsave .. | .ctxload .. => some 0x79#7
  | .trail .. => some 0x7E#7
  | .run .. => some 0x7F#7
  | .loadValueReturn .. | .parkedLoadTrap .. | .storeAck .. | .cgAccess .. | .throttleWindowEnd .. | .hubAccess .. |
    .leaseExpiry .. | .copyComplete .. | .copyFault .. | .bowaitWake .. | .matrixCmdComplete .. | .sloadComplete .. |
    .slotReload .. | .matinsPass .. | .pdlExpiry .. | .teamRecordWrite .. | .teamAdmit .. | .teamRetire .. |
    .gridRetire .. | .contextCreate .. | .spaceCreate .. | .spaceDestroy .. | .partitionConfigure .. |
    .trustKeyRemove .. | .tenantReset .. | .kick .. | .kickPoll .. | .hostRingCfgWrite .. | .standingBindRequest .. |
    .registerWrite .. | .bootctlReset | .packageReset | .startedMark | .startTimeout .. | .getVersion |
    .getCapabilities | .negotiateAlgorithms | .getDigests | .getCertificate | .challenge .. | .getMeasurements .. |
    .vendorDefinedRequest .. | .firmwareSwap .. | .swapTimeout | .slotScrub .. | .hbmRecalibration .. |
    .linkRecalibration .. | .quadrantRetirement .. | .cgRetirement .. | .powerLimit .. | .thermalTrip |
    .portReassign .. | .packetReceive .. | .messageSkip .. | .keyRenewal .. | .chkeyTimeout .. | .collDeadline .. |
    .collNoResultTimeout .. | .functionLevelReset .. | .contextDestroy .. | .hostStopRequest .. |
    .sharedSpaceAttach .. | .partitionCreate .. | .partitionReset .. | .retryRound .. => none

namespace Laws.Encoding

/-- The word of i carries i's major opcode; a step that is no word has neither. -/
def Statement (i : Instr) : Prop := (encode i).map Fields.opc = opcodeOf i

theorem opU (p : Pred) (fn : BitVec 6) (m : BitVec 3) (d a : BitVec 9) (y : UOp) : Fields.opc (encUop p fn m d a y) = 0x00#7 := by
  cases y <;> simp [encUop]
theorem opQ (p : Pred) (q : QOp) : Fields.opc (encQop p q) = 0x02#7 := by cases q <;> simp [encQop, qCode]
theorem opP (p : Pred) (nr : Bool) (q : POp) : Fields.opc (encPlop p nr q) = 0x23#7 := by cases q <;> simp [encPlop, ploCode]

theorem sadd (a0 : Pred) (a1 : SReg) (a2 : SReg) (a3 : UOp) : Statement (.sadd a0 a1 a2 a3) := congrArg some (opU ..)
theorem ssub (a0 : Pred) (a1 : SReg) (a2 : SReg) (a3 : UOp) : Statement (.ssub a0 a1 a2 a3) := congrArg some (opU ..)
theorem smul (a0 : Pred) (a1 : SReg) (a2 : SReg) (a3 : UOp) : Statement (.smul a0 a1 a2 a3) := congrArg some (opU ..)
theorem smulh (a0 : Pred) (a1 : Bool) (a2 : SReg) (a3 : SReg) (a4 : UOp) : Statement (.smulh a0 a1 a2 a3 a4) := congrArg some (opU ..)
theorem sdiv (a0 : Pred) (a1 : Bool) (a2 : SReg) (a3 : SReg) (a4 : UOp) : Statement (.sdiv a0 a1 a2 a3 a4) := congrArg some (opU ..)
theorem smod (a0 : Pred) (a1 : Bool) (a2 : SReg) (a3 : SReg) (a4 : UOp) : Statement (.smod a0 a1 a2 a3 a4) := congrArg some (opU ..)
theorem sand (a0 : Pred) (a1 : SReg) (a2 : SReg) (a3 : UOp) : Statement (.sand a0 a1 a2 a3) := congrArg some (opU ..)
theorem sor (a0 : Pred) (a1 : SReg) (a2 : SReg) (a3 : UOp) : Statement (.sor a0 a1 a2 a3) := congrArg some (opU ..)
theorem sxor (a0 : Pred) (a1 : SReg) (a2 : SReg) (a3 : UOp) : Statement (.sxor a0 a1 a2 a3) := congrArg some (opU ..)
theorem sandn (a0 : Pred) (a1 : SReg) (a2 : SReg) (a3 : UOp) : Statement (.sandn a0 a1 a2 a3) := congrArg some (opU ..)
theorem sshl (a0 : Pred) (a1 : SReg) (a2 : SReg) (a3 : UOp) : Statement (.sshl a0 a1 a2 a3) := congrArg some (opU ..)
theorem sshr (a0 : Pred) (a1 : SReg) (a2 : SReg) (a3 : UOp) : Statement (.sshr a0 a1 a2 a3) := congrArg some (opU ..)
theorem ssra (a0 : Pred) (a1 : SReg) (a2 : SReg) (a3 : UOp) : Statement (.ssra a0 a1 a2 a3) := congrArg some (opU ..)
theorem srot (a0 : Pred) (a1 : SReg) (a2 : SReg) (a3 : UOp) : Statement (.srot a0 a1 a2 a3) := congrArg some (opU ..)
theorem smin (a0 : Pred) (a1 : Bool) (a2 : SReg) (a3 : SReg) (a4 : UOp) : Statement (.smin a0 a1 a2 a3 a4) := congrArg some (opU ..)
theorem smax (a0 : Pred) (a1 : Bool) (a2 : SReg) (a3 : SReg) (a4 : UOp) : Statement (.smax a0 a1 a2 a3 a4) := congrArg some (opU ..)
theorem scmp (a0 : Pred) (a1 : BitVec 3) (a2 : PNum) (a3 : SReg) (a4 : UOp) : Statement (.scmp a0 a1 a2 a3 a4) := congrArg some (opU ..)
theorem ssel (a0 : Pred) (a1 : PNum) (a2 : SReg) (a3 : SReg) (a4 : UOp) : Statement (.ssel a0 a1 a2 a3 a4) := congrArg some (opU ..)
theorem smov (a0 : Pred) (a1 : SReg) (a2 : UOp) : Statement (.smov a0 a1 a2) := congrArg some (opU ..)
theorem saddc (a0 : Pred) (a1 : Bool) (a2 : SReg) (a3 : SReg) (a4 : UOp) : Statement (.saddc a0 a1 a2 a3 a4) := congrArg some (opU ..)
theorem slea (a0 : Pred) (a1 : BitVec 3) (a2 : SReg) (a3 : SReg) (a4 : UOp) : Statement (.slea a0 a1 a2 a3 a4) := congrArg some (opU ..)
theorem sclz (a0 : Pred) (a1 : SReg) (a2 : SReg) : Statement (.sclz a0 a1 a2) := congrArg some (opc_packU ..)
theorem spopc (a0 : Pred) (a1 : SReg) (a2 : SReg) : Statement (.spopc a0 a1 a2) := congrArg some (opc_packU ..)
theorem sbfe (a0 : Pred) (a1 : Bool) (a2 : SReg) (a3 : SReg) (a4 : UOp) : Statement (.sbfe a0 a1 a2 a3 a4) := congrArg some (opU ..)
theorem sbfi (a0 : Pred) (a1 : SReg) (a2 : SReg) (a3 : UOp) : Statement (.sbfi a0 a1 a2 a3) := congrArg some (opU ..)
theorem sli (a0 : Pred) (a1 : SReg) (a2 : Word) : Statement (.sli a0 a1 a2) := congrArg some (opc_packUI ..)
theorem slih (a0 : Pred) (a1 : SReg) (a2 : Word) : Statement (.slih a0 a1 a2) := congrArg some (opc_packUI ..)
theorem qop (a0 : Pred) (a1 : QOp) : Statement (.qop a0 a1) := congrArg some (opQ ..)
theorem srd (a0 : Pred) (a1 : SReg) (a2 : SysReg) : Statement (.srd a0 a1 a2) := congrArg some (opc_packU ..)
theorem swr (a0 : Pred) (a1 : SysReg) (a2 : SReg) : Statement (.swr a0 a1 a2) := congrArg some (opc_packU ..)
theorem bra (a0 : BitVec 24) : Statement (.bra a0) := congrArg some (opc_packB ..)
theorem brq (a0 : Pred) (a1 : BitVec 24) : Statement (.brq a0 a1) := congrArg some (opc_packB ..)
theorem brv (a0 : Pred) (a1 : BitVec 24) (a2 : BitVec 24) : Statement (.brv a0 a1 a2) := congrArg some (opc_packB ..)
theorem call (a0 : Pred) (a1 : BitVec 24) (a2 : SReg) : Statement (.call a0 a1 a2) := congrArg some (opc_packB ..)
theorem ret (a0 : Pred) (a1 : SReg) : Statement (.ret a0 a1) := congrArg some (opc_packB ..)
theorem loop (a0 : Pred) (a1 : BitVec 24) (a2 : SReg) : Statement (.loop a0 a1 a2) := congrArg some (opc_packB ..)
theorem exit (a0 : Pred) : Statement (.exit a0) := congrArg some (opc_packU ..)
theorem endGang (a0 : Pred) : Statement (.endGang a0) := congrArg some (opc_packU ..)
theorem yield (a0 : Pred) : Statement (.yield a0) := congrArg some (opc_packU ..)
theorem nop (a0 : Pred) : Statement (.nop a0) := congrArg some (opc_packU ..)
theorem flash (a0 : BitVec 3) (a1 : BitVec 8) (a2 : BitVec 8) (a3 : BitVec 8) (a4 : BitVec 8) (a5 : BitVec 7) (a6 : BitVec 5) (a7 : BitVec 5) : Statement (.flash a0 a1 a2 a3 a4 a5 a6 a7) := by
  refine congrArg some ?_
  change @BitVec.extractLsb' (12+3+8+8+8+8+7+5+5) 57 7 (_ ++ a0 ++ a1 ++ a2 ++ a3 ++ a4 ++ a5 ++ a6 ++ a7) = _
  simp (disch := omega) only [extract_append_hi]
  decide
theorem growB (a0 : Pred) (a1 : BitVec 3) : Statement (.growB a0 a1) := congrArg some (opc_packU ..)
theorem growT (a0 : Pred) (a1 : PNum) (a2 : BitVec 3) : Statement (.growT a0 a1 a2) := congrArg some (opc_packU ..)
theorem shrink (a0 : Pred) (a1 : BitVec 3) : Statement (.shrink a0 a1) := congrArg some (opc_packU ..)
theorem vrdi (a0 : Pred) (a1 : Bool) (a2 : VDst) (a3 : BitVec 7) (a4 : BitVec 24) : Statement (.vrdi a0 a1 a2 a3 a4) := congrArg some (opc_packVI ..)
theorem vwri (a0 : Pred) (a1 : Bool) (a2 : VDst) (a3 : BitVec 7) (a4 : BitVec 24) : Statement (.vwri a0 a1 a2 a3 a4) := congrArg some (opc_packVI ..)
theorem vadd (a0 : Pred) (a1 : Bool) (a2 : VDst) (a3 : Operand) (a4 : Operand) : Statement (.vadd a0 a1 a2 a3 a4) := congrArg some (opc_packVA ..)
theorem vsub (a0 : Pred) (a1 : Bool) (a2 : VDst) (a3 : Operand) (a4 : Operand) : Statement (.vsub a0 a1 a2 a3 a4) := congrArg some (opc_packVA ..)
theorem vmul (a0 : Pred) (a1 : Bool) (a2 : VDst) (a3 : Operand) (a4 : Operand) : Statement (.vmul a0 a1 a2 a3 a4) := congrArg some (opc_packVA ..)
theorem vmulh (a0 : Pred) (a1 : Bool) (a2 : Bool) (a3 : VDst) (a4 : Operand) (a5 : Operand) : Statement (.vmulh a0 a1 a2 a3 a4 a5) := congrArg some (opc_packVA ..)
theorem vmad (a0 : Pred) (a1 : Bool) (a2 : VDst) (a3 : Operand) (a4 : Operand) (a5 : Operand) : Statement (.vmad a0 a1 a2 a3 a4 a5) := congrArg some (opc_packVA ..)
theorem vadds (a0 : Pred) (a1 : Bool) (a2 : Bool) (a3 : Width) (a4 : VDst) (a5 : Operand) (a6 : Operand) : Statement (.vadds a0 a1 a2 a3 a4 a5 a6) := congrArg some (opc_packVA ..)
theorem vsubs (a0 : Pred) (a1 : Bool) (a2 : Bool) (a3 : Width) (a4 : VDst) (a5 : Operand) (a6 : Operand) : Statement (.vsubs a0 a1 a2 a3 a4 a5 a6) := congrArg some (opc_packVA ..)
theorem vabs (a0 : Pred) (a1 : Bool) (a2 : Bool) (a3 : VDst) (a4 : Operand) : Statement (.vabs a0 a1 a2 a3 a4) := congrArg some (opc_packVA ..)
theorem vneg (a0 : Pred) (a1 : Bool) (a2 : Bool) (a3 : VDst) (a4 : Operand) : Statement (.vneg a0 a1 a2 a3 a4) := congrArg some (opc_packVA ..)
theorem vmin (a0 : Pred) (a1 : Bool) (a2 : Bool) (a3 : VDst) (a4 : Operand) (a5 : Operand) : Statement (.vmin a0 a1 a2 a3 a4 a5) := congrArg some (opc_packVA ..)
theorem vmax (a0 : Pred) (a1 : Bool) (a2 : Bool) (a3 : VDst) (a4 : Operand) (a5 : Operand) : Statement (.vmax a0 a1 a2 a3 a4 a5) := congrArg some (opc_packVA ..)
theorem vdot4 (a0 : Pred) (a1 : Bool) (a2 : Bool) (a3 : Bool) (a4 : Bool) (a5 : VDst) (a6 : Operand) (a7 : Operand) (a8 : Operand) : Statement (.vdot4 a0 a1 a2 a3 a4 a5 a6 a7 a8) := congrArg some (opc_packVA ..)
theorem vsad (a0 : Pred) (a1 : Bool) (a2 : Bool) (a3 : VDst) (a4 : Operand) (a5 : Operand) (a6 : Operand) : Statement (.vsad a0 a1 a2 a3 a4 a5 a6) := congrArg some (opc_packVA ..)
theorem vand (a0 : Pred) (a1 : Bool) (a2 : VDst) (a3 : Operand) (a4 : Operand) : Statement (.vand a0 a1 a2 a3 a4) := congrArg some (opc_packVA ..)
theorem vor (a0 : Pred) (a1 : Bool) (a2 : VDst) (a3 : Operand) (a4 : Operand) : Statement (.vor a0 a1 a2 a3 a4) := congrArg some (opc_packVA ..)
theorem vxor (a0 : Pred) (a1 : Bool) (a2 : VDst) (a3 : Operand) (a4 : Operand) : Statement (.vxor a0 a1 a2 a3 a4) := congrArg some (opc_packVA ..)
theorem vandn (a0 : Pred) (a1 : Bool) (a2 : VDst) (a3 : Operand) (a4 : Operand) : Statement (.vandn a0 a1 a2 a3 a4) := congrArg some (opc_packVA ..)
theorem vnot (a0 : Pred) (a1 : Bool) (a2 : VDst) (a3 : Operand) : Statement (.vnot a0 a1 a2 a3) := congrArg some (opc_packVA ..)
theorem vshl (a0 : Pred) (a1 : Bool) (a2 : VDst) (a3 : Operand) (a4 : Operand) : Statement (.vshl a0 a1 a2 a3 a4) := congrArg some (opc_packVA ..)
theorem vshr (a0 : Pred) (a1 : Bool) (a2 : VDst) (a3 : Operand) (a4 : Operand) : Statement (.vshr a0 a1 a2 a3 a4) := congrArg some (opc_packVA ..)
theorem vsra (a0 : Pred) (a1 : Bool) (a2 : VDst) (a3 : Operand) (a4 : Operand) : Statement (.vsra a0 a1 a2 a3 a4) := congrArg some (opc_packVA ..)
theorem vrot (a0 : Pred) (a1 : Bool) (a2 : VDst) (a3 : Operand) (a4 : Operand) : Statement (.vrot a0 a1 a2 a3 a4) := congrArg some (opc_packVA ..)
theorem vclz (a0 : Pred) (a1 : Bool) (a2 : VDst) (a3 : Operand) : Statement (.vclz a0 a1 a2 a3) := congrArg some (opc_packVA ..)
theorem vpopc (a0 : Pred) (a1 : Bool) (a2 : VDst) (a3 : Operand) : Statement (.vpopc a0 a1 a2 a3) := congrArg some (opc_packVA ..)
theorem vbfe (a0 : Pred) (a1 : Bool) (a2 : Bool) (a3 : VDst) (a4 : Operand) (a5 : Operand) : Statement (.vbfe a0 a1 a2 a3 a4 a5) := congrArg some (opc_packVA ..)
theorem vbfi (a0 : Pred) (a1 : Bool) (a2 : VDst) (a3 : Operand) (a4 : Operand) (a5 : Operand) : Statement (.vbfi a0 a1 a2 a3 a4 a5) := congrArg some (opc_packVA ..)
theorem vbrev (a0 : Pred) (a1 : Bool) (a2 : VDst) (a3 : Operand) : Statement (.vbrev a0 a1 a2 a3) := congrArg some (opc_packVA ..)
theorem vcmp (a0 : Pred) (a1 : Bool) (a2 : BitVec 3) (a3 : PNum) (a4 : Operand) (a5 : Operand) : Statement (.vcmp a0 a1 a2 a3 a4 a5) := congrArg some (opc_packVA ..)
theorem vsel (a0 : Pred) (a1 : Bool) (a2 : PNum) (a3 : VDst) (a4 : Operand) (a5 : Operand) : Statement (.vsel a0 a1 a2 a3 a4 a5) := congrArg some (opc_packVA ..)
theorem vmov (a0 : Pred) (a1 : Bool) (a2 : VDst) (a3 : Operand) : Statement (.vmov a0 a1 a2 a3) := congrArg some (opc_packVA ..)
theorem vbcast (a0 : Pred) (a1 : Bool) (a2 : VDst) (a3 : Operand) (a4 : BcastSrc) : Statement (.vbcast a0 a1 a2 a3 a4) := by cases a4 <;> exact congrArg some (opc_packVA ..)
theorem vlane (a0 : Pred) (a1 : Bool) (a2 : BitVec 2) (a3 : VDst) : Statement (.vlane a0 a1 a2 a3) := congrArg some (opc_packVA ..)
theorem vext (a0 : Pred) (a1 : Bool) (a2 : Bool) (a3 : Bool) (a4 : VDst) (a5 : Operand) (a6 : Operand) : Statement (.vext a0 a1 a2 a3 a4 a5 a6) := congrArg some (opc_packVA ..)
theorem vpack (a0 : Pred) (a1 : Bool) (a2 : Bool) (a3 : PackForm) (a4 : VDst) (a5 : Operand) (a6 : Operand) : Statement (.vpack a0 a1 a2 a3 a4 a5 a6) := by cases a3 <;> exact congrArg some (opc_packVA ..)
theorem plop (a0 : Pred) (a1 : Bool) (a2 : POp) : Statement (.plop a0 a1 a2) := congrArg some (opP ..)
theorem pcnt (a0 : Pred) (a1 : Bool) (a2 : Operand) (a3 : PNum) : Statement (.pcnt a0 a1 a2 a3) := congrArg some (opc_packVA ..)
theorem pfirst (a0 : Pred) (a1 : Bool) (a2 : Bool) (a3 : Operand) (a4 : PNum) : Statement (.pfirst a0 a1 a2 a3 a4) := congrArg some (opc_packVA ..)
theorem vperm (a0 : Pred) (a1 : Bool) (a2 : VDst) (a3 : Operand) (a4 : Operand) : Statement (.vperm a0 a1 a2 a3 a4) := congrArg some (opc_packVA ..)
theorem vpush (a0 : Pred) (a1 : Bool) (a2 : VDst) (a3 : Operand) (a4 : Operand) (a5 : Operand) : Statement (.vpush a0 a1 a2 a3 a4 a5) := congrArg some (opc_packVA ..)
theorem vswz (a0 : Pred) (a1 : Bool) (a2 : BitVec 3) (a3 : VDst) (a4 : Operand) : Statement (.vswz a0 a1 a2 a3 a4) := congrArg some (opc_packVA ..)
theorem vmatch (a0 : Pred) (a1 : Bool) (a2 : VDst) (a3 : Operand) : Statement (.vmatch a0 a1 a2 a3) := congrArg some (opc_packVA ..)
theorem vred (a0 : Pred) (a1 : Bool) (a2 : BitVec 3) (a3 : Operand) (a4 : Operand) : Statement (.vred a0 a1 a2 a3 a4) := congrArg some (opc_packVA ..)
theorem vscan (a0 : Pred) (a1 : Bool) (a2 : Bool) (a3 : BitVec 3) (a4 : VDst) (a5 : Operand) : Statement (.vscan a0 a1 a2 a3 a4 a5) := congrArg some (opc_packVA ..)
theorem vvote (a0 : Pred) (a1 : Bool) (a2 : Vote) (a3 : PNum) (a4 : PNum) : Statement (.vvote a0 a1 a2 a3 a4) := by cases a2 <;> exact congrArg some (opc_packVA ..)
theorem vballot (a0 : Pred) (a1 : Bool) (a2 : Operand) (a3 : PNum) : Statement (.vballot a0 a1 a2 a3) := congrArg some (opc_packVA ..)
theorem vaddImm (a0 : Pred) (a1 : Bool) (a2 : VDst) (a3 : Operand) (a4 : BitVec 24) : Statement (.vaddImm a0 a1 a2 a3 a4) := congrArg some (opc_packVI ..)
theorem vsubImm (a0 : Pred) (a1 : Bool) (a2 : VDst) (a3 : Operand) (a4 : BitVec 24) : Statement (.vsubImm a0 a1 a2 a3 a4) := congrArg some (opc_packVI ..)
theorem vmulImm (a0 : Pred) (a1 : Bool) (a2 : VDst) (a3 : Operand) (a4 : BitVec 24) : Statement (.vmulImm a0 a1 a2 a3 a4) := congrArg some (opc_packVI ..)
theorem vaddsImm (a0 : Pred) (a1 : Bool) (a2 : Bool) (a3 : Width) (a4 : VDst) (a5 : Operand) (a6 : BitVec 24) : Statement (.vaddsImm a0 a1 a2 a3 a4 a5 a6) := congrArg some (opc_packVI ..)
theorem vsubsImm (a0 : Pred) (a1 : Bool) (a2 : Bool) (a3 : Width) (a4 : VDst) (a5 : Operand) (a6 : BitVec 24) : Statement (.vsubsImm a0 a1 a2 a3 a4 a5 a6) := congrArg some (opc_packVI ..)
theorem vminImm (a0 : Pred) (a1 : Bool) (a2 : Bool) (a3 : VDst) (a4 : Operand) (a5 : BitVec 24) : Statement (.vminImm a0 a1 a2 a3 a4 a5) := congrArg some (opc_packVI ..)
theorem vmaxImm (a0 : Pred) (a1 : Bool) (a2 : Bool) (a3 : VDst) (a4 : Operand) (a5 : BitVec 24) : Statement (.vmaxImm a0 a1 a2 a3 a4 a5) := congrArg some (opc_packVI ..)
theorem vandImm (a0 : Pred) (a1 : Bool) (a2 : VDst) (a3 : Operand) (a4 : BitVec 24) : Statement (.vandImm a0 a1 a2 a3 a4) := congrArg some (opc_packVI ..)
theorem vorImm (a0 : Pred) (a1 : Bool) (a2 : VDst) (a3 : Operand) (a4 : BitVec 24) : Statement (.vorImm a0 a1 a2 a3 a4) := congrArg some (opc_packVI ..)
theorem vxorImm (a0 : Pred) (a1 : Bool) (a2 : VDst) (a3 : Operand) (a4 : BitVec 24) : Statement (.vxorImm a0 a1 a2 a3 a4) := congrArg some (opc_packVI ..)
theorem vandnImm (a0 : Pred) (a1 : Bool) (a2 : VDst) (a3 : Operand) (a4 : BitVec 24) : Statement (.vandnImm a0 a1 a2 a3 a4) := congrArg some (opc_packVI ..)
theorem vshlImm (a0 : Pred) (a1 : Bool) (a2 : VDst) (a3 : Operand) (a4 : BitVec 24) : Statement (.vshlImm a0 a1 a2 a3 a4) := congrArg some (opc_packVI ..)
theorem vshrImm (a0 : Pred) (a1 : Bool) (a2 : VDst) (a3 : Operand) (a4 : BitVec 24) : Statement (.vshrImm a0 a1 a2 a3 a4) := congrArg some (opc_packVI ..)
theorem vsraImm (a0 : Pred) (a1 : Bool) (a2 : VDst) (a3 : Operand) (a4 : BitVec 24) : Statement (.vsraImm a0 a1 a2 a3 a4) := congrArg some (opc_packVI ..)
theorem vrotImm (a0 : Pred) (a1 : Bool) (a2 : VDst) (a3 : Operand) (a4 : BitVec 24) : Statement (.vrotImm a0 a1 a2 a3 a4) := congrArg some (opc_packVI ..)
theorem vcmpImm (a0 : Pred) (a1 : Bool) (a2 : BitVec 3) (a3 : PNum) (a4 : Operand) (a5 : BitVec 24) : Statement (.vcmpImm a0 a1 a2 a3 a4 a5) := congrArg some (opc_packVI ..)
theorem vmovImm (a0 : Pred) (a1 : Bool) (a2 : VDst) (a3 : BitVec 24) : Statement (.vmovImm a0 a1 a2 a3) := congrArg some (opc_packVI ..)
theorem fadd (a0 : Pred) (a1 : Bool) (a2 : BitVec 4) (a3 : BitVec 2) (a4 : Bool) (a5 : VDst) (a6 : Operand) (a7 : Operand) : Statement (.fadd a0 a1 a2 a3 a4 a5 a6 a7) := congrArg some (opc_packVA ..)
theorem fsub (a0 : Pred) (a1 : Bool) (a2 : BitVec 4) (a3 : BitVec 2) (a4 : Bool) (a5 : VDst) (a6 : Operand) (a7 : Operand) : Statement (.fsub a0 a1 a2 a3 a4 a5 a6 a7) := congrArg some (opc_packVA ..)
theorem fmul (a0 : Pred) (a1 : Bool) (a2 : BitVec 4) (a3 : BitVec 2) (a4 : Bool) (a5 : VDst) (a6 : Operand) (a7 : Operand) : Statement (.fmul a0 a1 a2 a3 a4 a5 a6 a7) := congrArg some (opc_packVA ..)
theorem ffma (a0 : Pred) (a1 : Bool) (a2 : BitVec 4) (a3 : BitVec 2) (a4 : Bool) (a5 : VDst) (a6 : Operand) (a7 : Operand) (a8 : Operand) : Statement (.ffma a0 a1 a2 a3 a4 a5 a6 a7 a8) := congrArg some (opc_packVA ..)
theorem fmin (a0 : Pred) (a1 : Bool) (a2 : BitVec 4) (a3 : VDst) (a4 : Operand) (a5 : Operand) : Statement (.fmin a0 a1 a2 a3 a4 a5) := congrArg some (opc_packVA ..)
theorem fmax (a0 : Pred) (a1 : Bool) (a2 : BitVec 4) (a3 : VDst) (a4 : Operand) (a5 : Operand) : Statement (.fmax a0 a1 a2 a3 a4 a5) := congrArg some (opc_packVA ..)
theorem fcmp (a0 : Pred) (a1 : Bool) (a2 : BitVec 4) (a3 : BitVec 3) (a4 : PNum) (a5 : Operand) (a6 : Operand) : Statement (.fcmp a0 a1 a2 a3 a4 a5 a6) := congrArg some (opc_packVA ..)
theorem fclass (a0 : Pred) (a1 : Bool) (a2 : BitVec 4) (a3 : VDst) (a4 : Operand) : Statement (.fclass a0 a1 a2 a3 a4) := congrArg some (opc_packVA ..)
theorem frnd (a0 : Pred) (a1 : Bool) (a2 : BitVec 4) (a3 : BitVec 2) (a4 : Bool) (a5 : VDst) (a6 : Operand) : Statement (.frnd a0 a1 a2 a3 a4 a5 a6) := congrArg some (opc_packVA ..)
theorem fscale (a0 : Pred) (a1 : Bool) (a2 : BitVec 4) (a3 : BitVec 2) (a4 : Bool) (a5 : VDst) (a6 : Operand) (a7 : Operand) : Statement (.fscale a0 a1 a2 a3 a4 a5 a6 a7) := congrArg some (opc_packVA ..)
theorem fcvt (a0 : Pred) (a1 : Bool) (a2 : BitVec 4) (a3 : BitVec 4) (a4 : BitVec 2) (a5 : Bool) (a6 : VDst) (a7 : Operand) : Statement (.fcvt a0 a1 a2 a3 a4 a5 a6 a7) := congrArg some (opc_packVA ..)
theorem fcvti (a0 : Pred) (a1 : Bool) (a2 : BitVec 4) (a3 : BitVec 2) (a4 : Width) (a5 : Bool) (a6 : VDst) (a7 : Operand) : Statement (.fcvti a0 a1 a2 a3 a4 a5 a6 a7) := congrArg some (opc_packVA ..)
theorem icvtf (a0 : Pred) (a1 : Bool) (a2 : BitVec 4) (a3 : BitVec 2) (a4 : Width) (a5 : Bool) (a6 : Bool) (a7 : VDst) (a8 : Operand) : Statement (.icvtf a0 a1 a2 a3 a4 a5 a6 a7 a8) := congrArg some (opc_packVA ..)
theorem frcp (a0 : Pred) (a1 : Bool) (a2 : BitVec 4) (a3 : BitVec 2) (a4 : Bool) (a5 : VDst) (a6 : Operand) : Statement (.frcp a0 a1 a2 a3 a4 a5 a6) := congrArg some (opc_packVA ..)
theorem frsq (a0 : Pred) (a1 : Bool) (a2 : BitVec 4) (a3 : BitVec 2) (a4 : Bool) (a5 : VDst) (a6 : Operand) : Statement (.frsq a0 a1 a2 a3 a4 a5 a6) := congrArg some (opc_packVA ..)
theorem fsqrt (a0 : Pred) (a1 : Bool) (a2 : BitVec 4) (a3 : BitVec 2) (a4 : Bool) (a5 : VDst) (a6 : Operand) : Statement (.fsqrt a0 a1 a2 a3 a4 a5 a6) := congrArg some (opc_packVA ..)
theorem fexp2 (a0 : Pred) (a1 : Bool) (a2 : BitVec 4) (a3 : BitVec 2) (a4 : Bool) (a5 : VDst) (a6 : Operand) : Statement (.fexp2 a0 a1 a2 a3 a4 a5 a6) := congrArg some (opc_packVA ..)
theorem flog2 (a0 : Pred) (a1 : Bool) (a2 : BitVec 4) (a3 : BitVec 2) (a4 : Bool) (a5 : VDst) (a6 : Operand) : Statement (.flog2 a0 a1 a2 a3 a4 a5 a6) := congrArg some (opc_packVA ..)
theorem fsin (a0 : Pred) (a1 : Bool) (a2 : BitVec 4) (a3 : BitVec 2) (a4 : Bool) (a5 : VDst) (a6 : Operand) : Statement (.fsin a0 a1 a2 a3 a4 a5 a6) := congrArg some (opc_packVA ..)
theorem fcos (a0 : Pred) (a1 : Bool) (a2 : BitVec 4) (a3 : BitVec 2) (a4 : Bool) (a5 : VDst) (a6 : Operand) : Statement (.fcos a0 a1 a2 a3 a4 a5 a6) := congrArg some (opc_packVA ..)
theorem ftanh (a0 : Pred) (a1 : Bool) (a2 : BitVec 4) (a3 : BitVec 2) (a4 : Bool) (a5 : VDst) (a6 : Operand) : Statement (.ftanh a0 a1 a2 a3 a4 a5 a6) := congrArg some (opc_packVA ..)
theorem fdot (a0 : Pred) (a1 : Bool) (a2 : BitVec 4) (a3 : VDst) (a4 : Operand) (a5 : Operand) (a6 : Operand) : Statement (.fdot a0 a1 a2 a3 a4 a5 a6) := congrArg some (opc_packVA ..)
theorem fmxq (a0 : Pred) (a1 : Bool) (a2 : BitVec 4) (a3 : BitVec 4) (a4 : BitVec 2) (a5 : VDst) (a6 : Operand) : Statement (.fmxq a0 a1 a2 a3 a4 a5 a6) := congrArg some (opc_packVA ..)
theorem fmxe (a0 : Pred) (a1 : Bool) (a2 : BitVec 4) (a3 : BitVec 4) (a4 : BitVec 2) (a5 : Bool) (a6 : VDst) (a7 : Operand) : Statement (.fmxe a0 a1 a2 a3 a4 a5 a6 a7) := congrArg some (opc_packVA ..)
theorem sload (a0 : Pred) (a1 : BitVec 4) (a2 : SReg) (a3 : SReg) : Statement (.sload a0 a1 a2 a3) := congrArg some (opc_packX ..)
theorem sfence (a0 : Pred) : Statement (.sfence a0) := congrArg some (opc_packX ..)
theorem sdesc (a0 : Pred) (a1 : BitVec 4) (a2 : SReg) (a3 : SReg) : Statement (.sdesc a0 a1 a2 a3) := congrArg some (opc_packX ..)
theorem mloadw (a0 : Pred) (a1 : BitVec 4) (a2 : SReg) (a3 : SReg) (a4 : Option Arrive) : Statement (.mloadw a0 a1 a2 a3 a4) := congrArg some (opc_packX ..)
theorem mloadws (a0 : Pred) (a1 : BitVec 4) (a2 : BitVec 2) (a3 : SReg) (a4 : SReg) (a5 : Option Arrive) : Statement (.mloadws a0 a1 a2 a3 a4 a5) := congrArg some (opc_packX ..)
theorem mflip (a0 : Pred) : Statement (.mflip a0) := congrArg some (opc_packX ..)
theorem mstream (a0 : Pred) (a1 : BitVec 4) (a2 : Bool) (a3 : Bool) (a4 : SReg) (a5 : SReg) (a6 : Option Arrive) : Statement (.mstream a0 a1 a2 a3 a4 a5 a6) := congrArg some (opc_packX ..)
theorem mswap (a0 : Pred) (a1 : Option Arrive) : Statement (.mswap a0 a1) := congrArg some (opc_packX ..)
theorem mdrain (a0 : Pred) (a1 : BitVec 4) (a2 : BitVec 2) (a3 : Bool) (a4 : Bool) (a5 : SReg) (a6 : SReg) (a7 : Option Arrive) : Statement (.mdrain a0 a1 a2 a3 a4 a5 a6 a7) := congrArg some (opc_packX ..)
theorem mclear (a0 : Pred) (a1 : Bool) (a2 : SReg) : Statement (.mclear a0 a1 a2) := congrArg some (opc_packX ..)
theorem mfuse (a0 : Pred) (a1 : SReg) (a2 : SReg) : Statement (.mfuse a0 a1 a2) := congrArg some (opc_packX ..)
theorem msplit (a0 : Pred) : Statement (.msplit a0) := congrArg some (opc_packX ..)
theorem mwait (a0 : Pred) : Statement (.mwait a0) := congrArg some (opc_packX ..)
theorem accspill (a0 : Pred) (a1 : BitVec 2) (a2 : SReg) : Statement (.accspill a0 a1 a2) := congrArg some (opc_packX ..)
theorem accfill (a0 : Pred) (a1 : BitVec 2) (a2 : SReg) : Statement (.accfill a0 a1 a2) := congrArg some (opc_packX ..)
theorem mreadv (a0 : Pred) (a1 : Bool) (a2 : VDst) (a3 : BitVec 7) : Statement (.mreadv a0 a1 a2 a3) := congrArg some (opc_packVA ..)
theorem ld (a0 : Pred) (a1 : Bool) (a2 : VDst) (a3 : Operand) (a4 : SReg) (a5 : SReg) (a6 : BitVec 5) (a7 : Option (BitVec 3)) (a8 : Bool) : Statement (.ld a0 a1 a2 a3 a4 a5 a6 a7 a8) := congrArg some (opc_packM ..)
theorem st (a0 : Pred) (a1 : Bool) (a2 : Operand) (a3 : Operand) (a4 : SReg) (a5 : SReg) (a6 : BitVec 5) (a7 : Option (BitVec 3)) (a8 : Bool) : Statement (.st a0 a1 a2 a3 a4 a5 a6 a7 a8) := congrArg some (opc_packM ..)
theorem ldc (a0 : Pred) (a1 : Bool) (a2 : VDst) (a3 : SReg) (a4 : SReg) (a5 : Option (BitVec 3)) (a6 : Bool) : Statement (.ldc a0 a1 a2 a3 a4 a5 a6) := congrArg some (opc_packM ..)
theorem stc (a0 : Pred) (a1 : Bool) (a2 : Operand) (a3 : SReg) (a4 : SReg) (a5 : Option (BitVec 3)) (a6 : Bool) : Statement (.stc a0 a1 a2 a3 a4 a5 a6) := congrArg some (opc_packM ..)
theorem ldl (a0 : Pred) (a1 : Bool) (a2 : VDst) (a3 : Operand) (a4 : SReg) (a5 : BitVec 5) : Statement (.ldl a0 a1 a2 a3 a4 a5) := congrArg some (opc_packM ..)
theorem stl (a0 : Pred) (a1 : Bool) (a2 : Operand) (a3 : Operand) (a4 : SReg) (a5 : BitVec 5) : Statement (.stl a0 a1 a2 a3 a4 a5) := congrArg some (opc_packM ..)
theorem sld (a0 : Pred) (a1 : Bool) (a2 : SReg) (a3 : SReg) (a4 : SReg) (a5 : SReg) (a6 : BitVec 5) (a7 : Option (BitVec 3)) (a8 : Bool) : Statement (.sld a0 a1 a2 a3 a4 a5 a6 a7 a8) := congrArg some (opc_packM ..)
theorem sst (a0 : Pred) (a1 : Bool) (a2 : SReg) (a3 : SReg) (a4 : SReg) (a5 : SReg) (a6 : BitVec 5) (a7 : Option (BitVec 3)) (a8 : Bool) : Statement (.sst a0 a1 a2 a3 a4 a5 a6 a7 a8) := congrArg some (opc_packM ..)
theorem pref (a0 : Pred) (a1 : Bool) (a2 : Operand) (a3 : SReg) (a4 : SReg) (a5 : BitVec 5) : Statement (.pref a0 a1 a2 a3 a4 a5) := congrArg some (opc_packM ..)
theorem evict (a0 : Pred) (a1 : Bool) (a2 : Operand) (a3 : SReg) (a4 : BitVec 5) : Statement (.evict a0 a1 a2 a3 a4) := congrArg some (opc_packM ..)
theorem fence (a0 : Pred) (a1 : Bool) (a2 : Bool) (a3 : BitVec 3) : Statement (.fence a0 a1 a2 a3) := congrArg some (opc_packX ..)
theorem wstc (a0 : Pred) : Statement (.wstc a0) := congrArg some (opc_packX ..)
theorem tbar (a0 : Pred) (a1 : BitVec 3) : Statement (.tbar a0 a1) := congrArg some (opc_packX ..)
theorem rdv (a0 : Pred) (a1 : BitVec 3) : Statement (.rdv a0 a1) := congrArg some (opc_packX ..)
theorem atom (a0 : Pred) (a1 : Bool) (a2 : BitVec 4) (a3 : AWidth) (a4 : BitVec 8) (a5 : Operand) (a6 : SReg) (a7 : SReg) (a8 : AOrd) (a9 : Bool) : Statement (.atom a0 a1 a2 a3 a4 a5 a6 a7 a8 a9) := congrArg some (opc_packM ..)
theorem atomn (a0 : Pred) (a1 : Bool) (a2 : BitVec 4) (a3 : AWidth) (a4 : Operand) (a5 : Operand) (a6 : SReg) (a7 : SReg) (a8 : Option (BitVec 3)) (a9 : Bool) : Statement (.atomn a0 a1 a2 a3 a4 a5 a6 a7 a8 a9) := congrArg some (opc_packM ..)
theorem acas (a0 : Pred) (a1 : Bool) (a2 : AWidth) (a3 : BitVec 8) (a4 : Operand) (a5 : SReg) (a6 : SReg) (a7 : AOrd) (a8 : Bool) : Statement (.acas a0 a1 a2 a3 a4 a5 a6 a7 a8) := congrArg some (opc_packM ..)
theorem boinit (a0 : Pred) (a1 : SReg) (a2 : SReg) : Statement (.boinit a0 a1 a2) := congrArg some (opc_packX ..)
theorem boarr (a0 : Pred) (a1 : SReg) (a2 : SReg) (a3 : SReg) (a4 : SReg) (a5 : BitVec 3) : Statement (.boarr a0 a1 a2 a3 a4 a5) := congrArg some (opc_packX ..)
theorem bowait (a0 : Pred) (a1 : SReg) (a2 : SReg) (a3 : BitVec 3) : Statement (.bowait a0 a1 a2 a3) := congrArg some (opc_packX ..)
theorem botest (a0 : Pred) (a1 : SReg) (a2 : SReg) (a3 : SReg) (a4 : BitVec 3) : Statement (.botest a0 a1 a2 a3 a4) := congrArg some (opc_packX ..)
theorem xcopy (a0 : Pred) (a1 : SReg) (a2 : SReg) (a3 : XOrd) (a4 : XDone) : Statement (.xcopy a0 a1 a2 a3 a4) := congrArg some (opc_packX ..)
theorem xclose (a0 : Pred) (a1 : SReg) : Statement (.xclose a0 a1) := congrArg some (opc_packX ..)
theorem xwait (a0 : Pred) (a1 : SReg) (a2 : BitVec 3) : Statement (.xwait a0 a1 a2) := congrArg some (opc_packX ..)
theorem xtest (a0 : Pred) (a1 : SReg) (a2 : SReg) (a3 : BitVec 3) : Statement (.xtest a0 a1 a2 a3) := congrArg some (opc_packX ..)
theorem xfill (a0 : Pred) (a1 : SReg) (a2 : SReg) (a3 : SReg) (a4 : XOrd) (a5 : Option SReg) : Statement (.xfill a0 a1 a2 a3 a4 a5) := congrArg some (opc_packX ..)
theorem xclone (a0 : Pred) (a1 : SReg) (a2 : SReg) (a3 : SReg) (a4 : XOrd) (a5 : Option SReg) : Statement (.xclone a0 a1 a2 a3 a4 a5) := congrArg some (opc_packX ..)
theorem xpurge (a0 : Pred) (a1 : SReg) (a2 : SReg) (a3 : SReg) (a4 : BitVec 3) : Statement (.xpurge a0 a1 a2 a3 a4) := congrArg some (opc_packX ..)
theorem xlease (a0 : Pred) (a1 : SReg) : Statement (.xlease a0 a1) := congrArg some (opc_packX ..)
theorem chsend (a0 : Pred) (a1 : SReg) (a2 : SReg) (a3 : SReg) (a4 : SReg) (a5 : Option (BitVec 3)) : Statement (.chsend a0 a1 a2 a3 a4 a5) := congrArg some (opc_packX ..)
theorem chrecv (a0 : Pred) (a1 : SReg) (a2 : SReg) (a3 : SReg) (a4 : SReg) (a5 : Option (BitVec 3)) : Statement (.chrecv a0 a1 a2 a3 a4 a5) := congrArg some (opc_packX ..)
theorem chpoll (a0 : Pred) (a1 : SReg) (a2 : SReg) : Statement (.chpoll a0 a1 a2) := congrArg some (opc_packX ..)
theorem chcap (a0 : Pred) (a1 : SReg) (a2 : SReg) (a3 : SReg) : Statement (.chcap a0 a1 a2 a3) := congrArg some (opc_packX ..)
theorem chgrantWrite (a0 : Pred) (a1 : SReg) (a2 : SReg) (a3 : SReg) (a4 : SReg) : Statement (.chgrantWrite a0 a1 a2 a3 a4) := congrArg some (opc_packX ..)
theorem chgrantRevoke (a0 : Pred) (a1 : SReg) (a2 : SReg) (a3 : SReg) (a4 : SReg) : Statement (.chgrantRevoke a0 a1 a2 a3 a4) := congrArg some (opc_packX ..)
theorem chgrantBind (a0 : Pred) (a1 : SReg) (a2 : SReg) (a3 : SReg) (a4 : SReg) : Statement (.chgrantBind a0 a1 a2 a3 a4) := congrArg some (opc_packX ..)
theorem chkey (a0 : Pred) (a1 : SReg) (a2 : SReg) : Statement (.chkey a0 a1 a2) := congrArg some (opc_packX ..)
theorem collr (a0 : Pred) (a1 : SReg) (a2 : SReg) (a3 : SReg) (a4 : XOrd) (a5 : Bool) : Statement (.collr a0 a1 a2 a3 a4 a5) := congrArg some (opc_packX ..)
theorem collg (a0 : Pred) (a1 : SReg) (a2 : SReg) (a3 : SReg) (a4 : XOrd) (a5 : Bool) : Statement (.collg a0 a1 a2 a3 a4 a5) := congrArg some (opc_packX ..)
theorem collb (a0 : Pred) (a1 : SReg) (a2 : SReg) (a3 : SReg) (a4 : XOrd) (a5 : Bool) : Statement (.collb a0 a1 a2 a3 a4 a5) := congrArg some (opc_packX ..)
theorem collq (a0 : Pred) (a1 : SReg) (a2 : SReg) (a3 : Option (BitVec 3)) : Statement (.collq a0 a1 a2 a3) := congrArg some (opc_packX ..)
theorem launch (a0 : Pred) (a1 : SReg) (a2 : SReg) (a3 : SReg) : Statement (.launch a0 a1 a2 a3) := congrArg some (opc_packX ..)
theorem ljoin (a0 : Pred) (a1 : SReg) (a2 : SReg) : Statement (.ljoin a0 a1 a2) := congrArg some (opc_packX ..)
theorem fork (a0 : Pred) (a1 : SReg) (a2 : SReg) : Statement (.fork a0 a1 a2) := congrArg some (opc_packX ..)
theorem mbrecv (a0 : Pred) (a1 : SReg) (a2 : SReg) (a3 : SReg) : Statement (.mbrecv a0 a1 a2 a3) := congrArg some (opc_packX ..)
theorem mbsend (a0 : Pred) (a1 : SReg) (a2 : SReg) (a3 : SReg) (a4 : SReg) : Statement (.mbsend a0 a1 a2 a3 a4) := congrArg some (opc_packX ..)
theorem trap (a0 : Pred) (a1 : BitVec 8) : Statement (.trap a0 a1) := congrArg some (opc_packX ..)
theorem eret (a0 : Pred) : Statement (.eret a0) := congrArg some (opc_packX ..)
theorem replay (a0 : Pred) (a1 : SReg) : Statement (.replay a0 a1) := congrArg some (opc_packX ..)
theorem ctxsave (a0 : Pred) (a1 : SReg) (a2 : SReg) : Statement (.ctxsave a0 a1 a2) := congrArg some (opc_packX ..)
theorem ctxload (a0 : Pred) (a1 : SReg) (a2 : SReg) : Statement (.ctxload a0 a1 a2) := congrArg some (opc_packX ..)
theorem run (a0 : BitVec 5) (a1 : BitVec 6) (a2 : Bool) : Statement (.run a0 a1 a2) := by
  refine congrArg some ?_
  change @BitVec.extractLsb' (7+5+6+1+45) 57 7 (_ ++ a0 ++ a1 ++ b1 a2 ++ 0#45) = _
  simp (disch := omega) only [extract_append_hi]
  decide
theorem trail (a0 : BitVec 3) (a1 : BitVec 12) (a2 : BitVec 12) (a3 : BitVec 12) (a4 : BitVec 12) : Statement (.trail a0 a1 a2 a3 a4) := by
  refine congrArg some ?_
  change @BitVec.extractLsb' (7+3+6+12+12+12+12) 57 7 (_ ++ a0 ++ 0#6 ++ a4 ++ a3 ++ a2 ++ a1) = _
  simp (disch := omega) only [extract_append_hi]
  decide
theorem loadValueReturn (a0 : Nat) (a1 : Nat) : Statement (.loadValueReturn a0 a1) := rfl
theorem parkedLoadTrap (a0 : Nat) : Statement (.parkedLoadTrap a0) := rfl
theorem storeAck (a0 : Nat) (a1 : Nat) : Statement (.storeAck a0 a1) := rfl
theorem cgAccess (a0 : Nat) (a1 : Nat) (a2 : LanePart) : Statement (.cgAccess a0 a1 a2) := rfl
theorem throttleWindowEnd (a0 : Nat) (a1 : Nat) (a2 : Nat) (a3 : Nat) : Statement (.throttleWindowEnd a0 a1 a2 a3) := rfl
theorem hubAccess (a0 : Nat) (a1 : Nat) (a2 : LanePart) : Statement (.hubAccess a0 a1 a2) := rfl
theorem leaseExpiry (a0 : Nat) (a1 : Nat) (a2 : Nat) : Statement (.leaseExpiry a0 a1 a2) := rfl
theorem copyComplete (a0 : Nat) (a1 : CmdPart) : Statement (.copyComplete a0 a1) := rfl
theorem copyFault (a0 : Nat) (a1 : CmdPart) : Statement (.copyFault a0 a1) := rfl
theorem bowaitWake (a0 : Nat) : Statement (.bowaitWake a0) := rfl
theorem matrixCmdComplete (a0 : MatrixPart) : Statement (.matrixCmdComplete a0) := rfl
theorem sloadComplete (a0 : Nat) (a1 : Nat) (a2 : Nat) : Statement (.sloadComplete a0 a1 a2) := rfl
theorem slotReload (a0 : Nat) (a1 : Nat) (a2 : Nat) : Statement (.slotReload a0 a1 a2) := rfl
theorem matinsPass (a0 : List BindPlan) : Statement (.matinsPass a0) := rfl
theorem pdlExpiry (a0 : Nat) : Statement (.pdlExpiry a0) := rfl
theorem teamRecordWrite (a0 : Nat) : Statement (.teamRecordWrite a0) := rfl
theorem teamAdmit (a0 : Nat) : Statement (.teamAdmit a0) := rfl
theorem teamRetire (a0 : Nat) : Statement (.teamRetire a0) := rfl
theorem gridRetire (a0 : Nat) : Statement (.gridRetire a0) := rfl
theorem contextCreate (a0 : CtxSpec) : Statement (.contextCreate a0) := rfl
theorem spaceCreate (a0 : SpaceSpec) : Statement (.spaceCreate a0) := rfl
theorem spaceDestroy (a0 : Nat) : Statement (.spaceDestroy a0) := rfl
theorem partitionConfigure (a0 : PartSpec) : Statement (.partitionConfigure a0) := rfl
theorem trustKeyRemove (a0 : Nat) (a1 : Nat) : Statement (.trustKeyRemove a0 a1) := rfl
theorem tenantReset (a0 : Nat) : Statement (.tenantReset a0) := rfl
theorem kick (a0 : Nat) (a1 : Word) : Statement (.kick a0 a1) := rfl
theorem kickPoll (a0 : Nat) (a1 : Nat) : Statement (.kickPoll a0 a1) := rfl
theorem hostRingCfgWrite (a0 : Nat) (a1 : Nat) (a2 : Word) : Statement (.hostRingCfgWrite a0 a1 a2) := rfl
theorem standingBindRequest (a0 : Nat) (a1 : Word) : Statement (.standingBindRequest a0 a1) := rfl
theorem registerWrite (a0 : Option Nat) (a1 : Nat) (a2 : List Byte) : Statement (.registerWrite a0 a1 a2) := rfl
theorem bootctlReset : Statement .bootctlReset := rfl
theorem packageReset : Statement .packageReset := rfl
theorem startedMark : Statement .startedMark := rfl
theorem startTimeout (a0 : Nat) (a1 : BitVec 8) : Statement (.startTimeout a0 a1) := rfl
theorem getVersion : Statement .getVersion := rfl
theorem getCapabilities : Statement .getCapabilities := rfl
theorem negotiateAlgorithms : Statement .negotiateAlgorithms := rfl
theorem getDigests : Statement .getDigests := rfl
theorem getCertificate : Statement .getCertificate := rfl
theorem challenge (a0 : BitVec 256) : Statement (.challenge a0) := rfl
theorem getMeasurements (a0 : Nat) : Statement (.getMeasurements a0) := rfl
theorem vendorDefinedRequest (a0 : VendorReq) (a1 : Nat) : Statement (.vendorDefinedRequest a0 a1) := rfl
theorem firmwareSwap (a0 : List Byte) (a1 : Nat) (a2 : List Byte) : Statement (.firmwareSwap a0 a1 a2) := rfl
theorem swapTimeout : Statement .swapTimeout := rfl
theorem slotScrub (a0 : Nat) (a1 : Nat) (a2 : Bool) : Statement (.slotScrub a0 a1 a2) := rfl
theorem hbmRecalibration (a0 : Nat) : Statement (.hbmRecalibration a0) := rfl
theorem linkRecalibration (a0 : Nat) (a1 : Nat) (a2 : Nat) : Statement (.linkRecalibration a0 a1 a2) := rfl
theorem quadrantRetirement (a0 : Nat) : Statement (.quadrantRetirement a0) := rfl
theorem cgRetirement (a0 : Nat) : Statement (.cgRetirement a0) := rfl
theorem powerLimit (a0 : Nat) : Statement (.powerLimit a0) := rfl
theorem thermalTrip : Statement .thermalTrip := rfl
theorem portReassign (a0 : Nat) : Statement (.portReassign a0) := rfl
theorem packetReceive (a0 : Packet) : Statement (.packetReceive a0) := rfl
theorem messageSkip (a0 : Nat) (a1 : Nat) (a2 : Nat) (a3 : Nat) : Statement (.messageSkip a0 a1 a2 a3) := rfl
theorem keyRenewal (a0 : Nat) (a1 : Nat) : Statement (.keyRenewal a0 a1) := rfl
theorem chkeyTimeout (a0 : Nat) (a1 : Nat) : Statement (.chkeyTimeout a0 a1) := rfl
theorem collDeadline (a0 : Nat) (a1 : Nat) : Statement (.collDeadline a0 a1) := rfl
theorem collNoResultTimeout (a0 : Nat) (a1 : Nat) : Statement (.collNoResultTimeout a0 a1) := rfl
theorem functionLevelReset (a0 : Nat) : Statement (.functionLevelReset a0) := rfl
theorem contextDestroy (a0 : Nat) : Statement (.contextDestroy a0) := rfl
theorem hostStopRequest (a0 : Nat) : Statement (.hostStopRequest a0) := rfl
theorem sharedSpaceAttach (a0 : Nat) (a1 : Nat) (a2 : Nat) : Statement (.sharedSpaceAttach a0 a1 a2) := rfl
theorem partitionCreate (a0 : PartSpec) : Statement (.partitionCreate a0) := rfl
theorem partitionReset (a0 : Nat) : Statement (.partitionReset a0) := rfl
theorem retryRound (a0 : Nat) (a1 : Nat) : Statement (.retryRound a0 a1) := rfl

end Laws.Encoding
end Sys2Proof
end

