-- ==== Sys2Proof/Tests/Slice0.lean ====
section
/-! SUPPORT. Tests: an ill-formed term for every check of WellFormed, the manual's words, one step of each family, and a
state that meets the hypotheses of each statement. Expected values are the manual's or computed by hand from it. -/

namespace Sys2Proof.Tests
open Sys2Proof.Machine Sys2Proof.Spec
set_option Elab.async false

/-! Ill-formed terms: one for each check. -/

theorem test_illformed_uniform :
    (wellFormed (.scmp always 0 7 1 (.imm 0)) || wellFormed (.slea always 0 3 2 (.imm 0)) || wellFormed (.slea always 0 2 3 (.imm 0)) ||
     wellFormed (.slih always 3 0) || wellFormed (.qop always (.and 7 0 0)) || wellFormed (.qop always (.not 7 0)) ||
     wellFormed (.qop always (.set 7)) || wellFormed (.qop always (.froms 7 1)) || wellFormed (.qop always (.any 7 0)) ||
     wellFormed (.swr always .gangid 1)) = false := by decide +kernel
theorem test_illformed_control :
    (wellFormed (.call always 0 3) || wellFormed (.call always 0 0) || wellFormed (.ret always 5) || wellFormed (.ret always 0) ||
     wellFormed (.loop always 0 0) || wellFormed (.run 0 0 false) || wellFormed (.run 25 0 false)) = false := by decide +kernel
theorem test_illformed_flash :
    (wellFormed (.flash 5 0 0 0 0 0 0 0) || wellFormed (.flash 0 1 0 0 0 0 0 0) || wellFormed (.flash 1 1 2 0 0 0 0 0) ||
     wellFormed (.flash 2 1 2 3 0 0 0 0) || wellFormed (.flash 3 1 2 3 4 0 0 0) || wellFormed (.flash 0 0 0 0 0 0 17 0) ||
     wellFormed (.flash 0 0 0 0 0 123 3 0)) = false := by decide +kernel
theorem test_illformed_trailer :
    (wellFormed (.trail 5 0 0 0 0) || wellFormed (.trail 0 8 0 0 0) || wellFormed (.trail 1 6 0 0 0) || wellFormed (.trail 1 8 8 0 0) ||
     wellFormed (.trail 2 8 8 8 0) || wellFormed (.trail 3 8 8 8 8)) = false := by decide +kernel
theorem test_illformed_blocks :
    (wellFormed (.growB always 0) || wellFormed (.growB always 3) || wellFormed (.growT always 7 1) || wellFormed (.growT always 0 0) ||
     wellFormed (.shrink always 0)) = false := by decide +kernel
theorem test_illformed_vector :
    (wellFormed (.vcmp always false 0 7 (.v 1) (.v 2)) || wellFormed (.vcmpImm always false 0 7 (.v 1) 0) ||
     wellFormed (.fcmp always false 0 0 7 (.v 1) (.v 2)) || wellFormed (.vvote always false .any 7 0) ||
     wellFormed (.plop always false (.and 7 0 0)) || wellFormed (.plop always false (.not 7 0)) ||
     wellFormed (.plop always false (.set 7)) || wellFormed (.plop always false (.fromv 7 (.v 0)))) = false := by decide +kernel
theorem test_illformed_slots_and_matrix :
    (wellFormed (.sload always 0 2 1) || wellFormed (.sload always 1 3 1) || wellFormed (.mloadw always 1 3 1 none) ||
     wellFormed (.mloadw always 1 2 1 (some ⟨0, 4⟩)) || wellFormed (.mloadws always 1 0 3 1 none) ||
     wellFormed (.mloadws always 1 0 2 1 (some ⟨3, 4⟩)) || wellFormed (.mstream always 1 false false 3 1 none) ||
     wellFormed (.mstream always 1 false false 2 1 (some ⟨0, 4⟩)) || wellFormed (.mswap always (some ⟨3, 4⟩)) ||
     wellFormed (.mdrain always 1 0 false false 3 1 none) || wellFormed (.mdrain always 1 0 false false 2 1 (some ⟨0, 4⟩)) ||
     wellFormed (.mdrain always 0 1 false false 2 1 none)) = false := by decide +kernel
theorem test_illformed_memory :
    (wellFormed (.ld always false (.v 1) (.v 2) 3 0 31 none false) || wellFormed (.ld always false (.v 1) (.v 2) 2 4 31 none true) ||
     wellFormed (.ld always false (.v 1) (.v 2) 2 0 0 none false) || wellFormed (.ld always false (.v 1) (.v 2) 2 0 7 (some 1) false) ||
     wellFormed (.st always false (.v 1) (.v 2) 2 0 31 (some 6) false) || wellFormed (.ldc always false (.v 1) 3 0 none false) ||
     wellFormed (.stc always false (.v 1) 2 0 (some 6) false) || wellFormed (.ldl always false (.v 1) (.v 2) 3 31) ||
     wellFormed (.stl always false (.v 1) (.v 2) 2 0) || wellFormed (.sld always false 1 2 3 0 31 none false) ||
     wellFormed (.sst always false 1 2 2 4 31 none true) || wellFormed (.pref always false (.v 1) 3 0 31) ||
     wellFormed (.evict always false (.v 1) 2 0)) = false := by decide +kernel
theorem test_illformed_ordering :
    (wellFormed (.fence always false false 1) || wellFormed (.fence always true false 6) || wellFormed (.tbar always 0) ||
     wellFormed (.tbar always 6) || wellFormed (.rdv always 0) || wellFormed (.boarr always 1 2 3 4 6) ||
     wellFormed (.bowait always 1 2 6) || wellFormed (.botest always 1 2 3 6)) = false := by decide +kernel
theorem test_illformed_atomics :
    (wellFormed (.atom always false 12 .a32 1 (.v 2) 2 0 ⟨false, false, 0⟩ false) ||
     wellFormed (.atom always false 8 .a16 1 (.v 2) 2 0 ⟨false, false, 0⟩ false) ||
     wellFormed (.atom always false 0 .a64 1 (.v 2) 2 0 ⟨false, false, 0⟩ false) ||
     wellFormed (.atom always false 0 .a32 1 (.v 2) 3 0 ⟨false, false, 0⟩ false) ||
     wellFormed (.atom always false 0 .a32 1 (.v 2) 2 4 ⟨false, false, 0⟩ true) ||
     wellFormed (.atom always false 0 .a32 1 (.v 2) 2 0 ⟨false, false, 1⟩ false) ||
     wellFormed (.atomn always false 0 .a64 (.v 1) (.v 2) 2 0 none false) || wellFormed (.atomn always false 0 .a32 (.v 1) (.v 2) 2 0 (some 6) false) ||
     wellFormed (.acas always false .a16 1 (.v 2) 2 0 ⟨false, false, 0⟩ false) ||
     wellFormed (.acas always false .a64 1 (.v 2) 2 0 ⟨false, false, 0⟩ false)) = false := by decide +kernel
theorem test_illformed_engine :
    (wellFormed (.xcopy always 1 0 ⟨false, false, 1⟩ .none) || wellFormed (.xcopy always 1 0 ⟨false, false, 0⟩ (.arrive 2)) ||
     wellFormed (.xcopy always 1 0 ⟨false, true, 6⟩ .none) || wellFormed (.xcopy always 1 0 ⟨false, false, 1⟩ (.notify 3)) ||
     wellFormed (.xwait always 1 6) || wellFormed (.xtest always 1 2 6) || wellFormed (.xfill always 3 1 1 ⟨false, false, 0⟩ none) ||
     wellFormed (.xclone always 3 2 1 ⟨false, false, 0⟩ none) || wellFormed (.xclone always 2 3 1 ⟨false, false, 0⟩ none) ||
     wellFormed (.xpurge always 3 1 1 0) || wellFormed (.xpurge always 2 1 1 6)) = false := by decide +kernel
theorem test_illformed_channels :
    (wellFormed (.chsend always 3 1 1 1 none) || wellFormed (.chsend always 2 1 1 1 (some 6)) || wellFormed (.chrecv always 3 1 1 1 none) ||
     wellFormed (.chgrantWrite always 1 1 3 1) || wellFormed (.chgrantRevoke always 1 1 3 1) || wellFormed (.chgrantBind always 1 1 3 1) ||
     wellFormed (.collr always 1 1 1 ⟨false, false, 0⟩ true) || wellFormed (.collg always 1 1 1 ⟨false, false, 1⟩ false) ||
     wellFormed (.collb always 1 1 1 ⟨true, false, 6⟩ false) || wellFormed (.collq always 1 1 (some 6))) = false := by decide +kernel
theorem test_illformed_launch :
    (wellFormed (.launch always 1 2 3) || wellFormed (.ctxsave always 3 2) || wellFormed (.ctxload always 3 2)) = false := by decide +kernel

/-! The manual's words. -/
theorem test_words_uniform_control :
    (decode 0x00E018A000860064).toOption = some (.scmp always 4 3 40 (.imm 100)) ∧
    (decode 0x204200000600000A).toOption = some (.brv ⟨false, 2⟩ 6 10) ∧
    (decode 0x20E5FFFFFC000014).toOption = some (.loop always 16777212 20) := by decide +kernel
theorem test_words_registers :
    (decode 0x30E0000000000001).toOption = some (.growB always 1) ∧
    (decode 0x30E0100000008006).toOption = some (.growT always 2 6) ∧
    (decode 0x30E0000000080001).toOption = some (.shrink always 1) ∧
    (decode 0x32E0661400000003).toOption = some (.vrdi always false (.v 12) 5 3) ∧
    (decode 0x32E0561410000003).toOption = some (.vwri always false (.v 10) 5 3) := by decide +kernel
theorem test_words_vector :
    (decode 0x40E0602306000000).toOption = some (.vadd always false (.v 12) (.v 8) (.b 3)) ∧
    (decode 0x40E0A0542C000055).toOption = some (.vadds always false true .w8 (.v 20) (.v 21) (.v 22)) ∧
    (decode 0x44E0102012000002).toOption = some (.vcmp always false 2 2 (.v 8) (.v 9)) ∧
    (decode 0x54E01800200003E8).toOption = some (.vmovImm always false (.v 3) 1000) ∧
    (decode 0x48E0601000000030).toOption = some (.vmatch always false (.v 12) (.v 4)) ∧
    (decode 0x48E0402408080010).toOption = some (.vpush always false (.v 8) (.v 9) (.v 4) (.v 8)) := by decide +kernel
theorem test_words_slots :
    (decode 0x70204024140B5030).toOption = some (.ffma ⟨false, 1⟩ false 5 0 false (.v 8) (.v 9) (.v 10) (.v 11)) ∧
    (decode 0x70E0402414005C00).toOption = some (.fadd always false 5 3 false (.v 8) (.v 9) (.v 10)) ∧
    (decode 0x72E0603400003000).toOption = some (.fcvt always false 3 0 0 false (.v 12) (.v 13)) ∧
    (decode 0x76E0A0542C173000).toOption = some (.fdot always false 3 (.v 20) (.v 21) (.v 22) (.v 23)) ∧
    (decode 0x90E0050000287800).toOption = some (.sload always 5 40 30) ∧
    (decode 0x90E0400000000000).toOption = some (.sfence always) ∧
    (decode 0x90E0800290287C00).toOption = some (.sdesc always 5 41 31) := by decide +kernel
theorem test_words_matrix :
    (decode 0x98E0028160280000).toOption = some (.mloadw always 5 20 22 none) ∧
    (decode 0x98E0C301A0980000).toOption = some (.mstream always 3 true false 24 26 none) ∧
    (decode 0x98E1000000007830).toOption = some (.mswap always (some ⟨1, 30⟩)) ∧
    (decode 0x98E1440220280000).toOption = some (.mdrain always 5 0 false false 32 34 none) ∧
    (decode 0x98E1800080000000).toOption = some (.mclear always false 8) ∧
    (decode 0x9AE1463000000000).toOption = some (.mreadv always false (.v 40) 12) := by decide +kernel
theorem test_words_memory :
    (decode 0xB0E0502C28003800).toOption = some (.ld always false (.v 10) (.v 11) 20 0 7 none false) ∧
    (decode 0xB0E0602C28003804).toOption = some (.st always false (.v 12) (.v 11) 20 0 7 none false) ∧
    (decode 0xB0E0F0542800F818).toOption = some (.sld always false 30 21 20 0 31 none false) ∧
    (decode 0xCAE0502C2800F801).toOption = some (.atom always false 0 .a32 10 (.v 11) 20 0 ⟨false, false, 0⟩ true) ∧
    (decode 0xCCE0602C2800F800).toOption = some (.atomn always false 0 .a32 (.v 12) (.v 11) 20 0 none false) ∧
    (decode 0xCEE050302800F800).toOption = some (.acas always false .a32 10 (.v 12) 20 0 ⟨false, false, 0⟩ false) := by decide +kernel
theorem test_words_ordering :
    (decode 0xD0E0410000002420).toOption = some (.boarr always 8 0 0 9 1) ∧
    (decode 0xD0E0810090000020).toOption = some (.bowait always 8 9 1) ∧
    (decode 0xC8E0000000000340).toOption = some (.fence always true true 2) ∧
    (decode 0xC8E0400000000000).toOption = some (.wstc always) ∧
    (decode 0xC8E0800000000020).toOption = some (.tbar always 1) ∧
    (decode 0xC8E0C00000000020).toOption = some (.rdv always 1) := by decide +kernel
theorem test_words_engine :
    (decode 0xD8E0050000002430).toOption = some (.xcopy always 40 0 ⟨false, false, 1⟩ (.arrive 9)) ∧
    (decode 0xD8E0400000003000).toOption = some (.xclose always 12) ∧
    (decode 0xD8E08000C0000000).toOption = some (.xwait always 12 0) ∧
    (decode 0xD8E1828160B80080).toOption = some (.xpurge always 20 22 23 4) := by decide +kernel
theorem test_words_channels :
    (decode 0xE4E0028160B87980).toOption = some (.chsend always 20 22 23 30 (some 4)) ∧
    (decode 0xE4E0430160C87E20).toOption = some (.chrecv always 24 22 25 31 (some 1)) ∧
    (decode 0xE6E00502900033B0).toOption = some (.collr always 40 41 12 ⟨true, true, 5⟩ true) ∧
    (decode 0xE6E0C000C0003400).toOption = some (.collq always 12 13 none) := by decide +kernel
theorem test_words_launch :
    (decode 0xF0E002A160006000).toOption = some (.launch always 21 22 24) ∧
    (decode 0xF0E0400190006800).toOption = some (.ljoin always 25 26) ∧
    (decode 0xF0E0850000007800).toOption = some (.fork always 40 30) ∧
    (decode 0xF0E0C16000002800).toOption = some (.mbrecv always 11 0 10) ∧
    (decode 0xF0E10160D0703000).toOption = some (.mbsend always 11 13 14 12) := by decide +kernel
theorem test_words_traps :
    (decode 0xF2E0000000280000).toOption = some (.trap always 5) ∧
    (decode 0xF2E0400000000000).toOption = some (.eret always) ∧
    (decode 0xF2E080000007D000).toOption = some (.replay always 500) ∧
    (decode 0xF2E0FEC00007D000).toOption = some (.ctxsave always 502 500) ∧
    (decode 0xF2E13EC00007D000).toOption = some (.ctxload always 502 500) := by decide +kernel
theorem test_words_header_trailer :
    (decodeRun 0xFE20800000000000).toOption = some (.run 2 2 false) ∧ (decodeTrail 0xFC400000000000A2).toOption = some (.trail 1 162 0 0 0) := by decide +kernel
/-- R31: a nonzero unused field (reason 0x13); R46: an unassigned opcode (0x10) and function (0x11); R33: an odd pair (0x12). -/
theorem test_words_refused :
    (match decode 0x40E0602306000001 with | .error c => c | .ok _ => 0) = 0x13 ∧ (match decode 0x08E0000000000000 with | .error c => c | .ok _ => 0) = 0x10 ∧
    (match decode 0x00E0000003E00000 with | .error c => c | .ok _ => 0) = 0x11 ∧ (match decode 0x98E1442220280000 with | .error c => c | .ok _ => 0) = 0x12 := by decide +kernel
theorem test_encode_inverts :
    (encode (.vadd always false (.v 12) (.v 8) (.b 3))) = some 0x40E0602306000000 ∧ encode (.retryRound 0 1) = none := by decide +kernel


/-! Small states: one gang (or sequencer) of one team on quadrant 0, in normal service, about to issue a word. -/

def nextOf (r : Res) : Option State := match r with | .next t => some t | _ => none
def agentOf (s : State) : Agent := (s.agent? s.cur).getD Agent.start
/-- The agent after the word i. -/
def after (i : Instr) (s : State) : Option Agent := (nextOf (exec i s)).bind fun t => t.agent? s.cur
def onRun (f : Agent → Agent) : Agent := f (placedAgent (placedRun [nopWord, emptyTrailer] 0))
def gang (f : Agent → Agent) : State := placedSpace (placedBase State.reset false (onRun f)) []
def mseq (f : Agent → Agent) : State := placedSpace (placedBase State.reset true (onRun f)) []
/-- The team's DSEQ. -/
def dseq (f : Agent → Agent) : State := { (mseq f).delAgent 48 with cur := 49 }.setAgent 49 (onRun f)
/-- A gang with s1 = 7, s2 = -8, s3 = 0 and lane i of v1 holding i, of v2 holding 5. -/
def filled (a : Agent) : Agent :=
  (((a.setS 1 7).setS 2 0xFFFFFFF8).setV 1 laneIndex).setV 2 (laneFn fun _ => 5)
def g0 : State := gang filled
def m0 : State := mseq filled
def d0 : State := dseq filled
/-- Under a predicate that holds in lanes 0 to 3 only (p1), and a false q1. -/
def p1 : Pred := { neg := false, idx := 1 }
def gp : State := gang fun a => (filled a).setP 1 0xF
def sup (a : Agent) : Agent := { a with sv := true }
def vlane (i : Instr) (s : State) (n : Nat) (l : Nat) : Option Word := (after i s).map fun a => lane (a.v n) l

/-! Uniform words. -/

theorem witness_uniform_value :
    (∃ f, uniformRow (.sadd always 3 1 (.reg 2)) = some (always, 3, [1, 2], f)) ∧ UniReady .all false [3] always [1, 2] g0 (agentOf g0) :=
  ⟨⟨_, rfl⟩, by decide +kernel⟩
theorem witness_register_zero :
    (∃ f, uniformRow (.smov always 0 (.reg 1)) = some (always, 0, [1], f)) ∧ UniReady .all false [0] always [1] g0 (agentOf g0) :=
  ⟨⟨_, rfl⟩, by decide +kernel⟩
theorem witness_uniform_predicate :
    (∃ f, predicateRow (.scmp always 4 3 1 (.imm 100)) = some (.all, always, 3, [1], f)) ∧ UniReady .all false [] always [1] g0 (agentOf g0) :=
  ⟨⟨_, rfl⟩, by decide +kernel⟩
theorem witness_uniform_pair :
    (∃ f, pairRow (.slih always 4 1) = some (always, 4, [], f)) ∧ UniReady .all false [4, 5] always [] g0 (agentOf g0) := ⟨⟨_, rfl⟩, by decide +kernel⟩
theorem witness_slea : UniReady .all false [4, 5] always [2, 3, 1] g0 (agentOf g0) ∧
    encode (.slea always 0 3 2 (.imm 0)) = some 0x00E0180800A40000 ∧ (decode 0x00E0200800A50001).toOption = some (.slea always 2 4 2 (.imm 1)) := by decide +kernel
theorem witness_saddc : UniReady .all false [4] always [1, 2] g0 (agentOf g0) ∧
    (decode 0x00E0200404988000).toOption = some (.saddc always true 4 1 (.reg 2)) := by decide +kernel
theorem witness_division :
    UniReady .all false [4] always [1, 3] g0 (agentOf g0) ∧ operandB (agentOf g0) (.reg 3) = 0 ∧
    (let s := gang fun a => (a.setS 1 0x80000000).setS 2 0xFFFFFFFF
     UniReady .all false [4] always [1, 2] s (agentOf s) ∧ (agentOf s).s 1 = 0x80000000 ∧ operandB (agentOf s) (.reg 2) = 0xFFFFFFFF) := by decide +kernel
theorem witness_uniform_false :
    uniformShape (.sadd p1 3 1 (.imm 1)) = some (.all, p1, false, [3], [1]) ∧ g0.agent? g0.cur = some (agentOf g0) ∧ Who.admits .all g0.cur = true ∧
    (∀ n ∈ [3], n < 496) ∧ (agentOf g0).holds p1 = false := by decide +kernel
theorem witness_bank_write :
    uniformShape (.sadd always 500 1 (.imm 1)) = some (.all, always, false, [500], [1]) ∧ (∃ n ∈ [500], 496 ≤ n) ∧ MayTrap g0 (agentOf g0) := by decide +kernel
/-- R90's table, R92's borrow, R93's sum, R94's field, R95's pair, R89's shift by 32 and count. -/
theorem step_uniform :
    (after (.sdiv always false 4 1 (.reg 3)) g0).map (·.s 4) = some 0xFFFFFFFF ∧
    (after (.smod always false 4 2 (.imm 5)) g0).map (·.s 4) = some 0xFFFFFFFD ∧
    (after (.saddc always true 4 1 (.reg 2)) g0).map (·.s 4) = some 1 ∧
    (after (.slea always 2 4 2 (.reg 1)) g0).map (fun a => (a.s 4, a.s 5)) = some (0x00000014, 1) ∧
    (after (.sbfe always false 4 2 (.imm 0x83)) g0).map (·.s 4) = some 0xFFFFFFFF ∧
    (after (.slih always 4 9) g0).map (fun a => (a.s 4, a.s 5)) = some (0, 9) ∧
    (after (.sshl always 4 1 (.imm 32)) g0).map (·.s 4) = some 0 ∧
    (after (.sclz always 4 1) g0).map (·.s 4) = some 29 := by decide +kernel
theorem step_uniform_more :
    (after (.smulh always false 4 2 (.reg 2)) g0).map (·.s 4) = some 0 ∧ (after (.smulh always true 4 2 (.reg 2)) g0).map (·.s 4) = some 0xFFFFFFF0 ∧
    (after (.ssra always 4 2 (.imm 40)) g0).map (·.s 4) = some 0xFFFFFFFF ∧ (after (.srot always 4 2 (.imm 36)) g0).map (·.s 4) = some 0xFFFFFF8F ∧
    (after (.smin always true 4 1 (.reg 2)) g0).map (·.s 4) = some 7 ∧ (after (.smax always false 4 1 (.reg 2)) g0).map (·.s 4) = some 7 ∧
    (after (.sbfi always 1 2 (.imm 0x64)) g0).map (·.s 1) = some 0x07 ∧ (after (.spopc always 4 2) g0).map (·.s 4) = some 29 ∧
    (after (.scmp always 4 3 1 (.imm 100)) g0).map (·.q 3) = some true ∧ (after (.qop always (.tos 4 7)) g0).map (·.s 4) = some 1 := by decide +kernel
/-- R72: s0 reads zero and discards a write; R73: a user write of s500 traps with reason 0x16. -/
theorem step_fixed_registers :
    (after (.smov always 0 (.imm 9)) g0).map (·.s 0) = some 0 ∧
    (after (.smov always 500 (.imm 9)) g0).map (fun a => (a.s 500, a.frame.cause, a.frame.tdetail, a.slot.pc)) = some (0, 1, 0x16, 0x2000) := by decide +kernel

/-! System registers. -/

theorem witness_system_read :
    sysValue g0 (agentOf g0) .slotmask = some 0xFFFFFFFF ∧ isSeq g0.cur = false ∧ waitsAll .slotmask = false ∧
    UniReady .all (svReg .slotmask) [4] always [] g0 (agentOf g0) := by decide +kernel
theorem witness_system_read_supervisor :
    let s := gang fun a => sup (filled a)
    sysValue s (agentOf s) .cause = some 0 ∧ isSeq s.cur = false ∧ UniReady .all (svReg .cause) [500] always [] s (agentOf s) := by decide +kernel
theorem witness_system_read_ordered :
    sysValue m0 (agentOf m0) .flags = some 0 ∧ svReg .flags = false ∧ (waitsAll .flags = true ∧ m0.uncompleted m0.cur (agentOf m0) = false) ∧
    UniReady .all false [4] always [] m0 (agentOf m0) := by decide +kernel
theorem witness_counters : UniReady .all false [4] always [] g0 (agentOf g0) := by decide +kernel
theorem witness_system_write :
    sysWrite (agentOf g0) ((agentOf g0).s 1) .stalls = some { agentOf g0 with stalls := 7, since := 0 } ∧ isSeq g0.cur = false ∧ waitsAll .stalls = false ∧
    UniReady .all (svReg .stalls) [] always [1] g0 (agentOf g0) := by decide +kernel
/-- R76: an SWR of RETIRED followed by an SRD reads 1; WARN is write-one-to-clear. -/
theorem step_system :
    ((after (.swr always .retired 0) g0).map (·.retired)) = some 1 ∧
    ((after (.swr always .warn 1) (gang fun a => { filled a with warn := true })).map (·.warn)) = some false ∧
    ((after (.srd always 4 .gangid) g0).map (·.s 4)) = some 0 ∧ ((after (.srd always 4 .cause) g0).map (·.frame.tdetail)) = some 0x16 := by decide +kernel

/-! Control flow. -/

theorem witness_branches :
    (agentOf g0).run.isSome = true ∧ UniReady .all false [] always [] g0 (agentOf g0) ∧ UniReady .all false [4, 5] always [] g0 (agentOf g0) ∧
    UniReady .all false [4, 5] always [4, 5] g0 (agentOf g0) ∧ (1 : SReg) ≠ 0 ∧ UniReady .all false [1] always [1] g0 (agentOf g0) := by decide +kernel
theorem witness_loop_traps :
    encode (.loop always 3 0) = some 0x20E5000003000000 ∧ 496 ≤ (500 : SReg).toNat ∧ MayTrap g0 (agentOf g0) ∧ SeqMayTrap m0 (agentOf m0) := by decide +kernel
theorem witness_brv_whole : g0.agent? g0.cur = some (agentOf g0) ∧ isSeq g0.cur = false ∧ (agentOf g0).active always = (agentOf g0).slot.mask := by decide +kernel
theorem witness_brv_none : (agentOf g0).active p1 ≠ (agentOf g0).slot.mask ∧ (agentOf g0).active p1 = 0 := by decide +kernel
theorem witness_brv_split : (agentOf gp).active p1 ≠ (agentOf gp).slot.mask ∧ (agentOf gp).active p1 ≠ 0 ∧
    (agentOf gp).stack.length + (if (agentOf gp).other.st = .dead then 1 else 2) ≤ 256 := by decide +kernel
/-- A gang whose divergence stack is full. -/
def gFull : State := gang fun a => { (filled a).setP 1 0xF with stack := List.replicate 256 (.join 0 0 none) }
theorem witness_brv_overflow : (agentOf gFull).active p1 ≠ (agentOf gFull).slot.mask ∧ (agentOf gFull).active p1 ≠ 0 ∧
    256 < (agentOf gFull).stack.length + (if (agentOf gFull).other.st = .dead then 1 else 2) ∧ MayTrap gFull (agentOf gFull) := by decide +kernel
/-- R98's example: BRV splits the lanes; R99's link; R100: LOOP with a count of 1 falls through. -/
theorem step_control :
    (after (.brv p1 6 10) gp).map (fun a => (a.slot0.mask, a.slot0.pc, a.slot1.mask, a.slot1.pc, a.stack.length)) =
      some (0xF, 0x1030, 0xFFFFFFF0, 0x1018, 1) ∧
    (after (.call always 0xFFFFFE 6) g0).map (fun a => (a.s 6, a.s 7, a.run.map (·.flow))) = some (0x1018, 0, some (.goto 0xFF0)) ∧
    (after (.ret always 2) g0).map (fun a => a.run.map (·.flow)) = some (some (.goto 0xFFFFFFF8)) ∧
    (after (.loop always 4 1) (gang fun a => a.setS 1 1)).map (fun a => (a.s 1, a.run.map (·.flow))) = some (0, some .fall) ∧
    (after (.loop always 4 3) g0).map (fun a => (a.s 3, a.run.map (·.flow))) = some (0xFFFFFFFF, some (.goto 0x1020)) := by decide +kernel
/-- A gang whose fifth entry goes to the context area, here of an unmapped page: fatal (R83). -/
def gDeep : State := gang fun a => { (filled a).setP 1 0xF with stack := List.replicate 4 (.join 0 0 none) }
theorem witness_brv_spill :
    (spilled (agentOf gDeep).stack (.join 8 0xF none :: (agentOf gDeep).stack)) = [(0, .join 0 0 none)] ∧
    (match gDeep.spillEntries gDeep.cur (agentOf gDeep).ctx [(0, .join 0 0 none)] with | .ok _ => 0 | .error e => e.1) = 2 ∧
    (after (.brv p1 6 10) gDeep).isNone = true := by decide +kernel
/-- The same with that page mapped and its chunk allocated. -/
def gArea : State :=
  let ptr (a : Nat) : Nat := 1 + a / 4096 * 2 ^ 16
  let s := ((((gDeep.setPte 0 (0x1000 + 8 * 0x1BF) (ptr 0x6000)).setPte 0 (0x6000 + 8 * 0x1FE) (ptr 0x7000)).setPte 0 0x7000 (ptr 0x8000)).setPte
    0 0x8000 (ptr 0x9000)).setPte 0 0x9008 0x3F
  match s.space? 0 with
  | none => s
  | some sp =>
    let c := routeCg sp (divAddr 0 0)
    s.setCg c { s.cg c with chunks := mapPut (s.cg c).chunks (chunkKey 0 (divAddr 0 0)) { gran := 0, frame := 1, moved := false } }
theorem witness_brv_spill_mapped :
    (match gArea.spillEntries gArea.cur (agentOf gArea).ctx (spilled (agentOf gArea).stack (.join 8 0xF none :: (agentOf gArea).stack)) with
     | .ok u => u.dmem.length != gArea.dmem.length | .error _ => false) = true ∧
    (after (.brv p1 6 10) gArea).map (·.stack.length) = some 5 := by decide +kernel
theorem step_brv_overflow : (after (.brv p1 6 10) gFull).map (·.frame.cause) = some 4 := by decide +kernel
theorem witness_nop : UniReady .all false [] always [] g0 (agentOf g0) ∧ isSeq g0.cur = false ∧
    UniReady .all false [] always [] m0 (agentOf m0) ∧ isSeq m0.cur = true := by decide +kernel
/-- Both slots live: EXIT leaves the other. -/
def gTwo : State := gang fun a => { a with slot0 := { a.slot0 with mask := 0xF }, slot1 := { pc := 0x2000, mask := 0xF0, rcv := none, st := .run } }
theorem witness_exit_one : isSeq gTwo.cur = false ∧ ((((agentOf gTwo).setSlot deadSlot).setFlow .stay).settle).isSome = true := by decide +kernel
theorem witness_end_gang : UniReady .all false [] always [] g0 (agentOf g0) ∧ (g0.team? (agentOf g0).team).isSome = true ∧ isSeq g0.cur = false ∧
    g0.cur < orphanBase ∧ (agentOf g0).cmds.any Cmd.keepsGang = false ∧ ((((agentOf g0).setSlot deadSlot).setFlow .stay).settle).isSome = false := by decide +kernel
theorem witness_end_mseq : UniReady .all false [] always [] m0 (agentOf m0) ∧ (m0.team? (agentOf m0).team).isSome = true ∧ isMseq m0.cur = true ∧
    (m0.quad (quadOf m0.cur)).queue.any (fun c => c.agent == m0.cur) = false := by decide +kernel
theorem witness_end_dseq : UniReady .all false [] always [] d0 (agentOf d0) ∧ (d0.team? (agentOf d0).team).isSome = true ∧ isDseq d0.cur = true ∧
    (agentOf d0).cmds.any Cmd.keepsGang = false := by decide +kernel
theorem step_ends :
    (nextOf (exec (.endGang always) g0)).map (fun t => (t.agent? 0, (t.team? 1).map (·.live))) = some (none, some 0) ∧
    (after (.exit always) gTwo).map (fun a => (a.slot0.st, a.slot1.st)) = some (.dead, .run) ∧
    (nextOf (exec (.endGang always) m0)).map (fun t => (t.agent? 48, (t.team? 1).map (·.mRun))) = some (none, some false) ∧
    (after (.yield always) g0).map (·.block) = some .yield ∧ (after (.nop always) g0).map (·.retired) = some 1 := by decide +kernel

/-! Vector words. -/

theorem witness_vector_arithmetic :
    (∃ r, arithmeticRow (.vadd p1 false (.v 3) (.v 1) (.b 1)) = some r ∧ r.p = p1 ∧ r.srcs = [.v 1, .b 1] ∧ r.d = .v 3) ∧
    VecReady p1 [1, 513] [3] [3, 1] gp (agentOf gp) := ⟨⟨_, rfl, rfl, rfl, rfl⟩, by decide +kernel⟩
theorem witness_vector_moves :
    (∃ r, moveRow (.vswz p1 false 3 (.t 1) (.v 1)) = some r ∧ r.p = p1 ∧ r.srcs = [.v 1] ∧ r.d = .t 1) ∧
    VecReady p1 [1] [257] [1] gp (agentOf gp) := ⟨⟨_, rfl, rfl, rfl, rfl⟩, by decide +kernel⟩
theorem witness_vector_predicate :
    (∃ f, lanePredRow (.vcmp p1 false 2 2 (.v 1) (.v 2)) = some (p1, [.v 1, .v 2], 2, f)) ∧ VecReady p1 [1, 2] [] [1, 2] gp (agentOf gp) :=
  ⟨⟨_, rfl⟩, by decide +kernel⟩
theorem witness_vector_reduction_uniform :
    (∃ f, eitherRow (.vred p1 false 0 (.b 4) (.v 1)) = some (p1, [.v 1], .b 4, f)) ∧ VecReady p1 [1] [516] [1] gp (agentOf gp) := ⟨⟨_, rfl⟩, by decide +kernel⟩
theorem witness_vector_reduction_vector :
    (∃ f, eitherRow (.pcnt p1 false (.v 4) 1) = some (p1, [], .v 4, f)) ∧ VecReady p1 [] [4] [4] gp (agentOf gp) ∧ (.v 4 : Operand) = VDst.src (.v 4) :=
  ⟨⟨_, rfl⟩, by decide +kernel⟩
theorem witness_no_active_lane :
    vectorShape (.vadd p1 false (.v 3) (.v 1) (.v 2)) = some (p1, [1, 2], [3], [3, 1, 2]) ∧ g0.agent? g0.cur = some (agentOf g0) ∧ isSeq g0.cur = false ∧
    (∀ n ∈ [3, 1, 2], (agentOf g0).hasV n = true) ∧
    (agentOf g0).active p1 = 0 := ⟨rfl, by decide +kernel⟩
theorem witness_outside_blocks :
    vectorShape (.vadd p1 false (.v 64) (.v 1) (.v 2)) = some (p1, [1, 2], [64], [64, 1, 2]) ∧
    [64, 1, 2].find? (fun n => !(agentOf g0).hasV n) = some 64 ∧ MayTrap g0 (agentOf g0) := ⟨rfl, by decide +kernel⟩
/-- R131 to R145 on lane 31 (v1 holds 31) and on inactive lanes. -/
theorem step_vector :
    vlane (.vadd always false (.v 3) (.v 1) (.b 2)) g0 3 31 = some 23 ∧ vlane (.vadd p1 false (.v 2) (.v 1) (.b 1)) gp 2 4 = some 5 ∧
    vlane (.vadd p1 false (.v 2) (.v 1) (.b 1)) gp 2 3 = some 10 ∧ vlane (.vadds always false true .w8 (.v 3) (.b 2) (.b 1)) g0 3 0 = some 0xFFFFFFFF ∧
    vlane (.vabs always false true (.v 3) (.b 2)) g0 3 0 = some 8 ∧ vlane (.vsad always false false (.v 3) (.b 2) (.v 2) (.v 1)) g0 3 1 = some 0x3F1 ∧
    vlane (.vbrev always false (.v 3) (.b 1)) g0 3 0 = some 0xE0000000 ∧ vlane (.vaddsImm always false true .w8 (.v 3) (.b 1) 0x12) g0 3 0 = some 0x12121219 := by decide +kernel
theorem step_vector_moves :
    vlane (.vswz always false 7 (.v 3) (.v 1)) g0 3 0 = some 31 ∧ vlane (.vlane always false 1 (.v 3)) g0 3 31 = some 7 ∧
    vlane (.vscan always false true 0 (.v 3) (.v 2)) g0 3 3 = some 15 ∧ vlane (.vpush always false (.v 3) (.v 1) (.v 2) (.v 2)) g0 3 5 = some 31 ∧
    vlane (.vmatch p1 false (.v 3) (.v 2)) gp 3 0 = some 0xF ∧ (after (.vred p1 false 0 (.b 4) (.v 1)) gp).map (·.s 4) = some 6 ∧
    (after (.vcmp p1 false 2 2 (.v 1) (.v 2)) (gang fun a => ((filled a).setP 1 0xFF).setP 2 0x100)).map (·.p 2) = some 0x11F ∧
    (after (.vadd p1 false (.v 64) (.v 1) (.v 2)) g0).map (fun a => (a.frame.cause, a.frame.tdetail)) = some (2, 64) := by decide +kernel

/-! FLASH, register blocks, indirect access. -/

theorem witness_flash : g0.agent? g0.cur = some (agentOf g0) ∧ isSeq g0.cur = false ∧ (0 : BitVec 5).toNat < (g0.recipes (agentOf g0)).length ∧
    (∀ n ∈ [1], (agentOf g0).hasV n = true) ∧ (agentOf g0).clear ([1] ++ [516, 517]) [] ∧ (agentOf g0).other.st = .dead ∧ (agentOf g0).stack = [] := by decide +kernel
theorem witness_flash_diverged : gTwo.agent? gTwo.cur = some (agentOf gTwo) ∧ isSeq gTwo.cur = false ∧ 0 < (gTwo.recipes (agentOf gTwo)).length ∧
    (agentOf gTwo).clear [] [] ∧ ((agentOf gTwo).other.st ≠ .dead ∨ (agentOf gTwo).stack ≠ []) := by decide +kernel
theorem step_flash : (after (.flash 1 2 0 0 0 0 2 0) g0).bind (·.rwpt.map fun r => (r.header, r.anchors, r.scalars, r.recipe)) =
    some (0x1000, [2], [0, 7], 0) ∧ (after (.flash 0 0 0 0 0 0 0 0) gTwo).map (·.rewindable) = some false := by decide +kernel
theorem witness_grow_held : let s := gang fun a => { a with blocks := 1 }
    0 < 3 ∧ UniReady .gang false [] always [] s (agentOf s) ∧ s.cur < orphanBase ∧ (1#3 <<< 0) &&& ~~~(agentOf s).blocks = 0 := by decide +kernel
theorem witness_grow_reserve : UniReady .gang false [] always [] g0 (agentOf g0) ∧ (1#3 <<< 1) &&& ~~~(agentOf g0).blocks ≠ 0 ∧
    (∀ x ∈ g0.agents, x.2.growing = none) ∧ (g0.quad 0).reserve = 64 := by decide +kernel
/-- The growth reserve spent; and a quadrant with no free capacity. -/
def gSpent : State := g0.setQuad 0 { Quad.reset with reserve := 0 }
def gTight : State := (gang fun a => { filled a with regs := 3960 }).setQuad 0 { Quad.reset with reserve := 0 }
theorem witness_grow_free : UniReady .gang false [] always [] gSpent (agentOf gSpent) ∧ (∀ x ∈ gSpent.agents, x.2.growing = none) ∧
    (gSpent.quad 0).reserve ≠ 64 ∧ 64 ≤ (gSpent.setAgent 0 { agentOf gSpent with block := .grow 1 }).freeEntries 0 := by decide +kernel
theorem witness_grow_waits : UniReady .gang false [] always [] gTight (agentOf gTight) ∧ (∀ x ∈ gTight.agents, x.2.growing = none) ∧
    (gTight.quad 0).reserve ≠ 64 ∧ (gTight.setAgent 0 { agentOf gTight with block := .grow 1 }).freeEntries 0 < 64 := by decide +kernel
theorem witness_grow_test : UniReady .gang false [] always [] gSpent (agentOf gSpent) ∧ (6 &&& ~~~(agentOf gSpent).blocks) ≠ 0 ∧
    (gSpent.oldestGrow 0).isNone ∧ 64 * ((List.range 3).countP fun i => (6 : BitVec 3).getLsbD i) ≤ gSpent.freeEntries 0 ∧
    ¬ 64 * ((List.range 3).countP fun i => (6 : BitVec 3).getLsbD i) ≤ gTight.freeEntries 0 ∧ UniReady .gang false [] always [] gTight (agentOf gTight) := by decide +kernel
theorem witness_grow_test_held : let s := gang fun a => { a with blocks := 6 }
    UniReady .gang false [] always [] s (agentOf s) ∧ (6 &&& ~~~(agentOf s).blocks) = 0 := by decide +kernel
theorem witness_shrink : let s := gang fun a => { a with blocks := 1 }
    UniReady .gang false [] always [] s (agentOf s) ∧ (∀ x ∈ s.agents, x.2.growing = none) ∧ (s.quad 0).reserve ≤ 64 := by decide +kernel
theorem step_blocks :
    (after (.growB always 2) g0).map (·.blocks) = some 2 ∧ (after (.growB always 2) gTight).map (·.block) = some (.grow 1) ∧
    (after (.growT always 3 6) gSpent).map (fun a => (a.blocks, a.q 3)) = some (6, true) ∧ (after (.growT always 3 6) gTight).map (·.q 3) = some false ∧
    (after (.shrink always 1) (gang fun a => { a with blocks := 3 })).map (·.blocks) = some 2 := by decide +kernel
theorem witness_indirect : g0.agent? g0.cur = some (agentOf g0) ∧ isSeq g0.cur = false ∧ (∀ x ∈ namedDst (.v 3), (agentOf g0).hasV x = true) ∧
    (agentOf g0).busy 513 = false ∧ index (agentOf g0) 1 0xFFFFFA = Int.ofNat 1 ∧ 1 < 256 ∧ (agentOf g0).hasV 1 = true ∧ (agentOf g0).active always ≠ 0 ∧
    (agentOf g0).clear [1] [3] ∧ (agentOf g0).clear [3] [1] := by decide +kernel
theorem witness_indirect_below : MayTrap g0 (agentOf g0) ∧ index (agentOf g0) 2 0 < 0 := by decide +kernel
theorem witness_indirect_above : 255 < index (agentOf g0) 1 249 ∧ (agentOf g0).hasV (index (agentOf g0) 1 248).toNat = false := by decide +kernel
/-- R126's example in small: the register named by s1 + imm. -/
theorem step_indirect : vlane (.vrdi always false (.v 3) 1 0xFFFFFA) g0 3 31 = some 31 ∧ vlane (.vwri always false (.v 2) 1 0) g0 7 31 = some 5 ∧
    (after (.vrdi always false (.v 3) 2 0) g0).map (·.frame.tdetail) = some 0xF8 := by decide +kernel

/-! Slot words. -/

def bound (sl : Nat) (im : Image) (s : State) : State := s.setQuad 0 { s.quad 0 with bind := [(sl, im)], phys := [(sl, im)] }
def fp8 : Image := (factoryRow 3).getD fp32
def mxfp4 : Image := (factoryRow 11).getD fp32
/-- v1 holds 1.0 and v2 holds 2^-24 in every lane. -/
def gFloat : State := gang fun a => (a.setV 1 (laneFn fun _ => 0x3F800000)).setV 2 (laneFn fun _ => 0x33800000)
theorem witness_slot_arithmetic :
    (∃ r, floatRow (.fadd always false 0 3 false (.v 3) (.v 1) (.v 2)) = some r ∧ r.p = always ∧ r.srcs = [.v 1, .v 2] ∧ r.d = .v 3 ∧
      r.slots = [(0, .none, false)]) ∧ VecReady always [1, 2] [3] [3, 1, 2] gFloat (agentOf gFloat) ∧
    (gFloat.slotLoading 0 0 0 = false ∧ gFloat.slotStale 0 0 0 = false) ∧ gFloat.image 0 0 0 = some fp32 ∧ slotDetail .none false (some fp32) = 0 :=
  ⟨⟨_, rfl, rfl, rfl, rfl, rfl⟩, by decide +kernel⟩
/-- F5 holds MXFP4, F3 FP8 E4M3. -/
def gBlocks : State := let s := bound 3 fp8 gFloat; s.setQuad 0 { s.quad 0 with bind := [(3, fp8), (5, mxfp4)], phys := [(3, fp8), (5, mxfp4)] }
theorem witness_slot_blocks :
    (∃ r, floatRow (.fmxq always false 5 3 0 (.v 4) (.v 1)) = some r ∧ r.slots = [(5, .block, false), (3, .none, false)] ∧ r.all = true) ∧
    VecReady always [1] [4] [4, 1] gBlocks (agentOf gBlocks) ∧ (∀ sl ∈ [3, 5], gBlocks.slotLoading 0 0 sl = false ∧ gBlocks.slotStale 0 0 sl = false) ∧
    [(5 : BitVec 4), 3].map (gBlocks.image 0 0) = [mxfp4, fp8].map some ∧ slotDetail .block false (gBlocks.image 0 0 5) = 0 ∧
    slotDetail .none false (gBlocks.image 0 0 3) = 0 := ⟨⟨_, rfl, rfl, rfl⟩, by decide +kernel⟩
theorem witness_slot_compare : VecReady p1 [1, 2] [] [1, 2] gp (agentOf gp) ∧ (gp.slotLoading 0 0 0 = false ∧ gp.slotStale 0 0 0 = false) ∧
    gp.image 0 0 0 = some fp32 ∧ slotDetail .none false (gp.image 0 0 0) = 0 := by decide +kernel
/-- The second slot of a conversion is unbound. -/
theorem witness_slot_trap :
    (∃ r, floatRow (.fcvt always false 0 4 0 false (.v 3) (.v 1)) = some r ∧ r.slots = [(0, .none, false)] ++ (4, .none, false) :: []) ∧ MayTrap gFloat (agentOf gFloat) ∧
    VecReady always [1] [3] [3, 1] gFloat (agentOf gFloat) ∧ gFloat.slotStale 0 0 4 = false ∧ slotDetail .none false (gFloat.image 0 0 4) ≠ 0 :=
  ⟨⟨_, rfl, rfl⟩, by decide +kernel⟩
theorem witness_rounding : imageOk fp8 = true ∧ fp8.kind = 0 ∧ fp8.sub = true ∧ 0 < 17 ∧ (false = true → fp8.sign = true) ∧
    ((encodeVal fp8 0 false (.num false 17 0)).2 &&& 4#6 = 0#6) ∧ ((encodeVal fp8 0 false (.num false 1000 0)).2 &&& 4#6 ≠ 0#6) := by decide +kernel
/-- 1 + 2^-24 ties to even under RN and rounds up under RP; R162: FP8's 448 is 0x7E; 1000 saturates or is CNAN 0x7F. -/
theorem step_slots :
    vlane (.fadd always false 0 0 false (.v 3) (.v 1) (.v 2)) gFloat 3 0 = some 0x3F800000 ∧
    vlane (.fadd always false 0 3 false (.v 3) (.v 1) (.v 2)) gFloat 3 0 = some 0x3F800001 ∧
    (after (.fadd always false 0 3 false (.v 3) (.v 1) (.v 2)) gFloat).map (·.flags) = some 16 ∧
    (encodeVal fp8 0 false (.num false 448 0)).1 = 0x7E ∧ (encodeVal fp8 0 true (.num false 1000 0)).1 = 0x7E ∧
    (encodeVal fp8 0 false (.num false 1000 0)).1 = 0x7F ∧
    vlane (.fcvt always false 3 0 0 false (.v 3) (.v 1)) gBlocks 3 0 = some 0x38 ∧
    (after (.fcvt always false 0 4 0 false (.v 3) (.v 1)) gFloat).map (fun a => (a.frame.cause, a.frame.tdetail)) = some (5, 1) := by decide +kernel
theorem step_slots_more :
    (after (.fcmp p1 false 0 2 3 (.b 0) (.v 2)) gp).map (·.p 3) = some 0xF ∧ vlane (.fclass always false 0 (.v 3) (.v 1)) gFloat 3 0 ≠ none ∧
    vlane (.fmul always false 0 0 false (.v 3) (.v 1) (.v 2)) gFloat 3 0 = some 0x33800000 ∧
    vlane (.fcvti always false 0 1 .w32 false (.v 3) (.v 1)) gFloat 3 0 = some 1 ∧ vlane (.icvtf always false 0 0 .w8 true false (.v 3) (.b 0)) gFloat 3 0 = some 0 ∧
    vlane (.fsqrt always false 0 0 false (.v 3) (.v 1)) gFloat 3 0 = some 0x3F800000 ∧ vlane (.fscale always false 0 0 false (.v 3) (.v 1) (.b 0)) gFloat 3 0 = some 0x3F800000 := by decide +kernel

/-! Memory. -/

/-- s4:s5 points at device memory, s6:s7 at cluster memory, s8:s9 at the first byte of a host page, p1 holds lanes 0 to 3. -/
def pointed (a : Agent) : Agent := (((filled a).setPair 4 0x1000).setPair 8 0x10000).setP 1 0xF
/-- A leaf for the page of 64 KiB at 0x10000: host memory from 0x100000. -/
def hostLeaf : Nat := 1 + 2 + 0x3C + 2 ^ 10 + 16 * 2 ^ 16
def withHost (s : State) : State := { s with sysm := s.sysm.writeNat 0x5008 8 hostLeaf }
def gm : State := withHost (gang pointed)
def stepTo (i : Instr) (s : State) : State := (nextOf (exec i s)).getD s
theorem witness_load_device : ∃ r, loadRow (.ld p1 false (.v 3) (.v 1) 4 0 7 none false) = some r ∧ gm.agent? gm.cur = some (agentOf gm) ∧
    r.Ready gm (agentOf gm) ∧ r.NoFault gm (agentOf gm) ∧ r.Ordered gm (agentOf gm) ∧ r.Room gm (agentOf gm) ∧
    ∀ l ∈ (r.access (agentOf gm)).lanes, gm.l1Value gm.cur (r.agent (agentOf gm)) (r.access (agentOf gm)) l = none :=
  ⟨_, rfl, by decide +kernel, by decide +kernel, by decide +kernel, by decide +kernel, by decide +kernel, by decide +kernel⟩
/-- The line at 0x1000 stands in the L1. -/
def gl1 : State := gm.setQuad 0 { Quad.reset with l1 := [{ sid := 0, line := 32, data := (List.range 128).map byte }] }
theorem witness_load_l1 : ∃ r, loadRow (.ldc p1 false (.v 3) 4 0 none false) = some r ∧ gl1.agent? gl1.cur = some (agentOf gl1) ∧
    r.Ready gl1 (agentOf gl1) ∧ r.NoFault gl1 (agentOf gl1) ∧ r.Ordered gl1 (agentOf gl1) ∧ r.Room gl1 (agentOf gl1) ∧
    ∀ l ∈ (r.access (agentOf gl1)).lanes, (gl1.l1Value gl1.cur (r.agent (agentOf gl1)) (r.access (agentOf gl1)) l).isSome = true :=
  ⟨_, rfl, by decide +kernel, by decide +kernel, by decide +kernel, by decide +kernel, by decide +kernel, by decide +kernel⟩
theorem witness_load_uniform : ∃ r, loadRow (.sld always false 10 0 4 0 31 none true) = some r ∧ r.Ready gm (agentOf gm) ∧
    (agentOf gm).pair 4 = 0x1000 := ⟨_, rfl, by decide +kernel, by decide +kernel⟩
theorem witness_store : ∃ r, writeRow (.st p1 false (.v 2) (.v 1) 4 0 7 (some 4) false) = some r ∧ gm.agent? gm.cur = some (agentOf gm) ∧
    r.Ready gm (agentOf gm) ∧ r.NoFault gm (agentOf gm) ∧ r.Ordered gm (agentOf gm) ∧ r.Room gm (agentOf gm) :=
  ⟨_, rfl, by decide +kernel, by decide +kernel, by decide +kernel, by decide +kernel, by decide +kernel⟩
theorem witness_atomic_cluster : ∃ r, writeRow (.atom p1 false 0 .a32 3 (.v 1) 6 0 ⟨true, true, 2⟩ true) = some r ∧ r.cm = true ∧
    gm.agent? gm.cur = some (agentOf gm) ∧ r.Ready gm (agentOf gm) ∧ r.NoFault gm (agentOf gm) ∧ r.Ordered gm (agentOf gm) ∧ r.Room gm (agentOf gm) :=
  ⟨_, rfl, rfl, by decide +kernel, by decide +kernel, by decide +kernel, by decide +kernel, by decide +kernel⟩
theorem witness_store_uniform : ∃ r, writeRow (.sst always false 1 0 6 0 31 none true) = some r ∧ r.Ready gm (agentOf gm) ∧ r.NoFault gm (agentOf gm) ∧
    r.Ordered gm (agentOf gm) ∧ r.Room gm (agentOf gm) := ⟨_, rfl, by decide +kernel, by decide +kernel, by decide +kernel, by decide +kernel⟩
/-- A base of 0x1002 is misaligned in every lane; a cluster element beyond the allocation, and a global one below 0, leave their space. -/
def gBad : State := gang fun a => (pointed a).setPair 4 0x1002
theorem witness_misaligned : (∃ r, loadRow (.ld p1 false (.v 3) (.v 1) 4 0 7 none false) = some r ∧ r.Ready gBad (agentOf gBad)) ∧ MayTrap gBad (agentOf gBad) ∧
    (0xF : Mask).getLsbD 0 = true ∧ ∀ n, n < 32 → ((0xF : Mask).getLsbD n = true ↔ n ∈ Spec.lanes ((agentOf gBad).active p1) ∧ ((agentOf gBad).pair 4).toNat % 4 ≠ 0) :=
  ⟨⟨_, rfl, by decide +kernel⟩, by decide +kernel, by decide +kernel, by decide +kernel⟩
theorem witness_beyond_cluster : (∃ r, writeRow (.st p1 false (.v 2) (.v 1) 6 0 31 none true) = some r ∧ r.Ready gm (agentOf gm)) ∧
    ¬ elementOk gm (agentOf gm) true 0 32 (32 * 4096) ∧ elementOk gm (agentOf gm) true 0 32 0 := ⟨⟨_, rfl, by decide +kernel⟩, by decide +kernel, by decide +kernel⟩
theorem witness_below_space : MayTrap gm (agentOf gm) ∧ ¬ elementOk gm (agentOf gm) false 0 8 (-8) ∧ ((agentOf gm).pair 6).toNat % 4 = 0 := by decide +kernel
theorem step_access_traps :
    (after (.ld p1 false (.v 3) (.v 1) 4 0 7 none false) gBad).map (fun a => (a.frame.cause, a.frame.tdetail, a.frame.fmask, a.s 496)) = some (9, 1, 0xF, 0x1002) ∧
    (after (.ld always false (.v 3) (.b 2) 6 0 7 none false) gm).map (fun a => (a.frame.cause, a.frame.tdetail, a.s 497)) = some (9, 2, 0xFFFFFFFF) ∧
    (after (.st p1 false (.v 2) (.v 1) 8 0 31 none true) gm).map (fun a => (a.frame.cause, a.frame.tdetail)) = some (9, 3) := by decide +kernel

/-! Lanes of accesses in flight. -/

def gst : State := stepTo (.st p1 false (.v 2) (.v 1) 4 0 7 none false) gm
def gcm : State := stepTo (.atom p1 false 0 .a32 3 (.v 1) 6 0 ⟨false, false, 0⟩ true) gm
def ghost : State := stepTo (.st p1 false (.v 2) (.v 1) 8 0 7 none false) gm
def gld (v : Dword) : State := stepTo (.ld p1 false (.v 3) (.v 1) 4 0 7 none false) (withHost (gang fun a => (pointed a).setPair 4 v))
def acc (s : State) : Access := ((agentOf s).accs.head?).getD (newAccess Agent.start .load 0 0 0 0 none [] none none)
def laneAcc (s : State) (i : Nat) : LaneAcc := ((acc s).lanes.find? fun l => l.lane == i).getD ⟨0, 0, 0, 0, 0, []⟩
theorem witness_cluster_lane : gcm.agent? 0 = some (agentOf gcm) ∧ LaneNext gcm (agentOf gcm) (acc gcm) (laneAcc gcm 2) ∧ (acc gcm).space = 1 ∧
    (∃ t ∈ gcm.clusterTeam (agentOf gcm) (acc gcm).base.toNat, let rel := (laneAcc gcm 2).bit - 8 * Int.ofNat (acc gcm).base.toNat + 8 * Int.ofNat ((acc gcm).base.toNat % 2 ^ 22)
      0 ≤ rel ∧ rel + Int.ofNat (acc gcm).width ≤ 8 * Int.ofNat t.csize) := by decide +kernel
/-- The same access once its team's allocation has shrunk below it. -/
def gcm0 : State := gcm.modTeam 1 fun t => { t with csize := 4 }
theorem witness_cluster_lane_outside : LaneNext gcm0 (agentOf gcm0) (acc gcm0) (laneAcc gcm0 2) ∧ (acc gcm0).space = 1 ∧
    (∃ t ∈ gcm0.clusterTeam (agentOf gcm0) (acc gcm0).base.toNat, 8 * Int.ofNat t.csize < (laneAcc gcm0 2).bit + Int.ofNat (acc gcm0).width) := by decide +kernel
/-- An element of 24 bits across a 32-bit word of memory: byte by byte (R277). -/
def gspan : State := stepTo (.st p1 false (.v 2) (.v 1) 6 0 23 none true) gm
theorem witness_cluster_byte : gspan.agent? 0 = some (agentOf gspan) ∧ LaneNext gspan (agentOf gspan) (acc gspan) (laneAcc gspan 1) ∧ (acc gspan).space = 1 ∧
    (acc gspan).kind = .store ∧ (laneAcc gspan 1).bit / 32 ≠ ((laneAcc gspan 1).bit + Int.ofNat (acc gspan).width - 1) / 32 ∧ (laneAcc gspan 1).bit = 24 ∧
    (acc gspan).width = 24 ∧ (acc gspan).base.toNat = 0 ∧ (∃ t ∈ gspan.clusterTeam (agentOf gspan) 0, 48 ≤ 8 * t.csize) := by decide +kernel
theorem step_cluster_byte : ((nextOf (exec (.cgAccess 0 0 ⟨1, some 0⟩) gspan)).map fun t => (t.cmem.readNat (cmemKey 0 0) 6, (laneAcc t 1).got)) =
    some (5 * 2 ^ 24, [(0, 0)]) := by decide +kernel
/-- A lane whose translation gives the place of a device chunk that holds a frame, or does not, or a host byte. -/
def deviceLane (s : State) (x : Access) (l : LaneAcc) (framed : Bool) : Bool :=
  match s.translate 0 0 (l.bit / 8).toNat x.need with
  | .ok (.device c sid va e, s1) => (match tabGet (s1.cg c).chunks (chunkKey sid va) with
    | some ch => framed && ch.gran == pteGran e && (s1.cg c).errors == [] && (s1.cg c).poison == []
    | none => !framed)
  | _ => false
def hostLane (s : State) (x : Access) (l : LaneAcc) : Bool :=
  match s.translate 0 0 (l.bit / 8).toNat x.need with
  | .ok (.host _ _, _) => true
  | _ => false
/-- The row of an address is not throttled and nothing waits for it. -/
def rowFree (s : State) (ctx va : Nat) : Bool := match s.rowAt ctx va with | some (c, row, th) => !th && s.sideQueue c row == [] | none => true
theorem witness_device_lane : gst.agent? 0 = some (agentOf gst) ∧ LaneNext gst (agentOf gst) (acc gst) (laneAcc gst 3) ∧ (acc gst).space = 0 ∧
    0 ≤ (laneAcc gst 3).bit ∧ (acc gst).width ≤ 128 ∧ 0 < (acc gst).width ∧
    ((laneAcc gst 3).bit / 8).toNat / 4096 = (((laneAcc gst 3).bit + Int.ofNat (acc gst).width - 1) / 8).toNat / 4096 ∧
    inLeafWindow ((laneAcc gst 3).bit / 8).toNat = false ∧ deviceLane gst (acc gst) (laneAcc gst 3) true = true ∧
    rowFree gst 0 ((laneAcc gst 3).bit / 8).toNat = true := by decide +kernel
def gfree : State := gld 0x4000
theorem witness_chunk_without_frame : gfree.agent? 0 = some (agentOf gfree) ∧ LaneNext gfree (agentOf gfree) (acc gfree) (laneAcc gfree 3) ∧ (acc gfree).space = 0 ∧
    (acc gfree).kind = .load ∧ 0 ≤ (laneAcc gfree 3).bit ∧ inLeafWindow ((laneAcc gfree 3).bit / 8).toNat = false ∧
    ((laneAcc gfree 3).bit / 8).toNat / 4096 = (((laneAcc gfree 3).bit + Int.ofNat (acc gfree).width - 1) / 8).toNat / 4096 ∧
    deviceLane gfree (acc gfree) (laneAcc gfree 3) false = true := by decide +kernel
theorem witness_host_lane : ghost.agent? 0 = some (agentOf ghost) ∧ LaneNext ghost (agentOf ghost) (acc ghost) (laneAcc ghost 3) ∧ (acc ghost).space = 0 ∧
    0 ≤ (laneAcc ghost 3).bit ∧ (acc ghost).width ≤ 128 ∧ 0 < (acc ghost).width ∧ inLeafWindow ((laneAcc ghost 3).bit / 8).toNat = false ∧
    hostLane ghost (acc ghost) (laneAcc ghost 3) = true := by decide +kernel
/-- An atomic the hub does not offer: a minimum. -/
def ghmin : State := stepTo (.atomn p1 false 1 .a32 (.v 2) (.v 1) 8 0 none false) gm
theorem witness_host_lane_refused : LaneNext ghmin (agentOf ghmin) (acc ghmin) (laneAcc ghmin 0) ∧ hostLane ghmin (acc ghmin) (laneAcc ghmin 0) = true ∧
    (acc ghmin).kind = .atom 1 32 false := by decide +kernel
/-- No page stands at 0x40000: code 2. -/
def gpage : State := gld 0x40000
theorem witness_lane_faults : gpage.agent? 0 = some (agentOf gpage) ∧ ((agentOf gpage).accs.find? fun y => y.id == (acc gpage).id) = some (acc gpage) ∧
    ((acc gpage).lanes.find? fun m => m.lane == (laneAcc gpage 0).lane) = some (laneAcc gpage 0) ∧ (acc gpage).todo.getLsbD 0 = true ∧
    gpage.laneBlocked (agentOf gpage) (acc gpage) (laneAcc gpage 0) = false ∧ (acc gpage).space = 0 ∧ 0 ≤ (laneAcc gpage 0).bit ∧ 0 < (acc gpage).width ∧
    inLeafWindow 0x40000 = false ∧ (laneAcc gpage 0).got = [] ∧ rowFree gpage 0 0x40000 = true ∧ gpage.heldBy (agentOf gpage) (acc gpage) (laneAcc gpage 0) = none ∧
    (match gpage.translate 0 0 0x40000 (acc gpage).need with | .error 2 => true | _ => false) = true := by decide +kernel
/-- A store's bytes reach memory when its lane is performed; an atomic returns the old value; a lane with no page faults. -/
theorem step_lanes :
    ((nextOf (exec (.cgAccess 0 0 ⟨3, none⟩) gst)).map fun t => (gst.dmem.read (devKey 0 0x1003), t.dmem.read (devKey 0 0x1003))) = some (0, 5) ∧
    ((nextOf (exec (.cgAccess 0 0 ⟨2, none⟩) gcm)).map fun t => t.cmem.readNat (cmemKey 0 8) 4) = some 0 ∧
    ((nextOf (exec (.hubAccess 0 0 ⟨3, none⟩) ghost)).map fun t => t.hmem.read 0x100003) = some 5 ∧
    ((nextOf (exec (.cgAccess 0 0 ⟨0, none⟩) gpage)).map fun t => (acc t).codes) = some [(0, 2)] := by decide +kernel
/-- Every lane of an access performed. -/
def performed (s : State) : State := [0, 1, 2, 3].foldl (fun s i => stepTo (.hubAccess 0 0 ⟨i, none⟩) (stepTo (.cgAccess 0 0 ⟨i, none⟩) s)) s
def gret : State := performed (gld 0x1000)
def gpark : State := performed gpage
theorem witness_load_returns : gret.agent? 0 = some (agentOf gret) ∧ ((agentOf gret).accs.find? fun y => y.id == (acc gret).id) = some (acc gret) ∧
    (acc gret).dst.isSome = true ∧ (acc gret).space ≠ 2 ∧ (acc gret).pend ≠ 0 ∧ (acc gret).todo = 0 ∧ ((acc gret).lanes.map (·.lane)).Nodup ∧ (∀ l ∈ (acc gret).lanes, l.lane < 32) ∧
    (acc gret).faulted = 0 ∧ (acc gpark).faulted ≠ 0 ∧ (acc gpark).todo = 0 ∧ (acc gpark).pend ≠ 0 := by decide +kernel
def gack : State := performed gst
def gheld : State := performed (stepTo (.st p1 false (.v 2) (.v 1) 4 0 7 none false) (gang fun a => (pointed a).setPair 4 0x40000))
theorem witness_store_acked : gack.agent? 0 = some (agentOf gack) ∧ ((agentOf gack).accs.find? fun y => y.id == (acc gack).id) = some (acc gack) ∧
    (acc gack).dst = none ∧ (acc gack).pend ≠ 0 ∧ (acc gack).todo = 0 ∧ 0 < orphanBase ∧ (acc gack).faulted = 0 ∧ (acc gheld).faulted ≠ 0 ∧
    (acc gheld).todo = 0 ∧ (acc gheld).pend ≠ 0 ∧ (agentOf gheld).ended = false := by decide +kernel
/-- The parked load's gang between runs. -/
def gdue : State := (stepTo (.loadValueReturn 0 0) gpark).modAgent 0 fun a => { a with run := none }
theorem witness_parked_trap : let a := agentOf gdue; let c := Agent.dropGone 0 { a with which := a.nextWhich }
    gdue.agent? 0 = some a ∧ isSeq 0 = false ∧ a.sv = false ∧ gdue.hvec a ≠ 0 ∧ a.run = none ∧ a.runsNow = true ∧
    c.accs.filter (fun y => y.parked) = acc gdue :: [] := by decide +kernel
theorem step_completions :
    (after (.loadValueReturn 0 0) gret).map (fun a => (a.accs.length, lane (a.v 3) 0)) = some (0, 0) ∧
    (after (.storeAck 0 0) gack).map (·.accs.length) = some 0 ∧ (after (.storeAck 0 0) gheld).map (·.heldCount) = some 1 ∧
    (after (.parkedLoadTrap 0) gdue).map (fun a => (a.frame.cause, a.frame.tdetail)) = some (9, 0x102) := by decide +kernel

/-! The lane store, hints, leases. -/

theorem witness_lane_store : let a := agentOf gm
    (∃ t ∈ gm.team? a.team, (a.pair 6).toNat % 4 = 0 ∧
      ∀ i ∈ Spec.lanes (a.active p1), 0 ≤ 8 * Int.ofNat (a.pair 6).toNat + 32 * (a.lane (.v 1) i).toInt ∧
        8 * Int.ofNat (a.pair 6).toNat + 32 * (a.lane (.v 1) i).toInt + 32 ≤ 8 * Int.ofNat (256 * t.lsgran)) ∧
    VecReady p1 [1, 518, 519] [3] [3, 1] gm a ∧ VecReady p1 [2, 1, 518, 519] [] [2, 1] gm a := by decide +kernel
theorem witness_lane_store_faults : let a := agentOf gBad
    VecReady p1 [1, 516, 517] [3] [3, 1] gBad a ∧ MayTrap gBad a ∧ (gBad.team? a.team).isSome = true ∧ (a.pair 4).toNat % 4 ≠ 0 ∧ (0xF : Mask) = a.active p1 ∧
    (∃ t ∈ gBad.team? a.team, 8 * Int.ofNat (256 * t.lsgran) < 8 * Int.ofNat ((a.setPair 4 0x1000).pair 4).toNat + 8) := by decide +kernel
theorem step_lane_store :
    ((nextOf (exec (.stl p1 false (.v 2) (.v 1) 6 31) gm)).map fun t => t.lmem.readNat (lmemKey 0 0 + 2 * 256 + 8) 4) = some 5 ∧
    (after (.ldl p1 false (.v 3) (.v 1) 6 31) (stepTo (.stl p1 false (.v 2) (.v 1) 6 31) gm)).map (fun a => lane (a.v 3) 3) = some 5 ∧
    (after (.ldl p1 false (.v 3) (.v 1) 4 31) gBad).map (·.frame.tdetail) = some 1 := by decide +kernel
theorem witness_hints : VecReady p1 [1, 516, 517] [] [1] gm (agentOf gm) ∧
    (after (.pref p1 false (.v 1) 4 0 31) gm).map (·.retired) = some 1 := by decide +kernel
/-- A lease of page 0 at CG 0 and at the hub, and a throttled row. -/
def gLease : State := let l : Lease := { sid := 0, page := 0, size := 65536, pte := 0x5000, entry := 0x3F, num := 1, dirty := false }
  let s := g0.setCg 0 { g0.cg 0 with leases := [l], throttled := [(0, 1, 2)] }
  { s with hub := { s.hub with leases := [l] } }
theorem witness_leases : 0 < 128 ∧ (gLease.cg 0).leases.any (fun l => l.sid == 0 && l.page == 0) = true ∧
    gLease.hub.leases.any (fun l => l.sid == 0 && l.page == 0) = true ∧ (gLease.cg 0).throttled.contains (0, 1, 2) = true := by decide +kernel
theorem step_leases : ((nextOf (exec (.leaseExpiry 0 0 0) gLease)).map fun t => (t.cg 0).leases) = some [] ∧
    ((nextOf (exec (.throttleWindowEnd 0 0 1 2) gLease)).map fun t => (t.cg 0).throttled) = some [] := by decide +kernel

/-! Fences, the team barrier, the rendezvous, barrier objects. -/

/-- s10 addresses a barrier object at byte 64 of the allocation (one arrival expected, phase 3), s11 is 1, s12 3, s13 4. -/
def barred (a : Agent) : Agent := ((((pointed a).setS 10 64).setS 11 1).setS 12 3).setS 13 4
def gb : State := let s := gang barred; { s with cmem := s.cmem.writeNat 64 8 (1 + 3 * 2 ^ 48) }
theorem witness_fences : UniReady .all false [] always [] gb (agentOf gb) ∧ NotAcquiring (agentOf gb) ∧ Released gb (agentOf gb) ∧
    (∃ c ∈ gb.ctx? 0, c.sid = 0) ∧ UniReady .all false [] always [] gst (agentOf gst) ∧ (∃ x ∈ (agentOf gst).accs, x.dst = none ∧ x.pend ≠ 0) ∧
    (∀ x ∈ (agentOf gb).accs, x.dst = none → x.pend = 0 ∧ (x.faulted = 0 ∨ (agentOf gb).sv = true)) := by decide +kernel
/-- A gang with one held store record. -/
def grec : State := stepTo (.storeAck 0 0) gheld
theorem witness_held_store : MayTrap grec (agentOf grec) ∧ UniReady .all false [] always [] grec (agentOf grec) ∧ (∀ y ∈ (agentOf grec).accs, y.pend = 0 ∧ (agentOf grec).sees y = false) ∧
    (∀ c ∈ (grec.quad (quadOf grec.cur)).queue, c.agent ≠ grec.cur) ∧
    (agentOf grec).accs.filter (fun y => y.dst.isNone && y.faulted != 0) = acc grec :: [] := by decide +kernel
theorem step_fences :
    (nextOf (exec (.fence always true false 2) gl1)).map (fun t => (t.quad 0).l1.length) = some 0 ∧
    (nextOf (exec (.fence always true false 0) gl1)).map (fun t => (t.quad 0).l1.length) = some 1 ∧
    (after (.wstc always) gst).map (·.retired) = some 1 ∧ (after (.wstc always) gb).map (·.retired) = some 1 ∧
    (after (.wstc always) grec).map (fun a => (a.frame.cause, a.frame.tdetail, a.s 496)) = some (9, 0x10202, 0x40000) := by decide +kernel
def teamTo (f : Team → Team) (s : State) : State := s.modTeam 1 f
def gTbar2 : State := teamTo (fun t => { t with live := 2 }) gb
def gTbarWait (gen : Nat) : State := teamTo (fun t => { t with live := 2, tbarGen := gen }) (gang fun a => { barred a with block := .tbar 0 })
theorem witness_tbar : UniReady .gang false [] always [] gb (agentOf gb) ∧ (∃ t ∈ gb.team? 1, t.live ≤ t.tbarArr + 1) ∧ (agentOf gb).block = .none ∧
    NotAcquiring (agentOf gb) ∧ Released gb (agentOf gb) ∧ UniReady .gang false [] always [] gTbar2 (agentOf gTbar2) ∧
    (∃ t ∈ gTbar2.team? 1, t.tbarArr + 1 < t.live) ∧ Released gTbar2 (agentOf gTbar2) := by decide +kernel
theorem witness_tbar_waiting : (∃ t ∈ (gTbarWait 1).team? 1, 0 < t.tbarGen) ∧ (∃ t ∈ (gTbarWait 0).team? 1, t.tbarGen ≤ 0) ∧
    UniReady .gang false [] always [] (gTbarWait 1) (agentOf (gTbarWait 1)) ∧ UniReady .gang false [] always [] (gTbarWait 0) (agentOf (gTbarWait 0)) := by decide +kernel
theorem step_tbar :
    ((nextOf (exec (.tbar always 2) gTbar2)).bind fun t => t.team? 1).map (fun t => (t.tbarArr, t.tbarGen)) = some (1, 0) ∧
    ((nextOf (exec (.tbar always 2) gb)).bind fun t => t.team? 1).map (fun t => (t.tbarArr, t.tbarGen)) = some (0, 1) ∧
    (after (.tbar always 2) (gTbarWait 1)).map (·.retired) = some 1 ∧ (after (.tbar always 2) (gTbarWait 0)).map (·.retired) = some 0 := by decide +kernel
/-- Where the MSEQ's count is one, and both sequencers run. -/
def gRdv (cM : Nat) : State := teamTo (fun t => { t with mRun := true, cM := cM }) gb
theorem witness_rdv : UniReady .all false [] always [] m0 (agentOf m0) ∧ (∃ t ∈ m0.team? 1, t.engines = true) ∧ isMseq m0.cur = true ∧
    NotAcquiring (agentOf m0) ∧ Released m0 (agentOf m0) ∧ UniReady .all false [] always [] d0 (agentOf d0) ∧ (∃ t ∈ d0.team? 1, t.engines = true) ∧
    isDseq d0.cur = true ∧ (agentOf d0).cmds = [] ∧ Released d0 (agentOf d0) := by decide +kernel
theorem witness_rdv_gang : UniReady .all false [] always [] (gRdv 1) (agentOf (gRdv 1)) ∧
    (∃ t ∈ (gRdv 1).team? 1, t.engines = true ∧ t.mRun = true ∧ (agentOf (gRdv 1)).cG + 1 ≤ t.cM ∧ t.dRun = false) ∧
    (∃ t ∈ (gRdv 0).team? 1, t.engines = true ∧ t.mRun = true ∧ t.cM < (agentOf (gRdv 0)).cG + 1) ∧ isSeq (gRdv 0).cur = false := by decide +kernel
theorem step_rdv :
    (after (.rdv always 2) (gRdv 1)).map (fun a => (a.cG, a.retired, a.block)) = some (1, 1, .none) ∧
    (after (.rdv always 2) (gRdv 0)).map (fun a => (a.cG, a.retired, a.block)) = some (1, 0, .rdv) ∧
    ((nextOf (exec (.rdv always 2) m0)).bind fun t => t.team? 1).map (fun t => (t.cM, t.cD)) = some (1, 0) ∧
    ((nextOf (exec (.rdv always 2) d0)).bind fun t => t.team? 1).map (fun t => (t.cM, t.cD)) = some (0, 1) := by decide +kernel
theorem witness_cluster_addresses : 0x400000 / 2 ^ 22 % 2 ^ 9 ≠ 0 ∧ (0x40 : Nat) / 2 ^ 22 % 2 ^ 9 = 0 ∧ (0x40 : Nat).testBit 31 = false ∧
    (0x80000040 : Nat).testBit 31 = true ∧ (∃ t ∈ gb.clusterTeam (agentOf gb) 0x80000040, t.index = 0) := by decide +kernel
theorem witness_barrier_words : UniReady .all false [14] always [10, 11, 0] gb (agentOf gb) ∧ BarrierAt gb (agentOf gb) 64 64 ∧
    ((agentOf gb).s 10).toNat = 64 ∧ ((agentOf gb).s 11).toNat = 1 ∧ NotAcquiring (agentOf gb) ∧ Released gb (agentOf gb) ∧
    UniReady .all false [] always [10, 11] gb (agentOf gb) ∧ ((agentOf gb).accs.filter fun x => x.dst.isNone).length < 64 ∧
    phaseAt gb 64 = ((agentOf gb).s 12).toNat % 32768 ∧ phaseAt gb 64 ≠ ((agentOf gb).s 13).toNat % 32768 ∧
    UniReady .all false [] always [10, 12] gb (agentOf gb) ∧ UniReady .all false [14] always [10, 13] gb (agentOf gb) := by decide +kernel
/-- A gang blocked at a BOWAIT on phase 4. -/
def bowaitWord : Dword := 0xD0E08140D0000040
def gwait : State := gb.modAgent 0 fun a => { a with
  block := .bowait
  run := some { header := 0x1000, words := [bowaitWord, emptyTrailer], idx := 0, flow := .fall, noreuse := false, stalled := false, fallback := false } }
theorem witness_bowait_wake : BarrierAt gwait (agentOf gwait) 64 64 ∧ phaseAt gwait 64 ≠ ((agentOf gwait).s 13).toNat % 32768 ∧
    UniReady .all false [] always [10, 13] gwait (agentOf gwait) ∧ (agentOf gwait).block = .bowait ∧
    (∃ rb ∈ (agentOf gwait).run, rb.words[rb.idx]? = some bowaitWord) ∧ (decodeWord true bowaitWord).toOption = some (.bowait always 10 13 2) := by decide +kernel
theorem step_bowait_wake : (after (.bowaitWake 0) gwait).map (fun a => (a.block, a.retired)) = some (.none, 1) := by decide +kernel
theorem step_barriers :
    ((nextOf (exec (.boarr always 10 11 0 14 2) gb)).map fun t => (((t.agent? 0).map (·.s 14)), t.cmem.readNat 64 8)) = some (some 3, 1 + 4 * 2 ^ 48) ∧
    (after (.boinit always 10 11) gb).map (·.accs.length) = some 1 ∧
    (after (.bowait always 10 12 2) gb).map (fun a => (a.block, a.retired)) = some (.bowait, 0) ∧
    (after (.bowait always 10 13 2) gb).map (fun a => (a.block, a.retired)) = some (.none, 1) ∧
    (after (.botest always 10 12 14 2) gb).map (·.s 14) = some 0 ∧ (after (.botest always 10 13 14 2) gb).map (·.s 14) = some 1 := by decide +kernel
def gbFar : State := gang fun a => (barred a).setS 10 8192
def gbOdd : State := gang fun a => ((barred a).setS 10 68).setS 11 0
theorem witness_barrier_faults : MayTrap gbOdd (agentOf gbOdd) ∧ UniReady .all false [] always [10, 12] gbOdd (agentOf gbOdd) ∧
    ((agentOf gbOdd).s 10).toNat % 8 ≠ 0 ∧ MayTrap gbFar (agentOf gbFar) ∧ UniReady .all false [14] always [10, 12] gbFar (agentOf gbFar) ∧
    ((agentOf gbFar).s 10).toNat % 8 = 0 ∧ (∃ t ∈ gbFar.clusterTeam (agentOf gbFar) 8192, t.csize < 8192 % 2 ^ 22 + 8) ∧
    gbOdd.lenient gbOdd.cur = false ∧ UniReady .all false [] always [10, 11] gbOdd (agentOf gbOdd) ∧ ((agentOf gbOdd).s 11).toNat = 0 ∧
    UniReady .all false [14] always [10, 11, 0] gbOdd (agentOf gbOdd) ∧ (11 : SReg) ≠ 0 := by decide +kernel
theorem step_barrier_faults :
    (after (.bowait always 10 12 2) gbOdd).map (·.frame.tdetail) = some 1 ∧ (after (.botest always 10 12 14 2) gbFar).map (·.frame.tdetail) = some 3 ∧
    (after (.boinit always 10 11) gbOdd).map (fun a => (a.frame.cause, a.frame.tdetail)) = some (1, 0x14) ∧
    (after (.boarr always 10 11 0 14 2) gbOdd).map (fun a => (a.frame.cause, a.frame.tdetail)) = some (1, 0x14) := by decide +kernel

/-! Engine commands. -/

/-- A copy of two 32-bit elements from bytes 0 and 4 of the allocation to bytes 256 and 264 (R307). -/
def copyDesc : List Byte :=
  [0, 0, 0, 0, 0, 0, 0, 0, 0, 1, 0, 0, 0, 0, 0, 0, 0xF5, 3, 0, 0, 2, 0, 0, 0, 1, 0, 0, 0, 2, 0, 0, 0] ++ List.replicate 96 0
/-- s14 addresses the descriptor at byte 128, s15 holds a length of 16 bytes, s16:s17 a virtual address no page maps. -/
def engineRegs (a : Agent) : Agent := (((barred a).setS 14 128).setS 15 16).setPair 16 0x40000
def gx : State := let s := gang engineRegs; { s with cmem := (s.cmem.writeBytes 128 copyDesc).writeNat 4 4 0x11223344 }
def gxs : State := gang fun a => sup (((engineRegs a).setS 15 1).setS 18 1)
theorem witness_copy_issue : (gx.clusterDesc (agentOf gx) ((agentOf gx).s 14).toNat 128).toOption = some copyDesc ∧
    ((agentOf gx).clusterBusy = false ∧ copyBad copyDesc = false ∧ gx.sideFault (agentOf gx) copyDesc false = 0 ∧ gx.sideFault (agentOf gx) copyDesc true = 0) ∧
    BarrierAt gx (agentOf gx) ((agentOf gx).s 10).toNat 64 ∧ UniReady .gangDseq false [] always [14, 10] gx (agentOf gx) ∧ NotAcquiring (agentOf gx) ∧
    gx.engineLoad (quadOf gx.cur) < 64 := by decide +kernel
theorem witness_fill_issue : (∃ r, engineRow gx (agentOf gx) (.xfill always 4 15 1 ⟨false, false, 0⟩ none) = some r ∧ r.2.2.2.2.2.2) ∧
    UniReady .gangDseq false [] always [4, 5, 15, 1] gx (agentOf gx) ∧
    (∃ r, engineRow gx (agentOf gx) (.xclone always 4 8 15 ⟨false, false, 0⟩ none) = some r ∧ r.2.2.2.2.2.2) :=
  ⟨⟨_, rfl, by decide +kernel, by decide +kernel, trivial⟩, by decide +kernel, _, rfl, by decide +kernel, by decide +kernel, by decide +kernel, trivial⟩
theorem witness_purge_issue : (∃ r, engineRow gxs (agentOf gxs) (.xpurge always 4 15 18 2) = some r ∧ r.2.2.2.2.2.2) ∧
    UniReady .gangDseq true [] always [4, 5, 15, 18] gxs (agentOf gxs) ∧ UniReady .gangDseq true [3] always [] gxs (agentOf gxs) ∧
    (agentOf gxs).cmds = [] :=
  ⟨⟨_, rfl, by decide +kernel⟩, by decide +kernel, by decide +kernel, by decide +kernel⟩
def gcopy : State := stepTo (.xcopy always 14 0 ⟨false, false, 0⟩ .none) gx
def gfill : State := stepTo (.xfill always 4 15 1 ⟨false, false, 0⟩ none) gx
def gfar : State := stepTo (.xfill always 16 15 1 ⟨false, false, 0⟩ none) gx
def glease : State := stepTo (.xlease always 3) gxs
def cmd (s : State) : Cmd := ((agentOf s).cmds.head?).getD (command Agent.start (.lease 0 0) false false 0 .none none)
theorem step_engine_issue : (agentOf gcopy).cmds.length = 1 ∧ (agentOf gfill).open_ = [0] ∧ (agentOf glease).pending = [(sCode 3, (agentOf gxs).runs)] ∧
    (after (.xclone always 4 8 15 ⟨false, false, 0⟩ none) gx).map (·.cmds.length) = some 1 ∧
    (after (.xpurge always 4 15 18 2) gxs).map (·.cmds.length) = some 1 ∧
    (after (.xpurge always 4 15 18 2) gx).map (·.frame.tdetail) = some 0x16 := by decide +kernel
/-- The batch of the fill closed; and held with its fault. -/
def gclosed : State := stepTo (.xclose always 19) gfill
def gheldCmd : State := (stepTo (.xclose always 19) gfar).modAgent 0 fun a => { a with cmds := a.cmds.map fun c => { c with fault := some (2, 0x40000) } }
theorem witness_batches : UniReady .gangDseq false [19] always [] gfill (agentOf gfill) ∧ (agentOf gfill).closed.length < 32767 ∧
    UniReady .gangDseq false [] always [19] gclosed (agentOf gclosed) ∧ (∃ b ∈ (agentOf gclosed).closed, coveredBy (agentOf gclosed) 1 b ∧ ∀ c ∈ (agentOf gclosed).cmds, c.fault = none) ∧
    ((agentOf gclosed).s 19).toNat % 65536 = 1 ∧ UniReady .gangDseq false [18] always [19] gclosed (agentOf gclosed) ∧ (agentOf gx).closed = [] ∧ LoadsIn (agentOf gx) := by decide +kernel
theorem witness_batch_fault :
    UniReady .gangDseq false [] always [19] gheldCmd (agentOf gheldCmd) ∧ MayTrap gheldCmd (agentOf gheldCmd) ∧
    (agentOf gheldCmd).closed = [(1, [(cmd gheldCmd).id])] ∧ coveredBy (agentOf gheldCmd) 1 (1, [(cmd gheldCmd).id]) ∧ (agentOf gheldCmd).cmds = [] ++ [cmd gheldCmd] ∧ (cmd gheldCmd).fault = some (2, 0x40000) := by decide +kernel
theorem witness_nothing_covered (n : Nat) (b : Nat × List Nat) : ¬ coveredBy (agentOf gx) n b := by
  rintro ⟨hb, _⟩
  rw [show (agentOf gx).closed = [] by decide +kernel] at hb
  cases hb
theorem step_batches : (agentOf gclosed).s 19 = 1 ∧ (after (.xwait always 19 2) gclosed).map (·.block) = some .xwait ∧
    (after (.xtest always 19 18 2) gclosed).map (·.s 18) = some 0 ∧ (after (.xtest always 19 18 2) gx).map (·.s 18) = some 1 ∧
    (after (.xwait always 19 2) gx).map (·.retired) = some 1 ∧
    (after (.xwait always 19 2) gheldCmd).map (fun a => (a.frame.cause, a.frame.tdetail, a.s 496)) = some (9, 0x10302, 0x40000) := by decide +kernel
def cmdRuns (s : State) : Bool := match s.cmdRun 0 (agentOf s) (cmd s) with | .ok _ _ => true | _ => false
theorem witness_commands_complete : gfill.agent? 0 = some (agentOf gfill) ∧ (agentOf gfill).ended = false ∧ 0 < orphanBase ∧
    ((agentOf gfill).cmds.find? fun x => x.id == (cmd gfill).id) = some (cmd gfill) ∧ (cmd gfill).fault = none ∧
    (∀ x ∈ (agentOf gfill).accs, x.id < (cmd gfill).id → x.todo = 0) ∧ (agentOf gfill).accs = [] ∧ (cmd gfill).kind = .fill 0x1000 16 7 ∧
    (cmd gfill).fin = .none ∧ (cmd gfill).acq = false ∧ (∀ x ∈ (agentOf gfill).cmds, x.fault = none) ∧ cmdRuns gfill = true := by decide +kernel
def fillsDevice (s : State) : Bool :=
  match s.translate 0 0 0x1000 .write with
  | .ok (.device c sid va e, s1) => (match tabGet (s1.cg c).chunks (chunkKey sid va) with | some ch => ch.gran == pteGran e | none => false)
  | _ => false
/-- A part of a copy may be performed alone. -/
theorem witness_command_part : (match gcopy.cmdStep 0 (agentOf gcopy) (cmd gcopy) false 1 2 with | .ok c _ => c.got | _ => []) = [(1, 2, 0x22)] := by decide +kernel
theorem witness_fill : fillsDevice gfill = true ∧ 0x1000 % 4096 + 16 ≤ 4096 ∧ (cmd gfill).got = [] ∧ (cmd gfill).put = [] ∧
    rowFree gfill 0 0x1000 = true := by decide +kernel
theorem witness_copy : gcopy.agent? 0 = some (agentOf gcopy) ∧ (agentOf gcopy).ended = false ∧
    ((agentOf gcopy).cmds.find? fun x => x.id == (cmd gcopy).id) = some (cmd gcopy) ∧ (cmd gcopy).fault = none ∧ (cmd gcopy).kind = .copy copyDesc ∧
    (cmd gcopy).fin = .none ∧ (cmd gcopy).acq = false ∧ (agentOf gcopy).accs = [] ∧ copyBad copyDesc = false ∧ (cmd gcopy).got = [] ∧ (cmd gcopy).put = [] ∧ 36 ≤ 256 ∧
    gcopy.sideFault (agentOf gcopy) copyDesc false = 0 ∧ gcopy.sideFault (agentOf gcopy) copyDesc true = 0 ∧
    sideBegins gcopy (agentOf gcopy) copyDesc false 0 ∧ sideBegins gcopy (agentOf gcopy) copyDesc true 2048 := by decide +kernel
def cmdStops (s : State) : Option (Nat × Nat) := match s.cmdDo 0 (agentOf s) (cmd s) none with | .fault code va _ _ => some (code, va) | _ => none
theorem witness_command_fault : gfar.agent? 0 = some (agentOf gfar) ∧ ((agentOf gfar).cmds.find? fun x => x.id == (cmd gfar).id) = some (cmd gfar) ∧
    (cmd gfar).fault = none ∧ (agentOf gfar).accs = [] ∧ cmdStops gfar = some (2, 0x40000) := by decide +kernel
theorem witness_lease : glease.agent? 0 = some (agentOf glease) ∧ ((agentOf glease).cmds.find? fun x => x.id == (cmd glease).id) = some (cmd glease) ∧
    (cmd glease).fault = none ∧ (cmd glease).kind = .lease 1 3 ∧ (agentOf glease).accs = [] ∧ (∀ l ∈ glease.hub.leases, 0 ≤ l.num) ∧
    (∀ g ∈ glease.cgs, ∀ l ∈ g.2.leases, 0 ≤ l.num) := by decide +kernel
theorem step_engine_completion :
    ((nextOf (exec (.copyComplete 0 ⟨0, none⟩) gcopy)).map fun t => (t.cmem.readNat 256 4, t.cmem.readNat 264 4, t.cmem.readNat 260 4)) = some (0, 0x11223344, 0) ∧
    ((nextOf (exec (.copyComplete 0 ⟨0, none⟩) gfill)).map fun t => t.dmem.readNat (devKey 0 0x1000) 16) = some 0x00000007000000070000000700000007 ∧
    (nextOf (exec (.copyFault 0 ⟨0, none⟩) gfar)).isSome = true ∧
    ((nextOf (exec (.copyComplete 0 ⟨0, none⟩) glease)).map fun t => ((agentOf t).s 3, (agentOf t).cmds.length)) = some (0, 0) := by decide +kernel

/-! Format slots. -/

/-- Partition 0, its format slot 3 to be loaded from the factory reference in s4:s5 (FID 3), s6:s7 an unknown FID, s8:s9 bad bits. -/
def gslot : State :=
  let s := gang fun a => (((filled a).setPair 4 0x8000000000000003).setPair 6 0x800000000000FFFE).setPair 8 0x8000000000010003
  { s with parts := [(0, newPart)] }
def gjob (d : SReg) : State := stepTo (.sload always 3 d 10) gslot
theorem witness_slot_words : UniReady .gangMseq false [10] always [4, 5] gslot (agentOf gslot) ∧ NotAcquiring (agentOf gslot) ∧
    UniReady .gangMseq false [10] always [1] gslot (agentOf gslot) ∧ (∀ j ∈ (gslot.quad 0).jobs, ¬ (j.ctx = 0 ∧ j.slot = 3)) := by decide +kernel
def job (s : State) : LoadJob := ((s.quad 0).jobs.head?).getD ⟨0, 0, 0, 0, 0, 0⟩
theorem witness_factory_images : (∀ d ∈ [(4 : SReg), 6, 8], 0 < (job (gjob d)).dst ∧ (((gjob d).quad 0).jobs.find? fun x => x.ctx == 0 && x.slot == 3) = some (job (gjob d)) ∧
      ((gjob d).part? 0).isSome = true ∧ (gjob d).agentByUid (job (gjob d)).agent = some (0, agentOf (gjob d)) ∧ (agentOf (gjob d)).ended = false ∧
      (agentOf (gjob d)).accs = [] ∧ (job (gjob d)).ref.getLsbD 63 = true ∧ ((gjob d).quad 0).matrixNames 3 = false) ∧
    (factoryRow 3).isSome = true ∧ factoryRow 0xFFFE = none ∧ (job (gjob 4)).ref.toNat % 65536 = 3 ∧ (job (gjob 6)).ref.toNat % 65536 = 0xFFFE ∧
    (job (gjob 4)).ref.toNat / 65536 % 2 ^ 47 = 0 ∧ (job (gjob 8)).ref.toNat / 65536 % 2 ^ 47 ≠ 0 := by decide +kernel
theorem step_slot_words :
    (after (.sdesc always 3 1 10) (bound 3 fp8 (gang fun a => a.setS 1 65))).map (·.s 10) = some 1 ∧
    (after (.sfence always) gslot).map (·.retired) = some 1 := by decide +kernel
/-- The context's image of slot 3 is not in the physical slot. -/
def gStale : State := g0.setQuad 0 { g0.quad 0 with bind := [(3, fp8)], reloading := [3] }
theorem witness_slot_reload : 16 * 0 + 3 ∈ (gStale.quad 0).reloading ∧ (gStale.quad 0).matrixNames 3 = false ∧ tabGet (gStale.quad 0).bind 3 = some fp8 ∧
    ((nextOf (exec (.slotReload 0 0 3) gStale)).map fun t => tabGet (t.quad 0).phys 3) = some (some fp8) := by decide +kernel

/-! The matrix path. -/

/-- s20 and s21 name records of 128 bytes from byte 512 of the allocation, s22 is K 4 and N 2, s23 M 2, s24 tile 0, s25 the MFUSE edge mask. -/
def matrixRegs (a : Agent) : Agent := (((((barred a).setS 20 512).setS 21 512).setS 22 0x103).setS 23 1).setS 24 1
def ownedArray (q : Quad) : Quad := { q with accown := some 0, bind := [(3, fp8)], phys := [(3, fp8)] }
def mm : State := let s := teamTo (fun t => { t with csize := 32768 }) (mseq matrixRegs); s.setQuad 0 (ownedArray (s.quad 0))
/-- The same once a plane of two columns of two weights, 1 and 2, is active. -/
def onePlane : Plane := { Plane.empty with
  loaded := true, k := 2, n := 2, ns := 128, cells := [(0, .num false 1 0), (1, .num false 2 0), (256, .num false 1 0), (257, .num false 2 0)] }
def mp : State := mm.setQuad 0 { ownedArray (mm.quad 0) with plane0 := onePlane, plane1 := onePlane }
theorem witness_matrix_load : (∃ r, queueRow mm (agentOf mm) (.mloadw always 3 20 22 (some ⟨2, 10⟩)) = some r ∧ r.2.2.2.2.2 [fp8]) ∧
    (∃ r, queueRow mm (agentOf mm) (.mstream always 3 true false 20 23 none) = some r ∧ r.2.2.2.2.2 [fp8]) ∧
    (∃ r, queueRow mm (agentOf mm) (.mdrain always 0 0 false false 20 24 none) = some r ∧ r.2.2.2.2.2 []) ∧
    (∃ r, queueRow mm (agentOf mm) (.mswap always none) = some r ∧ r.2.2.2.2.2 []) :=
  ⟨⟨_, rfl, by decide +kernel⟩, ⟨_, rfl, by decide +kernel⟩, ⟨_, rfl, by decide +kernel⟩, _, rfl, by decide +kernel⟩
theorem witness_matrix_queue : UniReady .mseq false [] always ([20, 21, 22] ++ arriveReads (some ⟨2, 10⟩)) mm (agentOf mm) ∧
    slotsSteady mm (agentOf mm) [(3, .any, true)] ∧ slotsHold mm (agentOf mm) [(3, .any, true)] [fp8] ∧ (mm.team? 1).isSome = true ∧
    mm.inFusion 0 = false ∧ (mm.quad 0).queue.length < 8 ∧ NotAcquiring (agentOf mm) ∧ arrayOwned mm (agentOf mm) 0 ∧
    slotsSteady mm (agentOf mm) [] ∧ slotsHold mm (agentOf mm) [] [] ∧ UniReady .mseq false [] always [20, 21, 24] mm (agentOf mm) := by decide +kernel
def qFlip : State := stepTo (.mflip always) mp
def qSwap : State := stepTo (.mswap always none) (mp.setQuad 0 ((mp.quad 0).setBank false 3 5 77))
def qClear : State := stepTo (.mclear always false 24) (mp.setQuad 0 ((mp.quad 0).setBank false 3 5 77))
def qLoad : State := stepTo (.mloadw always 3 20 22 none) { mm with cmem := mm.cmem.writeNat 512 4 0x40383838 }
def qStream : State := stepTo (.mstream always 3 true false 20 23 none) { mp with cmem := mp.cmem.writeNat 512 4 0x40384038 }
def qDrain : State := stepTo (.mdrain always 0 0 false false 20 24 none) (mp.setQuad 0 ((mp.quad 0).setBank true 1 2 0x3F800000))
def head (s : State) : MCmd := ((s.quad 0).queue.head?).getD ⟨0, 0, 0, .nothing, none, [], []⟩
theorem witness_matrix_head : (∀ s ∈ [qFlip, qSwap, qClear, qLoad, qStream, qDrain], HeadReady s 0 (agentOf s) (head s) [] ∧ (s.quad 0).fused = 0 ∧ (head s).arrive = none) ∧
    (head qFlip).kind = .flip ∧ (head qSwap).kind = .swap ∧ (head qClear).kind = .clear false 1 := by decide +kernel
theorem witness_matrix_effects : (head qLoad).kind = .load 3 fp8 128 512 512 4 2 ∧ (qLoad.ownCluster (agentOf qLoad) 512).map (·.2) = some 512 ∧ fp8.blk = 0 ∧
    (head qStream).kind = .stream 3 fp8 true false 512 512 2 0 ∧ (qStream.quad 0).activePlane.loaded = true ∧ (qStream.quad 0).activePlane.n ≤ 128 ∧
    (head qDrain).kind = .drain 0 none 0 false false 512 512 1 ∧ 512 ≤ 512 ∧ (head qDrain).agent < orphanBase := by decide +kernel
/-- A command with nothing left to do, its arrival on the object at byte 64. -/
def qArrive : State := let s := { mm with cmem := mm.cmem.writeNat 64 8 2 }
  s.setQuad 0 { s.quad 0 with queue := [⟨48, 1, 0, .nothing, some (2, 64), [], []⟩] }
theorem witness_matrix_arrival : HeadReady qArrive 0 (agentOf qArrive) (head qArrive) [] ∧ (head qArrive).kind = .nothing ∧
    (head qArrive).arrive = some (2, 64) ∧ BarrierAt qArrive (agentOf qArrive) 64 64 := by decide +kernel
/-- One weight plane element: 1, 1, 1, 2 in the first record. A stream's 1·1 + 2·2 in row 0. -/
theorem step_matrix : ((nextOf (exec (.matrixCmdComplete ⟨0, 0, none⟩) qFlip)).map fun t => ((t.quad 0).active, (t.quad 0).queue)) = some (true, []) ∧
    ((nextOf (exec (.matrixCmdComplete ⟨0, 0, none⟩) qSwap)).map fun t => (t.quad 0).bank true 3 5) = some 77 ∧
    ((nextOf (exec (.matrixCmdComplete ⟨0, 0, none⟩) qClear)).map fun t => (t.quad 0).bank false 3 5) = some 0 ∧
    ((nextOf (exec (.matrixCmdComplete ⟨0, 0, none⟩) qArrive)).map fun t => t.cmem.readNat 64 8) = some (2 + 2 ^ 16) := by decide +kernel
theorem step_matrix_load : ((nextOf (exec (.matrixCmdComplete ⟨0, 0, none⟩) qLoad)).map fun t => ((t.quad 0).shadowPlane.weight 3 0, (t.quad 0).shadowPlane.n)) =
    some (some (decodeCode fp8 0x40), 2) := by decide +kernel
/-- A byte of a record, and one of a drain, ahead of the rest. -/
theorem witness_record_bytes : (qLoad.ownCluster (agentOf qLoad) 512).map (·.2) = some 512 ∧ 0 / 512 < 2 ∧ 3 % 512 < recordSize fp8 128 4 ∧
    (head qDrain).kind = .drain 0 none 0 false false 512 512 1 ∧ (qDrain.ownCluster (agentOf qDrain) 512).map (·.2) = some 512 ∧
    (1 : Word).getLsbD (4 * (1 / 32) + 2 / 32) = true ∧ 523 = 1 * 512 + 4 * 2 + 3 := by decide +kernel
theorem step_record_bytes : ((nextOf (exec (.matrixCmdComplete ⟨0, 0, some 3⟩) qLoad)).map fun t => (head t).got) = some [(3, 0x40)] ∧
    ((nextOf (exec (.matrixCmdComplete ⟨0, 0, some 523⟩) qDrain)).map fun t => ((head t).got, t.cmem.readNat (512 + 520) 4)) = some ([(523, 0x3F)], 0x3F000000) := by decide +kernel
theorem step_matrix_stream : ((nextOf (exec (.matrixCmdComplete ⟨0, 0, none⟩) qStream)).map fun t => (t.quad 0).bank false 0 1) = some 0x40A00000 := by decide +kernel
/-- A gang beside the array, and one on an array of no context. -/
def gv : State := let s := gang fun a => (matrixRegs a).setS 26 0x101
  s.setQuad 0 { (s.quad 0).setBank true 1 33 9 with accown := some 0 }
theorem witness_visible_bank : VecReady always [sCode 26] [3] [3] gv (agentOf gv) ∧ (gv.quad 0).accown = some 0 ∧ (gv.team? 1).isSome = true ∧
    VecClear [sCode 24] [3] [3] gb (agentOf gb) ∧ MayTrap gb (agentOf gb) ∧ (gb.quad 0).accown ≠ some (agentOf gb).ctx := by decide +kernel
def gvis : State := stepTo (.mreadv always false (.v 3) 26) gv
theorem witness_visible_return : gv.inFlight (quadOf gv.cur) + 1 ≤ 128 ∧ ((agentOf gvis).accs.find? fun z => z.id == (acc gvis).id) = some (acc gvis) ∧
    (acc gvis).space = 2 ∧ (acc gvis).dst.isSome = true ∧ (acc gvis).pend ≠ 0 ∧ (acc gvis).todo = 0 ∧ (acc gvis).faulted = 0 ∧
    ((acc gvis).lanes.map (·.lane)).Nodup ∧ ∀ l ∈ (acc gvis).lanes, l.lane < 32 := by decide +kernel
theorem step_visible_bank : vlane (.loadValueReturn 0 0) gvis 3 1 = some 9 ∧
    (after (.mreadv p1 false (.v 3) 24) g0).map (fun a => (a.frame.cause, a.frame.tdetail)) = some (7, 0) := by decide +kernel
theorem witness_mwait : UniReady .mseq false [] always [] mm (agentOf mm) ∧ (mm.quad 0).queue = [] ∧
    UniReady .mseq false [] always [] qFlip (agentOf qFlip) ∧ (∃ c ∈ (qFlip.quad 0).queue, c.agent = qFlip.cur) := by decide +kernel
/-- Partition 0 has quadrants 0 to 3; quadrants 0 and 1 are the context's. -/
def inPart (s : State) : State := { s with parts := [(0, { newPart with quads := [0, 1, 2, 3] })] }
def mfu : State := let s := inPart ((mm.setQuad 1 (ownedArray Quad.reset)).modAgent 48 fun a => a.setS 25 1)
  s
/-- The fusion of quadrants 0 and 1. -/
def mfused : State := stepTo (.mfuse always 25 27) mfu
theorem witness_fusion : mfu.inFusion 0 = false ∧ (mfu.quad 0).queue = [] ∧ (mfu.team? 1).isSome = true ∧ UniReady .mseq false [27] always [25] mfu (agentOf mfu) ∧
    NotAcquiring (agentOf mfu) ∧ ((agentOf mfu).s 25).toNat < 16 ∧ (mfu.quad 0).accown = some 0 ∧ mfu.fuseStatus 0 0 1 = 0 ∧
    (∀ m ∈ fusedMembers 0 1, (mfu.quad m).accown = some 0) ∧ mfu.fuseStatus 0 0 0 ≠ 0 ∧ UniReady .mseq false [27] always [0] mfu (agentOf mfu) := by decide +kernel
theorem witness_split : UniReady .mseq false [] always [] mfu (agentOf mfu) ∧ arrayOwned mfu (agentOf mfu) 0 ∧ (mfu.quad 0).fused = 0 ∧
    mfused.inFusion 0 = false ∧ (mfused.quad 0).queue = [] ∧ (mfused.team? 1).isSome = true ∧ UniReady .mseq false [] always [] mfused (agentOf mfused) ∧
    arrayOwned mfused (agentOf mfused) 0 ∧ (mfused.quad 0).fused = 1 := by decide +kernel
theorem step_fusion : (agentOf mfused).s 27 = 0 ∧ (after (.mfuse always 0 27) mfu).map (·.s 27) = some 3 ∧
    ((nextOf (exec (.msplit always) mfused)).map fun t => (t.quad 0).fused) = some 0 ∧ (after (.mwait always) qFlip).map (·.retired) = some 1 ∧
    (after (.mwait always) mm).map (·.retired) = some 1 := by decide +kernel
def msv : State := inPart (mm.modAgent 48 sup)
theorem witness_accumulators : UniReady .mseq true [27] always [] msv (agentOf msv) ∧ (msv.team? 1).isSome = true ∧ msv.inFusion 0 = false ∧
    msv.targetRefused 0 0 0 = false ∧ (msv.quad 0).accown = some 0 ∧ msv.arrayBusy 0 = false ∧ (msv.quad 1).accown = none ∧ msv.targetRefused 0 1 0 = false ∧
    msv.arrayBusy 1 = false ∧ (mm.modAgent 48 sup).targetRefused 0 0 0 = true := by decide +kernel
theorem step_accumulators : (after (.accspill always 0 27) msv).map (·.s 27) = some 0 ∧ (after (.accspill always 1 27) msv).map (·.s 27) = some 2 ∧
    (after (.accfill always 0 27) msv).map (·.s 27) = some 2 ∧ (after (.accfill always 0 27) (mm.modAgent 48 sup)).map (·.s 27) = some 1 ∧
    ((nextOf (exec (.accspill always 0 27) msv)).map fun t => (t.quad 0).accown) = some none := by decide +kernel

/-! Channels and collectives. -/

/-- Entry 1: a channel to context 7 of peer 5, stream 0, queue 0, with a budget of 1000. Entry 2: a host ring. Entry 3: member 1 of 2 of group 9. -/
def capPeer : Nat := 1 + 2 ^ 4 + 2 ^ 5 + 5 * 2 ^ 32 + 7 * 2 ^ 48 + 1000 * 2 ^ 128
def capHost : Nat := 2 + 2 ^ 4 + 1000 * 2 ^ 128
def capGroup : Nat := 3 + 2 ^ 6 + 9 * 2 ^ 32 + 1 * 2 ^ 64 + 1 * 2 ^ 74 + 1000 * 2 ^ 128
/-- A SUM of I32 words (operation 4) over members 0 and 1: four words from byte 0x1000, to 0x1100, its record at 0x1200, root 0. -/
def collWords : List Nat := [0x1000, 0x1100, 0x1200, 0, 4 + 4 * 2 ^ 32, 2 + 10 * 2 ^ 32, 0, 0]
def collBytes : List Byte := collWords.flatMap (bytesOfNat 8)
/-- s28 and s29 name entries 1 and 2 with the cluster space, s30:s31 byte 512, s32 8 bytes, s34:s35 an unmapped address, s36 entry 1 with the
global space, s38 entry 3, s39 a descriptor at byte 640, s40 handle 6. -/
def chanRegs (a : Agent) : Agent :=
  ((((((((((barred a).setS 28 0x101).setS 29 0x102).setPair 30 512).setS 32 16).setPair 34 0x40000).setS 36 1).setS 38 3).setS 39 640).setS 40 6).setS 33 1
def withCtx (f : Ctx → Ctx) (s : State) : State := match s.ctx? 0 with | some c => s.setCtx 0 (f c) | none => s
def withCaps (s : State) : State := withCtx (fun c => { c with caps := [(1, capPeer), (2, capHost), (3, capGroup)], vf := some 0, serial := 6 }) { s with parts := [(0, { newPart with quads := [0, 1, 2, 3], peers := [(5, 0x55, 77)] })] }
def gc : State := let s := withCaps (gang chanRegs)
  { s with cmem := (s.cmem.writeBytes 640 collBytes).writeNat 512 8 0x0102030405060708, hub := { s.hub with ports := [(0, true)] } }
def gcSup : State := gc.modAgent 0 sup
theorem witness_send : UniReady .gang false [33] always [30, 31, 28, 32] gc (agentOf gc) ∧ (∃ c ∈ gc.ctx? 0, MayUse (c.cap 1) [1, 2] [4] 16 ∧ MayUse (c.cap 2) [1, 2] [4] 16) ∧
    ((agentOf gc).s 28).toNat < 512 ∧ ((agentOf gc).s 32).toNat = 16 ∧ gc.rangeCode (agentOf gc) 1 512 16 = 0 ∧ NotAcquiring (agentOf gc) ∧
    Released gc (agentOf gc) ∧ ClusterSide gc (agentOf gc) 512 16 512 ∧ gc.rangeCode (agentOf gc) 0 0x40000 16 = 0 := by decide +kernel
/-- The send issued, to the peer, to the host ring, and of a payload no page maps. -/
def gsend : State := stepTo (.chsend always 30 28 32 33 none) gc
def gpost : State := stepTo (.chsend always 30 29 32 33 none) gc
def gunsent : State := stepTo (.chsend always 34 36 32 33 none) gc
/-- Ring 0 is enabled, with four slots. -/
def gpostable : State := gpost.setVf 0 { gpost.vf 0 with rings := [(0, { noRing with base := 0x1000, prodAddr := 0x1FF8, cfg := 2 ^ 31 + 7 * 2 ^ 8 + 6 * 2 ^ 4 + 1 })] }
def sends (s : State) (k : Nat) : Bool := (cmd s).kind == .send (if k = 2 then 0 else 1) (if k = 2 then 0x40000 else 512) 16 (if k = 1 then 2 else 1) (if k = 1 then capHost else capPeer) 0 33
theorem witness_messages_leave : (∀ p ∈ [(gsend, 0), (gpost, 1), (gpostable, 1), (gunsent, 2)], p.1.agent? 0 = some (agentOf p.1) ∧ (agentOf p.1).ended = false ∧
      (p.1.ctx? 0).isSome = true ∧ ((agentOf p.1).cmds.find? fun y => y.id == (cmd p.1).id) = some (cmd p.1) ∧ sends p.1 p.2 = true ∧ (cmd p.1).fault = none ∧
      (cmd p.1).acq = false ∧ (cmd p.1).got = [] ∧ (agentOf p.1).accs = []) ∧ ClusterSide gsend (agentOf gsend) 512 16 512 := by decide +kernel
theorem witness_messages_go : (match State.cmdParts 0 (agentOf gsend) (cmd gsend).left (cmd gsend) gsend with | .ok c _ => c.payload 8 | _ => []) = [8, 7, 6, 5, 4, 3, 2, 1] ∧
    cmdStops gunsent = some (2, 0x40000) ∧ (∃ p ∈ gsend.part? 0, (p.session 0).agreed = false) ∧ (∃ c ∈ gpost.ctx? 0, c.vf = some 0) ∧
    ringOn ((gpost.vf 0).ring 0).cfg = false ∧ ringOn ((gpostable.vf 0).ring 0).cfg = true ∧
    ((gpostable.vf 0).ring 0).full ((gpostable.vf 0).ring 0).cfg = false ∧ gpostable.hub.outbox = [] ∧ gpostable.vfOf 0 = some 0 := by decide +kernel
theorem step_messages_leave : ((nextOf (exec (.copyComplete 0 ⟨0, none⟩) gsend)).map fun t => ((agentOf t).s 33, (agentOf t).pending, t.hub.outbox.map (·.session))) = some (0, [], [some 0]) ∧
    ((nextOf (exec (.copyComplete 0 ⟨0, none⟩) gpost)).map fun t => t.hub.outbox.length) = some 1 ∧
    ((nextOf (exec (.copyComplete 0 ⟨0, none⟩) gpostable)).map fun t => (t.hub.outbox.length, ((t.vf 0).ring 0).prod)) = some (0, 1) ∧
    ((nextOf (exec (.copyFault 0 ⟨0, none⟩) gunsent)).map fun t => ((acc t).codes, t.cap 0 1 / 2 ^ 224 % 2 ^ 16)) = some ([(0, 2)], 1) := by decide +kernel
/-- One message of 4 bytes in queue 0. -/
def msg : Msg := { num := 0, peer := 5, ctx := 7, stream := 0, gap := false, bytes := [1, 2, 3, 4] }
def grx : State := withCtx (fun c => { c with rx := [(0, [msg])] }) gc
theorem witness_receive : UniReady .gang false [33] always [30, 31, 28, 32] grx (agentOf grx) ∧ (∃ c ∈ grx.ctx? 0, MayUse (c.cap 1) [1] [5] 0 ∧ c.queueOf 0 = [msg]) ∧
    16 ≤ ((agentOf grx).s 32).toNat ∧ (∃ c ∈ gc.ctx? 0, c.queueOf 0 = []) ∧ UniReady .gang false [33] always [36] grx (agentOf grx) ∧
    ((agentOf grx).s 36).toNat < 256 ∧ UniReady .gang false [33] always [36, 0] grx (agentOf grx) := by decide +kernel
theorem step_channels : (after (.chsend always 30 28 32 33 none) gc).map (·.pending) = some [(sCode 33, 0)] ∧
    ((nextOf (exec (.chsend always 30 28 32 33 none) gc)).map fun t => (t.cap 0 1 / 2 ^ 128 % 2 ^ 64, t.cap 0 1 / 2 ^ 192 % 2 ^ 32, t.hub.outbox.length)) = some (984, 1, 0) ∧
    (after (.chrecv always 30 28 32 33 none) gc).map (·.block) = some (.chrecv capPeer) ∧
    (after (.chpoll always 36 33) grx).map (·.s 33) = some 20 ∧ (after (.chcap always 36 0 33) grx).map (·.s 33) = some 0x31 ∧
    (after (.chpoll always 0 33) grx).map (fun a => (a.frame.cause, a.frame.tdetail)) = some (8, 1) := by decide +kernel
theorem step_receive : ((nextOf (exec (.chrecv always 30 28 32 33 none) grx)).map fun t => ((agentOf t).s 33, t.cmem.readNat 512 16)) =
    some (16, 0x01070005_00000000_00000004) := by decide +kernel
/-- A grant of entry 4 from the 32 bytes at 704 (a channel), its revocation, and a bind of hub slot 4 to a factory image. -/
def ggrant : State := let s := gcSup.modAgent 0 fun a => (((a.setS 41 704).setS 42 4).setS 43 0x104).setS 46 0x204
  { (s.modAgent 0 fun a => a.setPair 44 0x8000000000000003) with cmem := s.cmem.writeNat 704 32 capPeer }
theorem witness_grants : UniReady .gang true [33] always [41, 42, 44, 45] ggrant (agentOf ggrant) ∧ ((agentOf ggrant).s 42).toNat / 256 = 0 ∧
    ClusterSide ggrant (agentOf ggrant) 704 32 704 ∧ (agentOf ggrant).clusterBusy = false ∧ ((agentOf ggrant).s 41).toNat % 8 = 0 ∧ capImageOk (ggrant.cmem.readNat 704 32) = true ∧
    capImageOk (2 ^ 100 + 1) = false ∧ UniReady .gang true [33] always [41, 43, 44, 45] ggrant (agentOf ggrant) ∧ ((agentOf ggrant).s 43).toNat / 256 = 1 ∧
    UniReady .gang true [33] always [41, 46, 44, 45] ggrant (agentOf ggrant) ∧ ((agentOf ggrant).s 46).toNat / 256 = 2 := by decide +kernel
theorem witness_grant_binds : (ggrant.part? 0).isSome = true ∧ ggrant.hubSlotBusy 0 4 = false ∧ NotAcquiring (agentOf ggrant) ∧
    (∀ x ∈ (agentOf ggrant).accs, x.dst = none → x.pend = 0) ∧ ((agentOf ggrant).pair 44).getLsbD 63 = true ∧
    ((agentOf ggrant).pair 44).toNat / 65536 % 2 ^ 47 = 0 ∧ ((agentOf ggrant).pair 44).toNat % 65536 = 3 := by decide +kernel
theorem step_grants : ((nextOf (exec (.chgrantWrite always 41 42 44 33) ggrant)).map fun t => t.cap 0 4) = some capPeer ∧
    ((nextOf (exec (.chgrantRevoke always 41 43 44 33) ggrant)).map fun t => t.cap 0 4) = some 0 ∧
    (after (.chgrantWrite always 0 42 44 33) gc).map (·.frame.tdetail) = some 0x16 := by decide +kernel
/-- Session 0 agreed, or not with s33 awaited. -/
def gkey (ok : Bool) : State := match gc.part? 0 with
  | some p => gc.setPart 0 { p with sessions := [(0, { agreed := ok, asking := false, sought := [], waiters := [] })] }
  | none => gc
def gkeyWait : State := stepTo (.chkey always 36 33) (gkey false)
theorem witness_keys : UniReady .gang false [33] always [36] (gkey true) (agentOf (gkey true)) ∧ (∃ c ∈ (gkey true).ctx? 0, MayUse (c.cap 1) [1, 3] [4, 5, 6] 0) ∧
    (∃ p ∈ (gkey true).part? 0, (p.session 0).agreed = true) ∧ (∃ p ∈ (gkey false).part? 0, (p.session 0).agreed = false) ∧
    UniReady .gang false [33] always [36] (gkey false) (agentOf (gkey false)) ∧
    (∃ p ∈ gkeyWait.part? 0, (p.session 0).agreed = false ∧ (p.session 0).asking = true ∧ (p.session 0).sought = [5] ∧ (p.session 0).waiters = [(0, 33)] ∧
      (tabGet p.peers 5).isSome = true) ∧
    gkeyWait.agentByUid 0 = some (0, agentOf gkeyWait) ∧ (agentOf gkeyWait).ended = false := by decide +kernel
theorem step_keys : (after (.chkey always 36 33) (gkey true)).map (·.s 33) = some 0 ∧
    (after (.packetReceive (.agreed 0 0 5 76)) gkeyWait).map (fun a => (a.s 33, a.pending)) = some (1, []) ∧
    (after (.packetReceive (.agreed 0 0 5 77)) gkeyWait).map (fun a => (a.s 33, a.pending)) = some (0, []) ∧
    (after (.chkeyTimeout 0 0) gkeyWait).map (·.s 33) = some 2 ∧ (nextOf (exec (.keyRenewal 0 0) (gkey true))).isSome = true := by decide +kernel
/-- Message 2 of a stream of which messages 0 and 1 have not come. -/
def gearly : State := withCtx (fun c => { c with early := [(streamKey 0 5 7 0, [{ msg with num := 2 }])] }) gc
/-- Two messages wait for room in a host ring; a peer's and one's own. -/
def gwaiting : State := { gc with hub := { gc.hub with outbox := [⟨none, none, .message 65536 0 2 0 0 0 [1]⟩, ⟨none, none, .message 65536 0 2 1 0 0 [2]⟩] } }
theorem witness_delivery : (∃ p ∈ gc.part? 0, (tabGet p.peers 5).isSome = true) ∧ (gwaiting.hub.outbox.filter (toHost 0 (2 % 256))).length = 2 ∧ (∃ c ∈ gc.ctx? 0, c.frozen = false ∧ mapGet 0 c.expect (streamKey 0 5 7 0) = 0 ∧ (tabGet c.early (streamKey 0 5 7 0)).getD [] = []) ∧
    (2 ^ 31 ≤ (0xFFFFFFFF + 2 ^ 32 - 0 % 2 ^ 32) % 2 ^ 32) ∧ ¬ (2 ^ 31 ≤ (1 + 2 ^ 32 - 0 % 2 ^ 32) % 2 ^ 32) ∧
    (∃ c ∈ gearly.ctx? 0, tabGet c.early (streamKey 0 5 (1792 / 256) (1792 % 256)) = some [{ msg with num := 2 }] ∧ mapGet 0 c.expect (streamKey 0 5 7 0) = 0) ∧
    (nextOf (exec (.messageSkip 0 0 5 1792) gearly)).map (fun t => t.hub.outbox.map (·.packet)) = some [.skipped 7 0 0] ∧
    ((nextOf (exec (.packetReceive (.skipped 0 1 0)) gc)).map fun t => t.cap 0 1 / 2 ^ 224 % 2 ^ 16) = some 1 := by decide +kernel
theorem witness_collective : UniReady .gang false [33] always [39, 38] gc (agentOf gc) ∧ ((agentOf gc).s 38).toNat < 256 ∧ (agentOf gc).clusterBusy = false ∧ (agentOf gc).outTo 0 = false ∧ (gc.part? 0).isSome = true ∧
    (gc.clusterDesc (agentOf gc) ((agentOf gc).s 39).toNat 64).toOption = some collBytes ∧
    (∃ x ∈ parseColl collBytes 0 2, x.cmp = false ∧ wireBytes none x.count = 16 ∧ gc.collSides (agentOf gc) x 0 2 false = 0) ∧
    (∃ c ∈ gc.ctx? 0, MayUse (c.cap 3) [3] [6] 16 ∧ (c.colls.filter fun y => y.st == 0).length < 64) ∧ NotAcquiring (agentOf gc) := by decide +kernel
theorem step_collective : ((nextOf (exec (.collr always 39 38 33 ⟨false, false, 0⟩ false) gc)).map fun t => ((agentOf t).s 33, t.hub.outbox.length)) = some (6, 1) := by decide +kernel
/-- The root of the same collective, with its own contribution; and a member in flight. -/
def coll (member : Nat) (got : List (Nat × List Word)) : Coll :=
  { serial := 6, cap := 3, session := 0, group := 9, member, members := 2, index := 0, agent := 0, gang := 0, grid := 1, tindex := 0, quad := 0, fn := 0, op := 4, cmp := false, hslot := 0,
    count := 1, root := 0, quorum := 2, deadline := 10, src := 0x1000, dst := 0x1100, res := 0x1200, resid := 0, arrive := none, rel := false, got, rejected := [],
    closed := false, st := 0, cnt := 0, arrived := false }
def groot (got : List (Nat × List Word)) : State := withCtx (fun c => { c with colls := [coll 0 got] }) gc
def gmember : State := withCtx (fun c => { c with colls := [coll 1 []] }) gc
def rootFound (s : State) (y : Coll) : Bool := s.rootOf 9 0 == some (0, y) && (s.collOf 9 0 1).isNone
/-- The root of a broadcast, whose member has not answered; and that member. -/
def gsender : State := withCtx (fun c => { c with colls := [{ coll 0 [] with fn := 2 }] }) gc
def glistener : State := withCtx (fun c => { c with colls := [{ coll 1 [] with fn := 2 }] }) gc
def shutRoot : State := withCtx (fun c => { c with colls := [{ coll 0 [] with closed := true }] }) gc
theorem witness_roots : (∀ g ∈ [[], [((0 : Nat), [(5 : Word)])], [(1, [2])]], rootFound (groot g) (coll 0 g) = true) ∧ (coll 0 []).member = (coll 0 []).root ∧
    rootFound shutRoot { coll 0 [] with closed := true } = true ∧ (coll 0 []).got.length + 1 < 2 ∧ 2 ≤ (coll 0 [(0, [5])]).got.length + 1 := by decide +kernel
theorem step_roots : ((nextOf (exec (.packetReceive (.contribution 9 0 1 [0, 1, 4, 0, 0, 2, 10, 0] [3])) (groot [(0, [5])]))).map fun t => t.hub.outbox) =
      some [⟨some 0, none, .result 9 0 1 [0, 1] 1 0 [(0, [8])] []⟩] ∧
    ((nextOf (exec (.packetReceive (.contribution 9 0 1 [1, 1, 4, 0, 0, 2, 10, 0] [3])) (groot []))).bind fun t => t.ctx? 0).map (fun c => c.colls.map (·.rejected)) = some [[1]] ∧
    ((nextOf (exec (.collDeadline 0 6) (groot []))).map fun t => t.hub.outbox) = some [⟨some 0, none, .result 9 0 1 [] 2 0 [] []⟩] := by decide +kernel
theorem witness_collectives_complete : (∃ c ∈ gmember.ctx? 0, (c.colls.find? fun z => z.serial == 6) = some (coll 1 []) ∧ c.frozen = false) ∧
    (coll 1 []).member ≠ (coll 1 []).root ∧ (coll 1 []).st = 0 ∧
    gmember.collOf 9 0 1 = some (0, coll 1 []) ∧ gmember.rootOf 9 0 = none ∧
    UniReady .gang false [33] always [40] gmember (agentOf gmember) := by decide +kernel
theorem witness_receipts : rootFound gsender { coll 0 [] with fn := 2 } = true ∧ glistener.collOf 9 0 1 = some (0, { coll 1 [] with fn := 2 }) ∧ glistener.rootOf 9 0 = none ∧
    ((nextOf (exec (.packetReceive (.receipt 9 0 1)) gsender)).bind fun t => t.ctx? 0).map (fun c => c.colls.map fun y => (y.got.map (·.1), y.st)) = some [([1], 0)] ∧
    ((nextOf (exec (.packetReceive (.broadcast 9 0 1 [7])) glistener)).map fun t => t.hub.outbox) = some [⟨some 0, none, .receipt 9 0 1⟩] ∧
    ((nextOf (exec (.collNoResultTimeout 0 6) gmember)).bind fun t => t.ctx? 0).map (fun c => c.colls.map (·.st)) = some [3] := by decide +kernel
theorem step_collq : (after (.collq always 40 33 none) gmember).map (·.s 33) = some 0 ∧ (after (.collq always 0 33 none) gmember).map (·.s 33) = some 7 := by decide +kernel

/-! Launch, join, fork, mailboxes, host registers. -/

/-- A kernel record for one gang of eight names at 0x1000 (R63). -/
def kernelBytes : List Byte :=
  [1, 0, 0x80, 0, 0, 0, 0, 0, 0, 0x20, 0, 0, 0, 0, 0, 0, 1, 8, 0, 0] ++ List.replicate 108 0
def kernelShape : KRec := { entry := 0x2000, gangs := 1, regs := 8, engines := false, lsgran := 0, bars := 0, cmem := 0, rcps := [] }
/-- A launch of 3 teams of the record at 0x1000; and one of none. -/
def launchBytes : List Byte := [0, 0x10, 0, 0, 0, 0, 0, 0, 8, 0, 0, 0, 0, 0, 0, 0, 3] ++ List.replicate 47 0
/-- s48 addresses the launch descriptor at byte 768, s49 queue 2, s51 handle 1, s52 a FORK descriptor at byte 896, s53 a buffer at byte 1024, s54 ring 5. -/
def launchRegs (a : Agent) : Agent := ((((((chanRegs a).setS 48 768).setS 49 0x202).setS 51 2).setS 52 896).setS 53 1024).setS 54 5
/-- A FORK descriptor with both entries and arguments 1 to 8 and 9 to 16. -/
def forkBytes : List Byte := [0, 0x40, 0, 0, 0, 0, 0, 0, 0, 0x50, 0, 0, 0, 0, 0, 0] ++
  ((List.range 8).flatMap fun i => bytesOfNat 4 (i + 1)) ++ ((List.range 8).flatMap fun i => bytesOfNat 4 (i + 9)) ++ List.replicate 16 0
def child (st : GridSt) (g : Grid) : Grid := { g with parent := some 1, parentTeam := some 0, depth := 1, st }
def glaunch : State :=
  let s := placedSpace (placedBase State.reset false (onRun launchRegs)) kernelBytes
  let s := withCaps s
  let s := match s.part? 0 with | some p => s.setPart 0 { p with ldevs := [[0]], mode := 1 } | none => s
  { s with cmem := ((s.cmem.writeBytes 768 launchBytes).writeBytes 896 forkBytes) }
def gdeep : State := match glaunch.grid? 1 with | some g => glaunch.setGrid 1 { g with depth := 10 } | none => glaunch
def gempty : State := { glaunch with cmem := glaunch.cmem.write 784 0 }
/-- A record with no gangs. -/
def gnone : State := { glaunch with dmem := glaunch.dmem.write (devKey 0 0x1010) 0 }
theorem witness_launch : UniReady .gang false [50, 51] always [48, 49] glaunch (agentOf glaunch) ∧ (agentOf glaunch).gang = 0 ∧
    ((agentOf glaunch).s 49).toNat < 1024 ∧ ((agentOf glaunch).s 49).toNat % 64 < glaunch.queueCount 0 ∧ (agentOf glaunch).block = .none ∧
    (glaunch.clusterDesc (agentOf glaunch) 768 64).toOption = some launchBytes ∧ NotAcquiring (agentOf glaunch) ∧ Released glaunch (agentOf glaunch) ∧
    (glaunch.ctx? 0).isSome = true ∧ glaunch.grid? glaunch.nextGrid = none := by decide +kernel
theorem witness_launch_cases : (∃ g ∈ gdeep.grid? 1, 10 < g.depth + 1) ∧ (parseGrid launchBytes 0x202 (agentOf glaunch) 1).isSome = true ∧
    (gempty.clusterDesc (agentOf gempty) 768 64).toOption.bind (fun bs => parseGrid bs 0x202 (agentOf gempty) 1) = none ∧
    (match gnone.checkLaunch 0 0 0x1000 3 false 0 with | .error 4 => true | _ => false) = true ∧
    (glaunch.checkLaunch 0 0 0x1000 3 false 0).toOption = some kernelShape ∧ glaunch.ordinaryFree 0 2 = true ∧ (0x202 : Nat).testBit 9 = true := by decide +kernel
/-- All the places of a queue taken: 54 ordinary ones, and the depth's own. -/
def gfullQueue : State := match glaunch.grid? 1 with
  | some g => { glaunch with grids := glaunch.grids ++ (List.range 55).map fun i => (100 + i, { g with queue := 2, depth := 1, reserve := i == 54, st := .queued }) }
  | none => glaunch
theorem witness_launch_full : gfullQueue.ordinaryFree 0 2 = false ∧ gfullQueue.reserveFree 0 2 1 = false ∧ gfullQueue.reserveFree 0 2 2 = true := by decide +kernel
theorem step_launch : (after (.launch always 48 49 50) glaunch).map (fun a => (a.s 50, a.s 51)) = some (0, 2) ∧
    (after (.launch always 48 49 50) gdeep).map (fun a => (a.s 50, a.s 51)) = some (1, 0) ∧
    (after (.launch always 48 49 50) gempty).map (·.s 50) = some 4 ∧ (after (.launch always 48 49 50) gnone).map (·.s 50) = some 4 ∧
    (after (.launch always 48 49 50) gfullQueue).map (·.block) = some (.launch 2) := by decide +kernel
/-- Grid 2 is a child of the team. -/
def gchild (st : GridSt) : State := match glaunch.grid? 1 with | some g => { glaunch.setGrid 2 (child st g) with nextGrid := 3 } | none => glaunch
theorem witness_join : UniReady .gang false [50] always [51] (gchild .running) (agentOf (gchild .running)) ∧
    (∃ g ∈ (gchild .running).grid? 2, g.ctx = 0 ∧ g.parent = some 1 ∧ g.parentTeam = some 0 ∧ g.st = .running) ∧
    (∃ g ∈ (gchild (.retired true)).grid? 2, g.st = .retired true) ∧ NotAcquiring (agentOf (gchild (.retired true))) ∧ glaunch.grid? 2 = none := by decide +kernel
theorem step_join : (after (.ljoin always 51 50) (gchild .running)).map (·.block) = some .ljoin ∧
    (after (.ljoin always 51 50) (gchild (.retired true))).map (·.s 50) = some 1 ∧ (after (.ljoin always 51 50) glaunch).map (·.s 50) = some 2 := by decide +kernel
def gforked : State := stepTo (.fork always 52 50) glaunch
theorem witness_fork : UniReady .gang false [50] always [52] glaunch (agentOf glaunch) ∧ 0 < orphanBase ∧
    (∃ t ∈ glaunch.team? 1, t.engines = true ∧ t.mRun = false ∧ t.dRun = false ∧ glaunch.cur ∈ t.keys) ∧
    (glaunch.clusterDesc (agentOf glaunch) 896 96).toOption = some forkBytes ∧ fieldOf forkBytes 80 8 = 0 ∧ fieldOf forkBytes 88 8 = 0 ∧
    (∃ t ∈ gforked.team? 1, fieldOf forkBytes 0 8 ≠ 0 ∧ t.mRun = true) ∧ UniReady .gang false [50] always [52] gforked (agentOf gforked) := by decide +kernel
def greserved : State := { glaunch with cmem := glaunch.cmem.write 976 1 }
theorem witness_fork_reserved : (match greserved.clusterDesc (agentOf greserved) 896 96 with | .ok bs => fieldOf bs 80 8 != 0 | .error _ => false) = true ∧
    (after (.fork always 52 50) greserved).map (·.s 50) = some 2 := by decide +kernel
theorem step_fork : (gforked.agent? 48).map (fun a => (a.slot0.pc, a.s 1, a.s 8)) = some (0x4000, 1, 8) ∧
    (gforked.agent? 49).map (fun a => (a.slot0.pc, a.s 1)) = some (0x5000, 9) ∧ (agentOf gforked).s 50 = 0 ∧
    (after (.fork always 52 50) gforked).map (·.s 50) = some 1 := by decide +kernel
/-- A message of SEQ 3 in mailbox 1. -/
def boxMsg : List Byte := [3, 0, 9] ++ List.replicate 253 0
def gbox : State := withCtx (fun c => { c with boxes := [(1, { exp := 4, cons := 0, polls := none, got := false, present := [boxMsg] })] }) glaunch
theorem witness_mailbox : UniReady .gang false [50] always [53, 0] gbox (agentOf gbox) ∧ ((agentOf gbox).s 53).toNat % 8 = 0 ∧
    ClusterSide gbox (agentOf gbox) 1024 256 1024 ∧ (agentOf gbox).outTo 1 = false ∧ NotAcquiring (agentOf gbox) ∧
    (∃ c ∈ gbox.ctx? 0, (c.box 1).present = [boxMsg] ∧ (c.box 0).present = []) ∧ boxMsg.length = 256 ∧ gbox.admits .mailbox 0 0 false = true ∧ (∃ c ∈ glaunch.ctx? 0, ∀ m ∈ List.range 8, (c.box m).present = []) := by decide +kernel
theorem step_mailbox : (after (.mbrecv always 53 0 50) gbox).map (·.s 50) = some 0x30001 ∧
    (after (.mbrecv always 53 0 50) glaunch).map (·.block) = some .mbrecv := by decide +kernel
/-- Ring 5 of function 0: 2 slots of 64 bytes at 0x9000, its producer's word at 0x8000, MSI-X vector 7; off; of 16-byte... full. -/
def ringCfg : Nat := 2 ^ 31 + 7 * 2 ^ 8 + 6 * 2 ^ 4 + 1
def gring (cfg prod : Nat) : State := glaunch.setVf 0 { Vf.reset with ctx := some 0, rings := [(5, { noRing with base := 0x9000, prodAddr := 0x8000, cfg, prod })] }
theorem witness_ring : UniReady .gang false [50] always [53, 54, 32] (gring ringCfg 1) (agentOf (gring ringCfg 1)) ∧ ((agentOf glaunch).s 54).toNat < 64 ∧
    ((agentOf glaunch).s 32).toNat = 16 ∧ ClusterSide (gring ringCfg 1) (agentOf (gring ringCfg 1)) 1024 16 1024 ∧ NotAcquiring (agentOf (gring ringCfg 1)) ∧
    Released (gring ringCfg 1) (agentOf (gring ringCfg 1)) ∧ (∃ c ∈ (gring ringCfg 1).ctx? 0, c.vf = some 0) ∧ (((gring ringCfg 1).vf 0).ring 5).cfg / 2 ^ 31 % 2 = 1 ∧
    (((gring ringCfg 1).vf 0).ring 5).oldCfg = [] ∧ (((gring 0 0).vf 0).ring 5).cfg / 2 ^ 31 % 2 ≠ 1 ∧ 2 ^ (ringCfg / 2 ^ 4 % 2 ^ 4) = 64 ∧
    2 ^ ((2 ^ 31 + 4 * 2 ^ 4) / 2 ^ 4 % 2 ^ 4) < 16 + 16 ∧ (2 + 2 ^ 32 - 0 % 2 ^ 32) % 2 ^ 32 = 2 ^ (ringCfg % 2 ^ 4) := by decide +kernel
theorem step_ring : (after (.mbsend always 53 54 32 50) (gring 0 0)).map (·.s 50) = some 2 ∧
    (after (.mbsend always 53 54 32 50) (gring (2 ^ 31 + 4 * 2 ^ 4 + 1) 0)).map (·.s 50) = some 3 ∧
    (after (.mbsend always 53 54 32 50) (gring ringCfg 2)).map (·.s 50) = some 1 ∧
    ((nextOf (exec (.mbsend always 53 54 32 50) (gring ringCfg 1))).map fun t => (t.hmem.readNat 0x8000 4, t.hmem.readNat 0x9040 4, t.hub.msix)) =
      some (2, 16, [(0, 7)]) := by decide +kernel
/-- A kick of mailbox 0 whose slot 0 holds SEQ 0 or SEQ 9, the engine about to look for the last time. -/
def gkick (seq : Nat) (polls : Option Nat) : State :=
  let s := ((withCtx (fun c => { c with boxes := [(0, { exp := 0, cons := 0, polls, got := false, present := [] })] }) glaunch).setVf 0
    { Vf.reset with ctx := some 0, slots := (Memory.write ([] : Memory) 0 (BitVec.ofNat 8 seq)).write 4 7 }).setAccess 271 3
  { s with mgmt := { s.mgmt with boot := .service } }
theorem witness_host_registers : ((gkick 0 none).vf 0).ctx = some 0 ∧ (∃ c ∈ (gkick 0 (some 16)).ctx? 0, c.frozen = false ∧ c.vf = some 0 ∧ (c.box 0).polls = some 16 ∧ (c.box 0).got = false) ∧
    fieldOf (((gkick 9 none).vf 0).slots.readBytes 0 256) 0 2 = 9 ∧ fieldOf (((gkick 0 none).vf 0).slots.readBytes 0 256) 0 2 = 0 ∧
    ((gkick 0 none).part? 0).isSome = true ∧ 5 < 64 ∧ (gkick 0 none).vfMay .regs 0 true = true ∧ glaunch.vfMay .regs 0 true = false ∧
    (gkick 0 none).mgmt.handoff = false := by decide +kernel
theorem step_host_registers : ((nextOf (exec (.kick 0 0) (gkick 9 none))).bind fun t => t.ctx? 0).map (fun c => (c.box 0).polls) = some (some 1) ∧
    ((nextOf (exec (.kick 0 0) (gkick 0 none))).bind fun t => t.ctx? 0).map (fun c => ((c.box 0).polls, (c.box 0).present.length)) = some (none, 1) ∧
    ((nextOf (exec (.kickPoll 0 0) (gkick 9 (some 16)))).map fun t => (t.vf 0).kdrop) = some 1 ∧
    ((nextOf (exec (.hostRingCfgWrite 0 5 (BitVec.ofNat 32 ringCfg)) (gkick 0 none))).map fun t => ((t.vf 0).ring 5).cfg) = some ringCfg := by decide +kernel
/-- The same in a firmware handoff. -/
def gkickSwap : State := { gkick 0 none with mgmt := { (gkick 0 none).mgmt with handoff := true } }
theorem step_standing_bind : (nextOf (exec (.standingBindRequest 0 1) (gkick 0 none))).isSome = true ∧
    (nextOf (exec (.standingBindRequest 0 1) gkickSwap)).map (fun t => (t.vf 0).sbwaits) = some true := by decide +kernel

/-! Traps, handlers, records. -/

def gsup : State := gang fun a => sup (filled a)
def mpSup : State := mseq fun a => sup ((filled a).setPair 506 0x3000)
theorem witness_traps : MayTrap g0 (agentOf g0) ∧ SeqMayTrap m0 (agentOf m0) ∧ (agentOf g0).holds always = true ∧
    supervisorRow (.eret always) = some .all ∧ Who.admits .all g0.cur = true ∧ issuerRow (.mwait always) = some .mseq ∧ Who.admits .mseq g0.cur = false ∧
    issuerRow (.tbar always 2) = some .gang ∧ Who.admits .gang m0.cur = false := by decide +kernel
theorem step_traps : (after (.trap always 0x21) g0).map (fun a => (a.frame.cause, a.frame.tdetail, a.frame.epc, a.sv, a.slot.pc)) = some (0x0A, 0x21, 0x1018, true, 0x2000) ∧
    (after (.trap always 0x21) m0).map (fun a => (a.s 504, a.s 505, a.s 506, a.slot0.pc)) = some (0x0A, 0x21, 0x1018, 0x3000) ∧
    (after (.eret always) g0).map (fun a => (a.frame.cause, a.frame.tdetail, a.frame.epc)) = some (1, 0x16, 0x1008) ∧
    (after (.mwait always) g0).map (·.frame.tdetail) = some 0x15 ∧ (after (.tbar always 2) m0).map (fun a => (a.s 505, a.s 506)) = some (0x15, 0x1000) := by decide +kernel
/-- A context with no handler. -/
def gNoHandler : State := withCtx (fun c => { c with hvec := 0 }) g0
theorem witness_fatal : (agentOf gsup).sv = true ∧ gNoHandler.hvec (agentOf gNoHandler) = 0 ∧ isSeq gsup.cur = false ∧ gsup.cur < orphanBase ∧
    (∃ t ∈ gsup.team? 1, gsup.cur ∈ t.keys ∧ t.grid = 1) ∧ (∃ g ∈ gsup.grid? 1, g.errRec = none) ∧ gNoHandler.agent? gNoHandler.cur = some (agentOf gNoHandler) := by decide +kernel
theorem step_fatal : ((nextOf (exec (.trap always 0x21) gsup)).bind fun t => t.grid? 1).bind (fun g => g.errRec.map fun e => (e.kind, e.cause, e.tdetail, g.retiredTeams)) =
      some (1, 0x12, 0x210A, 1) ∧
    ((nextOf (exec (.trap always 0x21) gNoHandler)).bind fun t => t.grid? 1).bind (fun g => g.errRec.map fun e => e.cause) = some 0x13 := by decide +kernel
/-- A handler's gang whose trapping slot was at 0x1010, and which wrote EPC. -/
def ginHandler : State := gang fun a => { sup (filled a) with
  slot0 := { pc := 0x2000, mask := BitVec.allOnes 32, rcv := none, st := .run }
  frame := { Frame.empty with tslot := { pc := 0x1010, mask := BitVec.allOnes 32, rcv := none, st := .run }, epc := 0x1040, epcWritten := true } }
theorem witness_returns : UniReady .all true [] always [] ginHandler (agentOf ginHandler) ∧ isSeq ginHandler.cur = false ∧
    ¬ ((agentOf ginHandler).slot0.st ≠ .dead ∧ (agentOf ginHandler).slot1.st ≠ .dead) ∧ (agentOf ginHandler).stack.length = (agentOf ginHandler).frame.depth ∧
    UniReady .all true [] always [] mpSup (agentOf mpSup) ∧ isSeq mpSup.cur = true ∧ (agentOf mpSup).accs = [] ∧ (agentOf mpSup).cmds = [] ∧
    (agentOf mpSup).block = .none := by decide +kernel
theorem step_returns : (after (.eret always) ginHandler).map (fun a => (a.sv, a.slot.pc, a.run)) = some (false, 0x1040, none) ∧
    (after (.eret always) mpSup).map (fun a => (a.sv, a.slot0.pc)) = some (false, 0x3000) := by decide +kernel
/-- A handler beside a held store record; the record reissued, and all come back. -/
def greplay : State := grec.modAgent 0 fun a => { a with sv := true }
def greplayed : State := greplay.modAgent 0 fun a => { a with block := .replay, frame := { a.frame with redo := [0] } }
theorem witness_replay : UniReady .gang true [20] always [] gsup (agentOf gsup) ∧ Keeps (agentOf gsup) 20 ∧ (agentOf gsup).accs = [] ∧ (agentOf gsup).block = .none ∧
    UniReady .gang true [20] always [] greplay (agentOf greplay) ∧ Keeps (agentOf greplay) 20 ∧ ((agentOf greplay).accs.map (·.id)).Nodup ∧
    (∃ x ∈ (agentOf greplay).accs, (x.pend = 0 ∧ x.faulted ≠ 0) ∧ (agentOf greplay).frame.report ≠ some x.id ∧ ∃ c ∈ x.codes, c.1 < 32) ∧
    UniReady .gang true [20] always [] greplayed (agentOf greplayed) ∧ (agentOf greplayed).block = .replay ∧
    (∀ x ∈ (agentOf greplayed).accs, x.id ∈ (agentOf greplayed).frame.redo → x.pend = 0) := by decide +kernel
/-- A handler beside a faulted engine command; the same, its fault reported and abandoned (FMASK 0). -/
def gcmdReplay : State := gheldCmd.modAgent 0 sup
def gabandon : State := gcmdReplay.modAgent 0 fun a => { a with frame := { a.frame with report := some (cmd gcmdReplay).id, fmask := 0 } }
theorem witness_replay_commands : UniReady .gang true [20] always [] gcmdReplay (agentOf gcmdReplay) ∧ Keeps (agentOf gcmdReplay) 20 ∧ (agentOf gcmdReplay).block ≠ .replay ∧
    ((agentOf gcmdReplay).cmds.map (·.id)).Nodup ∧ (∃ c ∈ (agentOf gcmdReplay).cmds, c.fault ≠ none ∧ (agentOf gcmdReplay).frame.report ≠ some c.id) ∧
    UniReady .gang true [20] always [] gabandon (agentOf gabandon) ∧ (∃ c ∈ (agentOf gabandon).cmds, c.fault ≠ none ∧ (agentOf gabandon).frame.report = some c.id) ∧
    (agentOf gabandon).frame.fmask = 0 ∧ AllBack (agentOf greplayed) ∧ NothingFaulted (agentOf mpSup) := by decide +kernel
theorem step_replay_commands : (after (.replay always 20) gcmdReplay).map (fun a => (a.block, a.cmds.map (·.fault))) = some (.replay, [none]) ∧
    (after (.replay always 20) gabandon).map (fun a => (a.cmds.length, a.s 20)) = some (0, 0) := by decide +kernel
theorem step_replay : (after (.replay always 20) gsup).map (fun a => (a.s 20, a.frame.replayed)) = some (0, true) ∧
    (after (.replay always 20) greplay).map (fun a => (a.block, a.accs.map (·.todo))) = some (.replay, [0xF]) ∧
    (after (.replay always 20) greplayed).map (·.s 20) = some 1 := by decide +kernel
/-- s4:s5 is the first of six pages of host memory, s6:s7 an address that is no chunk's first. -/
def hostPages (s : State) : State :=
  { s with sysm := (List.range 6).foldl (fun (m : Memory) i => m.writeNat (0x5008 + 8 * i) 8 (hostLeaf + i * 2 ^ 20)) s.sysm }
def gsave : State := hostPages (gang fun a => sup (((filled a).setPair 4 0x10000).setPair 6 0x4008))
theorem witness_save : UniReady .gang true [20] always [4, 5] gsave (agentOf gsave) ∧ Keeps (agentOf gsave) 20 ∧ ((agentOf gsave).pair 4).toNat % 4096 = 0 ∧
    (∃ t ∈ gsave.team? 1, gsave.writable 0 0 0x10000 t.recordBytes = true ∧ t.keys = [gsave.cur] ∧ t.mRun = false ∧ t.dRun = false ∧ t.saving = none) ∧
    (agentOf gsave).accs = [] ∧ (agentOf gsave).cmds = [] ∧ (agentOf gsave).stopped = false ∧ (gsave.quad 0).jobs = [] ∧ (gsave.quad 0).queue = [] ∧
    UniReady .gang true [20] always [6, 7] gsave (agentOf gsave) ∧ ((agentOf gsave).pair 6).toNat % 4096 ≠ 0 := by decide +kernel
/-- A record of one gang of team 1 of grid 1, which has 2 teams, at the first byte of the host page (R390). -/
def gload : State :=
  let s := withHost (gang fun a => sup ((filled a).setPair 4 0x10000))
  let s := match s.grid? 1 with | some g => s.setGrid 1 { g with nteams := 2 } | none => s
  { s with hmem := (((((s.hmem.writeNat 0x100000 4 0x5445414D).writeNat 0x100004 2 1).writeNat 0x100006 1 1).writeNat 0x100008 8 (0x1000 + 3 * gangRecBytes + 8192 + 8192)).writeNat 0x100018 4 1).writeNat 0x10001C 4 1 |>.writeNat 0x100024 4 8192 |>.writeNat 0x100028 2 1 }
def loadsAt (s : State) (addr : Nat) : Option Nat :=
  match s.readGlobal 0 0 addr 4096 .read none with
  | .ok (h, s1) => some (s1.loadStatus 0 fun o k => fieldOf h o k)
  | .error _ => none
theorem witness_load : UniReady .gang true [20] always [4, 5] gload (agentOf gload) ∧ ((agentOf gload).pair 4).toNat % 4096 = 0 ∧
    loadsAt gload 0x10000 = some 0 ∧ loadsAt { gload with grids := [] } 0x10000 = some 2 := by decide +kernel
theorem step_load : ((nextOf (exec (.ctxload always 4 20) gload)).bind fun t => t.grid? 1).map (fun g => g.reload.map (·.1)) = some [1] := by decide +kernel
theorem step_save : (after (.ctxsave always 6 20) gsave).map (·.s 20) = some 2 ∧ (after (.ctxload always 6 20) gsave).map (·.s 20) = some 1 := by decide +kernel

/-! Runs. -/

/-- A gang at a run of one NOP at 0x1000; and at one with no trailer. -/
def atRun (last : Dword) : State :=
  placedSpace (placedBase State.reset false (placedAgent none)) (bytesOfWord nopWord ++ bytesOfWord nopWord ++ bytesOfWord last)
/-- Token 0 names v3, whose load is out. -/
def gtoken : State := (stepTo (.ld p1 false (.v 3) (.v 1) 4 0 7 none false) gm).modAgent 0 fun a => { a with run := none, tokens := [(0, 3)] }
def runWords (s : State) : Option (List Dword) :=
  match s.readGlobal 0 0 0x1008 16 .fetch none with | .ok (bs, _) => some (wordsFrom 2 bs) | .error _ => none
theorem witness_runs : (atRun emptyTrailer).agent? 0 = some (agentOf (atRun emptyTrailer)) ∧ (agentOf (atRun emptyTrailer)).run = none ∧
    (agentOf (atRun emptyTrailer)).slot.st = .run ∧ (agentOf (atRun emptyTrailer)).stopped = false ∧ (agentOf (atRun emptyTrailer)).ended = false ∧
    (agentOf (atRun emptyTrailer)).tokens = [] ∧ (agentOf (atRun emptyTrailer)).accs = [] ∧ runWords (atRun emptyTrailer) = some [nopWord, emptyTrailer] ∧
    structuralCode false false false 0 false [nopWord] emptyTrailer = 0 ∧ (wordUses nopWord).slots = [] ∧
    structuralCode false false false 0 false [nopWord] nopWord = 2 ∧ MayTrap (atRun nopWord) (agentOf (atRun nopWord)) ∧
    (∃ x ∈ (agentOf gtoken).tokens, (1 : BitVec 6).getLsbD x.1 = true ∧ (agentOf gtoken).busy x.2 = true) := by decide +kernel
theorem step_runs : (after (.run 1 0 false) (atRun emptyTrailer)).map (fun a => a.run.map (·.words)) = some (some [nopWord, emptyTrailer]) ∧
    (after (.run 1 0 false) (atRun nopWord)).map (fun a => (a.frame.cause, a.frame.tdetail, a.frame.epc)) = some (1, 2, 0x1000) ∧
    (after (.run 1 1 false) gtoken).map (·.run) = some none := by decide +kernel
/-- The run the gang fetched before; a PC no page maps; a run whose slot word waits for its slot to load. -/
def gheldRun : State := (atRun nopWord).setQuad 0 { Quad.reset with fetched := [⟨(agentOf (atRun nopWord)).uid, 0x1000, 0, 0x1000, [0xFE10000000000000, nopWord, emptyTrailer], []⟩] }
def gnowhere : State := (atRun nopWord).modAgent 0 fun a => { a with slot0 := { a.slot0 with pc := 0x40000 } }
def gslotRun : State :=
  let s := placedSpace (placedBase State.reset false (placedAgent none)) (bytesOfWord nopWord ++ bytesOfWord 0x70E0402414005C00 ++ bytesOfWord emptyTrailer)
  s.setQuad 0 { Quad.reset with jobs := [⟨0, 5, 0, 0, 0, 0⟩] }
theorem witness_runs_held : ((gheldRun.quad 0).fetched.find? fun f => f.uid == (agentOf gheldRun).uid && f.pc == 0x1000).isSome = true ∧
    (match gnowhere.readGlobal 0 0 0x40008 16 .fetch none with | .error e => e.1 | _ => 0) = 2 ∧ (agentOf gnowhere).block ≠ .handler ∧ MayTrap gnowhere (agentOf gnowhere) ∧
    runWords gslotRun = some [0x70E0402414005C00, emptyTrailer] ∧ structuralCode false false false 0 false [0x70E0402414005C00] emptyTrailer = 0 ∧
    (wordUses 0x70E0402414005C00).slots = [5] ∧ gslotRun.slotLoading 0 0 5 = true := by decide +kernel
theorem step_runs_held : (after (.run 1 0 false) gheldRun).map (fun a => a.run.map (·.words)) = some (some [nopWord, emptyTrailer]) ∧
    (after (.run 1 0 false) gnowhere).map (fun a => (a.frame.cause, a.frame.tdetail, a.frame.epc)) = some (9, 2, 0x40000) ∧
    (after (.run 1 0 false) gslotRun).map (fun a => (a.run, a.block)) = some (none, .slot) := by decide +kernel
/-- At the trailer of a run of two words, having branched or not. -/
def atTrail (f : Flow) : State := gang fun a => { filled a with run := (placedRun [nopWord, emptyTrailer] 1).map fun r => { r with flow := f } }
def mTrail : State := mseq fun a => { filled a with run := placedRun [nopWord, emptyTrailer] 1 }
theorem witness_trail : (∃ r ∈ (agentOf (atTrail .fall)).run, r.idx + 1 = r.words.length ∧ r.flow = .fall) ∧ isSeq (atTrail .fall).cur = false ∧
    ((((agentOf (atTrail .fall)).setSlot { (agentOf (atTrail .fall)).slot with pc := 0x1018 })).settle).isSome = true ∧
    (∃ r ∈ (agentOf mTrail).run, r.idx + 1 = r.words.length) ∧ isSeq mTrail.cur = true := by decide +kernel
theorem step_trail : (after (.trail 0 0 0 0 0) (atTrail .fall)).map (fun a => (a.run, a.slot.pc)) = some (none, 0x1018) ∧
    (after (.trail 0 0 0 0 0) (atTrail (.goto 0x1800))).map (·.slot.pc) = some 0x1800 ∧ (after (.trail 0 0 0 0 0) mTrail).map (·.slot0.pc) = some 0x1018 := by decide +kernel

/-- A slot that reaches its reconvergence point under a stack of five: the oldest entry, in the context area, comes back on chip. -/
def popping (s : State) : State := s.modAgent 0 fun a => { a with
  slot0 := { pc := 0x1000, mask := 0xF, rcv := some 0x1800, st := .run }
  stack := .join 0x1800 0xFF none :: List.replicate 4 (.join 0 0 none)
  run := (placedRun [nopWord, emptyTrailer] 1).map fun r => { r with flow := .goto 0x1800 } }
def gpop : State := popping (match gArea.spillEntries 0 0 [(0, .join 0 0 none)] with | .ok u => u | .error _ => gArea)
def gpopFails : State := popping gDeep
def areaRead (s : State) : Option (List Byte) := match s.readGlobal 0 0 (entryAddr 0 0) 32 .read none with | .ok (bs, _) => some bs | .error _ => none
theorem witness_area_reads : comingBack (agentOf gpop).stack 4 = [(0, .join 0 0 none)] ∧ areaRead gpop = some (fieldBytes 32 (divFields (.join 0 0 none))) ∧
    comingBack (agentOf gpopFails).stack 4 = [] ++ (0, .join 0 0 none) :: [] ∧ areaRead gpopFails = none ∧ gpopFails.cur < orphanBase ∧
    (∃ t ∈ gpopFails.team? 1, gpopFails.cur ∈ t.keys ∧ t.grid = 1) ∧ (∃ g ∈ gpopFails.grid? 1, g.errRec = none) ∧
    ((((agentOf gpop).setSlot { (agentOf gpop).slot with pc := 0x1800 })).settle.map fun a => (a.slot0.pc, a.slot0.mask, a.stack.length)) = some (0x1800, 0xF, 4) := by decide +kernel
theorem step_area_reads : (after (.trail 0 0 0 0 0) gpop).map (fun a => (a.slot0.pc, a.stack.length)) = some (0x1800, 4) ∧
    ((nextOf (exec (.trail 0 0 0 0 0) gpopFails)).bind fun t => t.grid? 1).bind (fun g => g.errRec.map fun e => (e.kind, e.cause)) = some (1, 0x11) := by decide +kernel

/-! Teams, grids, passes. -/

/-- One team of grid 1 waits for quadrant 1. -/
def gadmit : State := let s := inPart g0; s.setQuad 1 { Quad.reset with records := [{ handle := 1, first := 0, count := 1, order := 0, ctx := 0, standing := false }] }
theorem witness_admission : (∃ b ∈ (gadmit.quad 1).current, b.handle = 1 ∧ b.ctx = 0 ∧ b.first = 0) ∧
    (∃ g ∈ gadmit.grid? 1, g.cor = false ∧ tabGet g.reload 0 = none ∧ gadmit.fits 1 g.shape g.shape.entries = true) ∧
    (∃ c ∈ gadmit.ctx? 0, c.frozen = false) := by decide +kernel
/-- The team's one gang has ended. -/
def gone : State := { g0.delAgent 0 with teams := g0.teams.map fun t => (t.1, { t.2 with live := 0, csize := 0, lsgran := 0 }) }
def gdone : State := { gone with teams := [], grids := gone.grids.map fun g => (g.1, { g.2 with retiredTeams := 1 }) }
def gres : State := withCtx (fun c => { c with resident := 1, vf := some 0 }) gdone
theorem witness_retirement : (∃ t ∈ gone.team? 1, t.live = 0 ∧ t.mRun = false ∧ t.dRun = false ∧ t.grid = 1) ∧ (gone.grid? 1).isSome = true ∧ gone.agents = [] ∧
    (∃ g ∈ gres.grid? 1, g.st = .running ∧ g.nteams ≤ g.retiredTeams) ∧ gres.agents = [] ∧ (∀ x ∈ gres.grids, x.2.parent = some 1 → x.2.st ≠ .queued ∧ x.2.st ≠ .running) ∧
    mapSorted gres.grids = true ∧ (∃ c ∈ gres.ctx? 0, c.resident = 1 ∧ c.vf = some 0) := by decide +kernel
theorem step_retirement : ((nextOf (exec (.teamRetire 1) gone)).bind fun t => t.grid? 1).map (·.retiredTeams) = some 1 ∧
    (nextOf (exec (.gridRetire 1) gres)).isSome = true := by decide +kernel
/-- A slice has ended, its gang stopped; and a gang that has still to stop. -/
def gslice : State := teamTo (fun t => { t with saving := some (2 ^ 32) }) (gang fun a => { a with run := none, sliceEnd := true, stopped := true, block := .stopped })
def gpdl : State := gang fun a => { a with sliceEnd := true }
theorem witness_slices : (∃ t ∈ gslice.team? 1, t.saving = some (2 ^ 32) ∧ gslice.readyToSave 1 t none = true ∧ t.grid = 1) ∧ (gslice.grid? 1).isSome = true ∧
    (agentOf gpdl).sliceEnd = true ∧ (agentOf gpdl).stopped = false ∧ (agentOf gpdl).mustStop = false := by decide +kernel
theorem step_slices : (after (.pdlExpiry 0) gpdl).map (·.mustStop) = some true := by decide +kernel
/-- A checked image waits for its handoff. -/
def ghandoff : State := { g0 with mgmt := { g0.mgmt with handoff := true, swap := some ([1], 2, [3]) } }
theorem witness_passes : ghandoff.mgmt.boot = .service ∧ ghandoff.mgmt.handoff = true ∧ ghandoff.mgmt.swap = some ([1], 2, [3]) ∧ g0.mgmt.handoff = false ∧
    (nextOf (exec (.matinsPass []) g0)).isSome = true := by decide +kernel

/-! The management core and the host. A check under an uninterpreted key, and a free choice, have no value a test can name: the statements
say what follows from each. -/

def booted (b : Boot) : State := { State.reset with mgmt := { Mgmt.reset with boot := b } }
def thirdStart (n : Nat) : State := { State.reset with mgmt := { Mgmt.reset with failcnt := n } }
theorem witness_starts : (thirdStart 3).mgmt.failcnt = 3 ∧ (thirdStart 2).mgmt.failcnt ≠ 3 ∧ (booted .selftest).mgmt.boot = .selftest ∧
    (nextOf (exec .packageReset (thirdStart 3))).map (·.mgmt.boot) = some .midnight ∧
    (nextOf (exec .startedMark (booted .selftest))).map (fun t => (t.mgmt.boot, t.mgmt.mode, t.mgmt.failcnt)) = some (.service, .normal, 0) ∧
    (nextOf (exec (.startTimeout 4 3) (booted .selftest))).map (fun t => (t.mgmt.failcnt, t.mgmt.reason)) = some (1, 3) ∧
    (nextOf (exec .bootctlReset (booted .midnight))).isSome = true ∧ State.reset.mgmt.fwwin = [] := by decide +kernel
theorem witness_attestation : (∃ r, attestRow (booted .service) .getVersion = some r ∧ r.1 = 0) ∧ (booted .service).mgmt.boot ≠ .off ∧
    (booted .service).mgmt.boot ≠ .poweredDown ∧ (nextOf (exec .getCapabilities (booted .service))).map (·.mgmt.spdm) = some [[1]] ∧
    (nextOf (exec .negotiateAlgorithms (booted .service))).map (·.mgmt.negotiated) = some true := ⟨⟨_, rfl, rfl⟩, by decide +kernel⟩
/-- One logical device of die 0 on quadrants 0 and 1; two devices cannot be formed of one die. -/
def spec0 : PartSpec :=
  { index := 0, quads := [0, 1], mode := 1, ldevs := [[0]], quota := [], wayMasks := [0xFFFF], alloc := [], pinQuota := 0, span := 0, lease := 1, pdl := 1000,
    imgShare := 0, actLimit := 0, keys := [5], peers := [] }
def hasPart : State := (nextOf (execPartitionCreate spec0 (booted .service))).getD State.reset
def hasPart2 : State := match hasPart.part? 0 with | some p => hasPart.setPart 0 { p with trust := [(0, 1), (1, 5)], verified := [(7, 1)] } | none => hasPart
theorem witness_partitions : (booted .service).mgmt.boot = .service ∧ QuadsFree (booted .service) 0 [0, 1] ∧ LimitsKept (booted .service) spec0 ∧ LimitsKept hasPart { spec0 with quads := [1] } ∧ (booted .service).part? 0 = none ∧
    ldevsOk [0, 1] 1 [[0]] = true ∧ ldevsOk [0, 1] 2 [[0], [0]] = false ∧ (hasPart.part? 0).isSome = true ∧ QuadsFree hasPart 0 [1] ∧ NoTeams hasPart 0 ∧
    (∃ p ∈ hasPart2.part? 0, ∃ t ∈ p.trust, t.1 = 1) := by decide +kernel
theorem step_partitions : (hasPart.quad 1).part = some 0 ∧ mapGet 0 hasPart.access (Target.msc.key 1) = 3 ∧
    ((nextOf (exec (.partitionConfigure { spec0 with quads := [1] }) hasPart)).map fun t => ((t.quad 0).part, (t.quad 1).part)) = some (none, some 0) ∧
    (nextOf (exec (.partitionReset 0) hasPart)).isSome = true ∧
    ((nextOf (exec (.trustKeyRemove 0 1) hasPart2)).bind fun t => t.part? 0).map (fun p => (p.trust.length, p.verified)) = some (1, []) := by decide +kernel
/-- Shared space 9 of partition 0. -/
def space9 : SpaceSpec := { sid := 9, root := 0x1000, seed := 0, dies := [0], owner := 0, tables := [(0x1000, 77)] }
def withPart (s : State) : State := { s with parts := [(0, newPart)] }
def hasSpace : State := (nextOf (execSpaceCreate space9 (withPart g0))).getD State.reset
theorem witness_spaces : (withPart g0).mgmt.boot = .service ∧ space9.sid < 4096 ∧ (withPart g0).space? 9 = none ∧ ((withPart g0).part? 0).isSome = true ∧ diesOk [0] = true ∧
    (hasSpace.ctx? 0).isSome = true ∧ (∃ x ∈ hasSpace.space? 9, x.shared = true) ∧ (∃ c ∈ hasSpace.ctx? 0, tabGet c.attached 2 = none) ∧
    (∀ c ∈ hasSpace.ctxs, ∀ a ∈ c.2.attached, a.2 ≠ 9) ∧ hasSpace.sysm.readNat 0x1000 8 = 77 ∧
    ((nextOf (exec (.sharedSpaceAttach 0 2 9) hasSpace)).bind fun t => t.ctx? 0).map (fun c => tabGet c.attached 2) = some (some 9) ∧
    (nextOf (exec (.spaceDestroy 9) hasSpace)).isSome = true := by decide +kernel
/-- Context 1 of partition 0, its tables and its kernel record as the core puts them. -/
def ctxTables : List (Nat × Nat) := [(0x11000, 1 + 0x12 * 2 ^ 16), (0x12000, 1 + 0x13 * 2 ^ 16), (0x13000, 1 + 0x14 * 2 ^ 16), (0x14000, 1 + 0x15 * 2 ^ 16), (0x15000, 0x3F)]
def spec1 : CtxSpec :=
  { part := 0, ctx := 1, vf := some 3, seed := 0, krec := 0x1000, hvec := 0x2000, shvec := 0x3000, nrp := 0, resBase := 0, saveBase := 0x100000, compline := 0,
    complineLen := 0, refill := 10, root := 0x11000, sid := 1, tables := ctxTables, load := [(0x1000, kernelBytes)] }
theorem witness_contexts : hasPart.mgmt.boot = .service ∧ (hasPart.part? 0).isSome = true ∧ hasPart.ctx? 1 = none ∧ hasPart.space? 1 = none ∧ (hasPart.vf 3).ctx = none ∧
    spec1.nrp = 0 := by decide +kernel
def gHalted : State := withCtx (fun c => { c with halted := true }) g0
theorem witness_tenants : (∃ c ∈ gHalted.ctx? 0, c.halted = true ∧ c.sid = 0) ∧ (gHalted.space? 0).isSome = true ∧ (∃ c ∈ g0.ctx? 0, c.halted = false) ∧ 3 < 384 ∧
    ((nextOf (exec (.contextDestroy 0) gHalted)).map fun t => (t.ctx? 0, t.space? 0)) = some (none, none) ∧
    (nextOf (exec (.functionLevelReset 3) g0)).isSome = true ∧ (nextOf (exec (.tenantReset 0) g0)).isSome = true ∧
    (nextOf (exec (.hostStopRequest 0) g0)).isSome = true := by decide +kernel
/-- Function 0, and the package, may write. -/
def gdoor : State := (g0.setAccess 270 0x83).setAccess 271 3
theorem witness_registers : gdoor.mgmt.boot = .service ∧ gdoor.admits .mailbox 271 0 true = true ∧ g0.admits .mailbox 271 0 true = false ∧ gdoor.admits .regs 270 0 true = true ∧
    ((nextOf (exec (.registerWrite (some 0) 0x100 [7, 8]) gdoor)).map fun t => (t.vf 0).slots.read 0x101) = some 8 ∧
    ((nextOf (exec (.registerWrite none 0x1000002 [9]) gdoor)).map fun t => t.mgmt.fwwin.read 2) = some 9 ∧
    ((nextOf (exec (.registerWrite (some 0) 0x100 [7, 8]) g0)).map fun t => (t.vf 0).slots.read 0x101) = some 0 := by decide +kernel
/-- A slot whose check finds a mismatch, a quadrant alone in its partition's service, a step down in power. -/
def gscrub : State := bound 3 fp8 g0
theorem witness_service : g0.mgmt.boot = .service ∧ g0.mgmt.handoff = false ∧ ghandoff.mgmt.handoff = true ∧ tabGet (gscrub.quad 0).phys 3 = some fp8 ∧
    ((gscrub.quad 0).bind.find? fun b => b.1 % 16 == 3 && b.2.gen == fp8.gen) = some (3, fp8) ∧ (3 ∉ (gscrub.quad 0).reloading) ∧ linked 0 1 = true ∧
    (hasPart.quad 1).retired = false ∧ (hasPart.quad 1).part = some 0 ∧ hasPart.teams = [] ∧ hasPart.grids = [] ∧ (g0.cg 5).retired = false ∧ g0.heirCg 5 = some 6 ∧
    (g0.cg 5).home ≠ 6 := by decide +kernel
/-- Every other quadrant is at 600 MHz. -/
def gslow : State := { g0 with quads := (List.range 256).map fun q => (q, { Quad.reset with mhz := if q = 7 then 1800 else 600 }) }
theorem witness_power : (gslow.quad 7).mhz = 1800 ∧ (List.range 256).all (fun o => o == 7 || decide ((gslow.quad o).mhz ≤ 600)) = true := by decide +kernel
theorem step_service : (nextOf (exec .swapTimeout ghandoff)).map (fun t => (t.mgmt.swap, t.mgmt.handoff)) = some (none, false) ∧
    ((nextOf (exec (.slotScrub 0 3 true) gscrub)).map fun t => ((t.quad 0).reloading, (t.quad 0).scrubs)) = some ([3], 1) ∧
    (nextOf (exec (.hbmRecalibration 5) g0)).isSome = true ∧ (nextOf (exec (.retryRound 0 1) g0)).isSome = true ∧
    ((nextOf (exec (.quadrantRetirement 1) hasPart)).map fun t => (t.quad 1).retired) = some true ∧
    ((nextOf (exec (.cgRetirement 5) g0)).map fun t => (t.cg 5).retired) = some true ∧
    ((nextOf (exec .thermalTrip g0)).map fun t => (t.mgmt.boot, t.mgmt.reason)) = some (.poweredDown, 8) ∧
    ((nextOf (exec (.portReassign 2) g0)).map fun t => mapGet false t.hub.ports 2) = some true := by decide +kernel

/-! The step. -/

def planned_ (m : Move) (s : State) : State := { s with agenda := [m] }
def stepNext (s : State) : Option State := nextOf (step s)
theorem witness_gang_words : (planned_ (.sched 0 0) g0).agenda = [.sched 0 0] ∧ (∀ x ∈ (planned_ (.sched 0 0) g0).gangsAt 0 0, x.2.stopsHere = false) ∧
    currentGang (((g0.quad 0).last.drop 0).headD 0) ((planned_ (.sched 0 0) g0).gangsAt 0 0) = some 0 ∧
    (∃ r ∈ (agentOf g0).run, r.words.drop r.idx = nopWord :: [emptyTrailer]) ∧ (decodeWord false nopWord).toOption = some (.nop always) ∧
    (∃ r ∈ (agentOf (atTrail .fall)).run, r.words.drop r.idx = emptyTrailer :: []) ∧ (decodeTrail emptyTrailer).toOption = some (.trail 0 0 0 0 0) := by decide +kernel
/-- A NOP with an unused bit set, in a partition whose mode is lenient or not. -/
def oddWord : Dword := 0x22E0000000180001
def mOdd : State := { (mseq fun a => { filled a with run := (placedRun [oddWord, emptyTrailer] 0) }) with mgmt := { Mgmt.reset with boot := .service, mode := .test } }
theorem witness_sequencer_words : (planned_ (.seq 0 false) m0).agenda = [.seq 0 false] ∧ m0.agent? (mseqOf 0) = some (agentOf m0) ∧ (agentOf m0).restoring = false ∧ (agentOf m0).stopsHere = false ∧
    (agentOf m0).stopped = false ∧ (agentOf m0).ended = false ∧ m0.frozenCtx 0 = false ∧ (agentOf m0).run.isSome = true ∧
    (∃ r ∈ (agentOf m0).run, r.words.drop r.idx = nopWord :: [emptyTrailer]) := by decide +kernel
theorem witness_lenient_word : mOdd.lenient 48 = true ∧ (decodeWord false oddWord).toOption = none ∧ (decodeWord true oddWord).toOption = some (.nop always) ∧
    (∃ r ∈ (agentOf mOdd).run, r.words.drop r.idx = oddWord :: [emptyTrailer]) := by decide +kernel
/-- A gang at a run of one NOP, not begun; the MSEQ likewise. -/
def headerWord1 : Dword := 0xFE10000000000000
def hRun (seq : Bool) : State :=
  planned_ (if seq then .seq 0 false else .sched 0 0)
    (placedSpace (placedBase State.reset seq (placedAgent none)) (bytesOfWord headerWord1 ++ bytesOfWord nopWord ++ bytesOfWord emptyTrailer))
def headerReads (s : State) : Bool := match s.readGlobal 0 0 0x1000 8 .fetch none with | .ok (bs, _) => wordOfBytes bs == headerWord1 | .error _ => false
theorem witness_headers : (∀ x ∈ (hRun false).gangsAt 0 0, x.2.stopsHere = false ∧ x.2.run = none) ∧
    (∃ c ∈ bestCand 0 ((hRun false).readyRuns [] ((hRun false).gangsAt 0 0)), c.key = 0 ∧
      (let s1 := (hRun false).selected 0 0 ((hRun false).gangsAt 0 0) ((hRun false).readyRuns [] ((hRun false).gangsAt 0 0)) c
       (∃ a ∈ s1.agent? 0, s1.boundaryTrap 0 (a.dropGone 0) = none ∧ (a.dropGone 0).run = none ∧ a.slot.pc = 0x1000))) ∧
    headerReads (hRun false) = true ∧ headerWord1.extractLsb' 57 7 = 0x7F#7 ∧ (decodeRun headerWord1).toOption = some (.run 1 0 false) := by decide +kernel
/-- The gang holds the run since it fetched it, and memory is as it was. -/
def hHeld : State := (hRun false).setQuad 0 { Quad.reset with fetched := [⟨((hRun false).agent? 0).map (·.uid) |>.getD 0, 0x1000, 0, 0x1000, [headerWord1, nopWord, emptyTrailer], []⟩] }
theorem witness_held_header : ((hHeld.agent? 0).bind fun a => (hHeld.quad 0).heldRun a.uid 0x1000) = some [headerWord1, nopWord, emptyTrailer] ∧
    (match hHeld.readGlobal 0 0 0x1000 24 .fetch none with | .ok (bs, _) => wordsFrom 3 bs | .error _ => []) = [headerWord1, nopWord, emptyTrailer] ∧
    (stepNext hHeld).bind (fun t => (t.agent? 0).map (·.run.isSome)) = some true := by decide +kernel
theorem witness_sequencer_headers : (∃ a ∈ (hRun true).agent? 48, a.restoring = false ∧ (hRun true).quad 0 = Quad.reset ∧ a.stopsHere = false ∧ a.stopped = false ∧ a.ended = false ∧ a.run = none ∧ a.block ≠ .slot ∧
      (hRun true).frozenCtx a.ctx = false ∧ (hRun true).boundaryTrap 48 (a.dropGone 48) = none) ∧ headerReads (hRun true) = true := by decide +kernel
theorem step_steps : (stepNext (planned_ (.sched 0 0) g0)).bind (fun t => (t.agent? 0).map (·.retired)) = some 1 ∧
    (stepNext (planned_ (.seq 0 false) m0)).bind (fun t => (t.agent? 48).map (·.retired)) = some 1 ∧
    (stepNext (planned_ (.seq 0 false) mOdd)).bind (fun t => (t.agent? 48).map fun a => (a.retired, a.warn)) = some (1, true) ∧
    (stepNext (planned_ (.event .getVersion) g0)).isSome = true ∧ (stepNext (planned_ (.event (.nop always)) g0)).isSome = false := by decide +kernel
theorem step_headers : (stepNext (hRun false)).bind (fun t => (t.agent? 0).map (·.run.isSome)) = some true ∧
    (stepNext (hRun true)).bind (fun t => (t.agent? 48).map (·.run.isSome)) = some true := by decide +kernel
theorem witness_encoding : wellFormed (.fence always true true 2) = true ∧ encode (.fence always true true 2) = some 0xC8E0000000000340 ∧
    (reads 0xC8E0000000000340).toOption = some (.fence always true true 2) := by decide +kernel
theorem witness_step_keeps : MemoriesWf (planned_ (.sched 0 0) g0) ∧ WindowsWf (planned_ (.sched 0 0) g0) ∧ (stepNext (planned_ (.sched 0 0) g0)).isSome = true := by decide +kernel
theorem witness_user_bank : (encode (.nop always)).isSome = true ∧ (agentOf g0).sv = false ∧ (after (.nop always) g0).map (·.sv) = some false := by decide +kernel
theorem witness_sfence : UniReady .gangMseq false [] always [] gStale (agentOf gStale) ∧ (gStale.quad 0).reloading ≠ [] ∧
    UniReady .gangMseq false [] always [] g0 (agentOf g0) ∧ (g0.quad 0).jobs = [] ∧ (g0.quad 0).reloading = [] := by decide +kernel
theorem witness_trap_false : UniClear .all false [] [] g0 (agentOf g0) ∧ (agentOf g0).holds p1 = false ∧ (after (.trap p1 1) g0).map (·.retired) = some 1 := by decide +kernel

/-! Lanes that go to a peer, to a leaf of the leaf window, and to two chunks. -/

/-- The page at 0x10000 is a peer's: page 9 of the context that capability 1 names. -/
def gpeer : State := stepTo (.st p1 false (.v 2) (.v 1) 8 0 7 none false)
  (let s := withCaps (gang pointed); { s with sysm := s.sysm.writeNat 0x5008 8 (1 + 2 + 0x3C + 2 ^ 11 + (2 ^ 32 + 9) * 2 ^ 16) })
theorem witness_peer_lane : gpeer.agent? 0 = some (agentOf gpeer) ∧ LaneNext gpeer (agentOf gpeer) (acc gpeer) (laneAcc gpeer 3) ∧ (acc gpeer).space = 0 ∧
    (laneAcc gpeer 3).bit = 8 * 0x10003 ∧ (acc gpeer).width = 8 ∧
    (match gpeer.translate 0 0 0x10003 (acc gpeer).need with | .ok (.peer en va _, _) => (en % 2 ^ 24, va) | _ => (0, 0)) = (5 + 7 * 2 ^ 16, 0x90003) := by decide +kernel
theorem step_peer_lane : ((nextOf (exec (.hubAccess 0 0 ⟨3, none⟩) gpeer)).map fun t => (t.hub.outbox.map (·.owner), (acc t).todo)) =
    some ([some ((agentOf gpeer).uid, 0)], 7) := by decide +kernel
/-- A handler's SST to the leaf of page 0 of a reservation of 32 pages at 0. -/
def gleaf : State := let s := gang fun a => sup ((pointed a).setPair 4 (BitVec.ofNat 64 leafWindow))
  stepTo (.sst always false 1 0 4 0 31 none false) (match s.space? 0 with | some sp => s.setSpace 0 { sp with nrp := 32 } | none => s)
theorem witness_leaf_lane : gleaf.agent? 0 = some (agentOf gleaf) ∧ LaneNext gleaf (agentOf gleaf) (acc gleaf) (laneAcc gleaf 0) ∧ (acc gleaf).space = 0 ∧
    (acc gleaf).word = 2 ∧ (acc gleaf).sup = true ∧ (laneAcc gleaf 0).bit = Int.ofNat (8 * leafWindow) ∧ (acc gleaf).width = 32 ∧
    inLeafWindow leafWindow = true ∧ rowFree gleaf 0 leafWindow = true ∧ gleaf.spaceOf 0 leafWindow = some 0 ∧
    (∃ sp ∈ gleaf.space? 0, byteSpan (laneAcc gleaf 0).bit 32 ≤ 8 * sp.nrp ∧ sp.resBase = 0 ∧ leafAddr (gleaf.pte sp.owner) 0 ptLevels sp.root = some 0x5000) := by decide +kernel
theorem step_leaf_lane : ((nextOf (exec (.cgAccess 0 0 ⟨0, none⟩) gleaf)).map fun t => (gleaf.sysm.readNat 0x5000 8, t.sysm.readNat 0x5000 8)) = some (0x3F, 7) := by decide +kernel
/-- A store of 24 bits from byte 2 or 3 of the last word of a chunk; a page of host memory at 0x30000, and a frame for the chunk at 0x2000 or none. -/
def gcross (framed : Bool) (va : Dword) (i : Word) : State := stepTo (.st p1 false (.v 2) (.v 0) 4 0 23 none false)
  (let s := gang fun a => ((pointed a).setPair 4 va).setV 0 (laneFn fun _ => i)
   let c := match s.space? 0 with | some sp => routeCg sp 0x2000 | none => 0
   let s := if framed then s.setCg c { s.cg c with chunks := mapPut (s.cg c).chunks (chunkKey 0 0x2000) { gran := 0, frame := 1, moved := false } } else s
   { s with sysm := s.sysm.writeNat 0x5018 8 hostLeaf })
/-- The codes of the two accesses of lane 0, 0 where one succeeds. -/
def crossing (s : State) : Option (Nat × Nat) :=
  let x := acc s
  let l := laneAcc s 0
  match piecesOf (l.bit / 8).toNat (byteSpan l.bit x.width) with
  | [(v₁, n₁), (v₂, n₂)] =>
    let all (bs : List Byte) : List Byte := putElement bs l.bit x.width l.data
    let two (s : State) : Nat := match s.performPiece 0 0 v₂ n₂ x.need x.msOp x.kind x.pol (x.request l ++ [n₁]) fun bs =>
        some (((all (List.replicate n₁ 0 ++ bs)).drop n₁).take n₂) with
      | .ok _ => 0
      | .error e => e
    match s.performPiece 0 0 v₁ n₁ x.need x.msOp x.kind x.pol (x.request l ++ [0]) fun bs => some ((all (bs ++ List.replicate n₂ 0)).take n₁) with
    | .error e => some (e, two s)
    | .ok (_, _, s1) => some (0, two s1)
  | _ => none
theorem witness_crossing_lane : (∀ g ∈ [gcross true 0x1FF8 2, gcross false 0x1FF8 2, gcross true 0x1FFFC 1, gcross true 0x2FFFC 1],
      g.agent? 0 = some (agentOf g) ∧ LaneNext g (agentOf g) (acc g) (laneAcc g 0) ∧ (acc g).space = 0 ∧ (acc g).kind = .store ∧
      0 ≤ (laneAcc g 0).bit ∧ (acc g).width = 24 ∧ inLeafWindow ((laneAcc g 0).bit / 8).toNat = false ∧
      ∀ v ∈ [0x1FFE, 0x2000, 0x1FFFF, 0x20000, 0x2FFFF, 0x30000], rowFree g 0 v = true) ∧
    crossing (gcross true 0x1FF8 2) = some (0, 0) ∧ crossing (gcross false 0x1FF8 2) = some (0, 5) ∧ crossing (gcross true 0x1FFFC 1) = some (2, 2) ∧
    crossing (gcross true 0x2FFFC 1) = some (2, 0) := by decide +kernel
theorem step_crossing_lane : ((nextOf (exec (.cgAccess 0 0 ⟨0, none⟩) (gcross true 0x1FF8 2))).map fun t => t.dmem.readNat (devKey 0 0x1FFE) 4) = some 5 := by decide +kernel

/-! Waits of releases, and commands that move nothing or whose end waits. -/

theorem witness_fence_waits : UniReady .all false [] always [] gst (agentOf gst) ∧ (∃ x ∈ (agentOf gst).accs, x.pend ≠ 0 ∧ gst.heldBack (agentOf gst) x = false) ∧
    (∀ x ∈ (agentOf gst).accs, x.acq.isSome = true → (agentOf gst).sees x = false) ∧
    (∃ x ∈ (agentOf (gld 0x1000)).accs, x.dst.isSome = true ∧ x.pend ≠ 0) ∧ UniReady .all false [] always [] (gld 0x1000) (agentOf (gld 0x1000)) := by decide +kernel
theorem witness_sent_by : gret.sentBy (agentOf gret).uid (acc gret).id = false ∧ gack.sentBy (agentOf gack).uid (acc gack).id = false ∧
    gfill.sentBy (agentOf gfill).uid (cmd gfill).id = false ∧ gcopy.sentBy (agentOf gcopy).uid (cmd gcopy).id = false ∧
    gfill.part? 0 = none := by decide +kernel
theorem witness_parked_trap_last : let a := agentOf gdue; let c := Agent.dropGone 0 { a with which := a.nextWhich, last := a.nextWhich }
    c.accs.filter (fun y => y.parked) = acc gdue :: [] := by decide +kernel
/-- A fill of nothing, its arrival on the object at byte 64; and one of 16 bytes behind a store that is out. -/
def gfillNone : State := gx.modAgent 0 fun a => a.setS 15 0
def gfillBehind : State := stepTo (.xfill always 4 15 1 ⟨false, false, 0⟩ (some 10))
  ((stepTo (.st p1 false (.v 2) (.v 1) 4 0 7 none false) gx).modAgent 0 fun a => a.setPair 4 0x1100)
theorem witness_empty_command : (∃ r, engineRow gfillNone (agentOf gfillNone) (.xfill always 4 15 1 ⟨true, false, 2⟩ (some 10)) = some r ∧ r.2.2.2.2.2.1.kind.empty = true ∧ (∃ q, r.2.2.2.2.2.1.fin = .arrive q) ∧
      UniReady .gangDseq false r.2.2.1 r.1 r.2.2.2.1 gfillNone (agentOf gfillNone) ∧ NotAcquiring (agentOf gfillNone) ∧ gfillNone.engineLoad 0 < 64) ∧
    (agentOf gfillNone).accs = [] ∧ gfillNone.sentBy (agentOf gfillNone).uid (agentOf gfillNone).ids = false ∧
    BarrierAt gfillNone (agentOf gfillNone) ((agentOf gfillNone).s 10).toNat 64 :=
  ⟨⟨_, rfl, by decide +kernel, ⟨_, rfl⟩, by decide +kernel, by decide +kernel, by decide +kernel⟩, by decide +kernel⟩
theorem witness_command_end_waits :
    (match gfillBehind.cmdRun 0 (agentOf gfillBehind) (cmd gfillBehind) with | .ok p _ => !p.2 | _ => false) = true ∧
    ((agentOf gfillBehind).cmds.find? fun x => x.id == (cmd gfillBehind).id) = some (cmd gfillBehind) ∧ (cmd gfillBehind).fault = none := by decide +kernel
theorem step_empty_command : ((nextOf (exec (.xfill always 4 15 1 ⟨false, false, 2⟩ (some 10)) gfillNone)).map fun t => ((agentOf t).cmds.length, gfillNone.cmem.readNat 64 8, t.cmem.readNat 64 8)) =
    some (0, 0, 2 ^ 48) := by decide +kernel

/-! The matrix path: arrivals of each kind, sparse loads, encoded and fused drains, save areas. -/

/-- The command at the head of a queue with an arrival on the object at byte 64, which expects two. -/
def arriving (s : State) : State :=
  { s.setQuad 0 { s.quad 0 with queue := [{ head s with arrive := some (2, 64) }] } with cmem := s.cmem.writeNat 64 8 2 }
theorem witness_arrivals : (∀ s ∈ [qLoad, qStream, qDrain, qSwap, qFlip, qClear].map arriving, HeadAt s 0 (agentOf s) (head s) [] ∧ (head s).arrive = some (2, 64) ∧
    BarrierAt s (agentOf s) 64 64) := by decide +kernel
theorem step_arrivals : ([qLoad, qSwap].map arriving).map (fun s => (nextOf (exec (.matrixCmdComplete ⟨0, 0, none⟩) s)).map fun t => t.cmem.readNat 64 8) =
    List.replicate 2 (some (2 + 2 ^ 16)) := by decide +kernel
/-- A sparse load of one group of 128 rows and two values a column, and a load of blocks. -/
def sparseLoad : State := qLoad.setQuad 0 { qLoad.quad 0 with queue := [{ head qLoad with kind := .load 3 fp8 2 512 512 128 1 }] }
def sparseBytes : State := { sparseLoad with cmem := (qLoad.cmem.writeNat 512 16 (2 ^ 3 + 2 ^ 7)).writeNat 528 2 0x4038 }
theorem witness_sparse_load : HeadAt sparseBytes 0 (agentOf sparseBytes) (head sparseBytes) [] ∧ (head sparseBytes).kind = .load 3 fp8 2 512 512 128 1 ∧
    (sparseBytes.ownCluster (agentOf sparseBytes) 512).map (·.2) = some 512 := by decide +kernel
theorem step_sparse_load : ((nextOf (exec (.matrixCmdComplete ⟨0, 0, none⟩) sparseBytes)).map fun t =>
    ((t.quad 0).shadowPlane.weight 3 0, (t.quad 0).shadowPlane.weight 7 0, (t.quad 0).shadowPlane.weight 4 0)) =
    some (some (decodeCode fp8 0x38), some (decodeCode fp8 0x40), none) := by decide +kernel
/-- A drain of codes of a slot's format; and one of a fusion of two quadrants. -/
def qEncoded : State := qDrain.setQuad 0 { qDrain.quad 0 with queue := [{ head qDrain with kind := .drain 3 (some fp8) 0 false false 512 128 1 }] }
def qFused : State := (qDrain.setQuad 1 ((ownedArray Quad.reset).setBank true 1 2 0x40000000)).setQuad 0
  { qDrain.quad 0 with fused := 1, queue := [{ head qDrain with kind := .drain 0 none 0 false false 512 1024 1 }] }
theorem witness_drains : (∀ s ∈ [qEncoded, qFused], HeadReady s 0 (agentOf s) (head s) [] ∧ (head s).arrive = none ∧ (head s).agent < orphanBase) ∧
    segBytes (some fp8) * (4 * (outputsOf 0 (qEncoded.quad 0).fused).length) ≤ 128 ∧ segBytes none * (4 * (outputsOf 0 (qFused.quad 0).fused).length) ≤ 1024 ∧
    (qEncoded.ownCluster (agentOf qEncoded) 512).map (·.2) = some 512 ∧ (qFused.ownCluster (agentOf qFused) 512).map (·.2) = some 512 := by decide +kernel
/-- An array with a dirty tile of each bank and a plane. -/
def mdirty : State := msv.setQuad 0 { (((msv.quad 0).setBank false 3 5 77).setBank true 33 2 9) with dirtyW := 1, dirtyV := 16, plane0 := onePlane }
theorem witness_save_areas : UniReady .mseq true [27] always [] mdirty (agentOf mdirty) ∧ mdirty.targetRefused 0 0 0 = false ∧ mdirty.arrayBusy 0 = false ∧
    (mdirty.quad 0).accown = some 0 ∧ tilesSpilled (mdirty.quad 0) false = 1 ∧ tilesSpilled (mdirty.quad 0) true = 16 := by decide +kernel

/-! Messages on their way, collectives that may write. -/

/-- The parts of a CHSEND's command are all performed, nothing before it, none of its own packets out. -/
def goesOut (s : State) : Bool := match State.cmdParts 0 (agentOf s) (cmd s).left (cmd s) s with
  | .ok _ t => let u := t.ownPackets s.hub.outbox.length (agentOf s).uid (cmd s).id
    !u.sentBy (agentOf s).uid (cmd s).id && !u.sendsBefore 0 1 0 && !u.sendsBefore 0 2 0
  | _ => false
/-- A message of entry 2 waits already; the payload of one for a host ring is read where no page is. -/
def gpostBehind : State := { gpost with hub := { gpost.hub with outbox := [⟨none, none, .message 65536 0 2 0 0 0 [1]⟩] } }
def gunposted : State := stepTo (.chsend always 34 47 32 33 none) (gc.modAgent 0 fun a => a.setS 47 2)
theorem witness_messages_out : (∀ s ∈ [gsend, gpost, gpostable, gpostBehind], goesOut s = true) ∧ (∃ y ∈ gpostBehind.hub.outbox, toHost 0 2 y = true) ∧
    cmdStops gunposted = some (2, 0x40000) ∧ gunposted.sendsBefore 0 2 0 = false ∧ gunposted.hub.outbox = [] := by decide +kernel
theorem step_unposted : ((nextOf (exec (.copyFault 0 ⟨0, none⟩) gunposted)).bind fun t => t.ctx? 0).map (fun c => c.gaps.contains (hostStream 2)) = some true := by decide +kernel
/-- A CHRECV that waits keeps the entry it was checked against, though the table's has changed. -/
def gkeeps : State := withCtx (fun c => { c with caps := [], rx := [(0, [msg])] }) (stepTo (.chrecv always 30 28 32 33 none) gc)
theorem witness_entry_kept : (agentOf gkeeps).block = .chrecv capPeer ∧ UniReady .gang false [33] always [30, 31, 28, 32] gkeeps (agentOf gkeeps) ∧
    MayUse capPeer [1] [5] 0 ∧ (agentOf gkeeps).outTo 1 = false := by decide +kernel
theorem step_entry_kept : (after (.chrecv always 30 28 32 33 none) gkeeps).map (·.s 33) = some 16 := by decide +kernel
theorem witness_collective_order (z : Coll) (h1 : z.src = 0x1000) (h2 : z.dst = 0x1100) (h3 : z.res = 0x1200) (h4 : z.resid = 0) (h5 : z.count = 4)
    (h6 : z.fn = 0) (_ : z.members = 2) : gc.collBehind 0 z = false := by
  simp only [State.collBehind, h1, h2, h3, h4, h5, h6, show ¬ (0 = 1) by decide, if_false]
  decide +kernel
def collForms (s : State) (y : Coll) : Option Nat := match s.formColl 0 (agentOf s) y none with | .ok p => some p.1.length | .error e => some (100 + e.1)
theorem witness_collective_forms : collForms gc (coll 1 []) = some 1 ∧ collForms gc { coll 1 [] with src := 0x40000 } = some 102 := by decide +kernel
/-- A member's sides may be written. -/
def holdsDevice (s : State) (va n : Nat) : Bool := decide (0 < n) && decide (va % 4096 + n ≤ 4096) && (match s.translate 0 0 va .write with
  | .ok (.device c sid w e, s1) => (match tabGet (s1.cg c).chunks (chunkKey sid w) with | some ch => ch.gran == pteGran e | none => false)
  | _ => false)
theorem witness_collective_sides : holdsDevice gmember 0x1200 144 = true ∧ holdsDevice gmember 0x1100 4 = true ∧ gmember.collRefused 0 (coll 1 []) = [] ∧
    gmember.collBehind 0 (coll 1 []) = false ∧ gmember.spanOpen = true ∧ holdsDevice (gmember.collWrite 0 (coll 1 []) 0x1100 (resultBytes none 1 [8])).1 0x1200 144 = true := by decide +kernel
theorem step_collective_completes : ((nextOf (exec (.packetReceive (.result 9 0 1 [0, 1] 1 0 [(0, [8])] [])) gmember)).map fun t =>
    (t.dmem.readNat (devKey 0 0x1100) 4, t.dmem.readNat (devKey 0 0x1280) 8)) = some (8, 2 + 2 ^ 32 + 6 * 2 ^ 48) := by decide +kernel

/-! Launch, records, runs, retirement, services: the clauses' own states. -/

/-- A ring changed while enabled; and a context without a function. -/
def gringChanged : State := (gring ringCfg 1).setVf 0 { (gring ringCfg 1).vf 0 with rings := [(5, { noRing with base := 0x9000, prodAddr := 0x8000, cfg := ringCfg, prod := 1, oldBase := [0xA000], oldCfg := [0] })] }
def gringless : State := withCtx (fun c => { c with vf := none }) glaunch
theorem witness_launch_order : glaunch.sideHeld 0 0x1000 2176 = false ∧ (∃ t ∈ glaunch.team? 1, (glaunch.cur, agentOf glaunch) ∈ glaunch.teamAgents t) ∧
    (∃ c ∈ gringless.ctx? 0, c.vf = none) ∧ UniReady .gang false [50] always [53, 54, 32] gringless (agentOf gringless) ∧
    ((gringChanged.vf 0).ring 5).oldCfg = [0] ∧ UniReady .gang false [50] always [53, 54, 32] gringChanged (agentOf gringChanged) := by decide +kernel
theorem step_ringless : (after (.mbsend always 53 54 32 50) gringless).map (·.s 50) = some 2 := by decide +kernel
theorem witness_save_alone : (∃ t ∈ gsave.team? 1, gsave.teamAgents t = [(gsave.cur, agentOf gsave)]) ∧ (∃ t ∈ gpopFails.team? 1, (gpopFails.cur, agentOf gpopFails) ∈ gpopFails.teamAgents t) := by decide +kernel
/-- A team's end: its grid's error record and DONE in host memory, nothing held. -/
def gerr : ErrRec := { count := 1, kind := 1, gang := 0, quad := 0, team := 0, cause := 1, tdetail := 0x16, fmask := 0, epc := 0x1000, faddr := 0, capt := 0 }
def gends : State := match gdone.grid? 1 with | some g => withHost (gdone.setGrid 1 { g with st := .running, errRec := some gerr, err := 0x10000, done := 0x10100 }) | none => gdone
def writesHost (s : State) (va key : Nat) : Bool := match s.translate 0 0 va .write with | .ok (.host k _, _) => k == key | _ => false
theorem witness_grid_end : (∃ g ∈ gends.grid? 1, g.st = .running ∧ g.nteams ≤ g.retiredTeams ∧ g.errRec = some gerr ∧ (gends.ldQuads (g.ctx / 16) (g.queue / 16)).headD 0 = 0) ∧
    gends.sideHeld 0 0x10100 8 = false ∧ gends.sideHeld 0 0x10000 256 = false ∧ gends.agents = [] ∧ mapSorted gends.grids = true ∧ writesHost gends 0x10000 0x100000 = true ∧
    writesHost (gends.tryWrite 0 0 0x10000 (errorRecord gerr)) 0x10100 0x100100 = true ∧
    (∀ g ∈ (gends.tryWrite 0 0 0x10000 (errorRecord gerr)).cgs, g.2.errors = [] ∧ g.2.poison = []) := by decide +kernel
theorem step_grid_end : ((nextOf (exec (.gridRetire 1) gends)).map fun t => (t.hmem.readNat 0x100000 5, t.hmem.readNat 0x100100 8)) = some (1 + 2 ^ 32, 1) := by decide +kernel
/-- A team of one gang about to lose its last lane. -/
def glast : State := gang fun a => { filled a with slot0 := { a.slot0 with st := .dead }, stack := [], run := placedRun [nopWord, emptyTrailer] 1 }
theorem witness_gang_end : (agentOf glast).settle = none ∧ comingBack (agentOf glast).stack 0 = [] := by decide +kernel
def fetchedLate (s : State) : Bool := (bestCand 0 (({ s with agenda := [] } : State).readyRuns [(7, false)] (s.gangsAt 0 0))).isSome && (bestCand 0 (({ s with agenda := [] } : State).readyRuns [(0, false)] (s.gangsAt 0 0))).isNone
theorem witness_late : fetchedLate (hRun false) = true ∧ (stepNext (planned_ (.late 0 0 [(7, false)]) (hRun false))).bind (fun t => (t.agent? 0).map (·.run.isSome)) = some true := by decide +kernel
/-- A physical slot no context binds. -/
def gunbound : State := g0.setQuad 0 { g0.quad 0 with phys := [(3, fp8)] }
/-- An image and its version and signature in FWWIN; a vendor's requests. -/
def gwindow : State := { booted .midnight with mgmt := { (booted .midnight).mgmt with fwwin := Memory.write [] 5 1 } }
theorem witness_services : gwindow.mgmt.fwwin ≠ [] ∧ hasPart.mgmt.boot = .service ∧ (∃ im ∈ tabGet (gunbound.quad 0).phys 3, ((gunbound.quad 0).bind.find? fun b => b.1 % 16 == 3 && b.2.gen == im.gen) = none) ∧
    (∀ x ∈ g0.hub.outbox, isPost x.packet = mapGet false g0.hub.ports 2) ∧ NoTeams hasPart 0 ∧ ∀ g ∈ hasPart.grids, g.2.reload = [] := by decide +kernel
theorem witness_vendor_requests : attestRow (booted .service) (.vendorDefinedRequest ⟨Config.dexsonVendor, 1, 0⟩ 0) = some (7, []) ∧
    attestRow (booted .service) (.vendorDefinedRequest ⟨Config.dexsonVendor, 2, 0⟩ 0) = some (8, []) := by
  constructor
  · simp [attestRow, booted, State.part?]
    rfl
  · simp [attestRow]
/-- The partition with room for frames. -/
def hasQuota : State := (nextOf (execPartitionCreate { spec0 with quota := (List.range 8).map fun c => (c, 100) } (booted .service))).getD State.reset
def createCheck (c : CtxSpec) (s : State) : Option (Bool × Nat) :=
  match s.part? c.part with
  | none => none
  | some p =>
    let id := 16 * c.part + c.ctx
    let sp : Space := { root := c.root, seed := c.seed, dies := sortDies (p.ldevs.flatMap fun d => d), owner := c.part, shared := false, resBase := c.resBase, nrp := c.nrp, ctx := id }
    let s1 := ((s.setSpace c.sid sp).putTables c.part c.tables).setCtx id (newCtx c)
    let s2 := c.load.foldl (fun s l => s.placeBytes id sp c.sid l.1 l.2) (if c.nrp = 0 then s1 else s1.chargeReservation c.sid sp false)
    match s2.checkLaunch ((s2.ldQuads c.part 0).headD 0) id c.krec.toNat 1 false 0 with
    | .ok _ => some (s1.reservationBuilt sp, 0)
    | .error n => some (s1.reservationBuilt sp, n)
theorem witness_context_checks : createCheck spec1 hasQuota = some (true, 0) ∧ createCheck { spec1 with load := [] } hasQuota = some (true, 4) ∧
    (createCheck { spec1 with nrp := 32, resBase := 0x200000 } hasQuota).map (·.1) = some false ∧
    ((nextOf (exec (.contextCreate spec1) hasQuota)).bind fun t => t.ctx? 1).map (fun c => c.sid) = some 1 := by decide +kernel

/-! A row with requests waiting (R264). -/

/-- A store's lane that waits in the side queue of its row. -/
def gthr : State := gst.setCg 1 { gst.cg 1 with side := [(Config.dramRow 1 0, 0, 0, 3)] }
theorem witness_side_queue : gthr.sideHeld 0 0x1000 8 = true := by
  have h : gthr.rowAt 0 0x1000 = some (1, 0 / 16 * 2 ^ 64 + Config.dramRow 1 0, (gthr.cg 1).throttled.contains (0 / 16, Config.dramRow 1 0 / 2 ^ 20, Config.dramRow 1 0 % 2 ^ 20)) := by
    have h1 : gthr.spaceOf 0 0x1000 = some 0 := by decide +kernel
    have h2 : (gthr.space? 0).map (fun sp => gthr.homeCg sp (vaPrime 0x1000)) = some 1 := by decide +kernel
    have h3 : tabGet (gthr.cg 1).chunks (chunkKey 0 (vaPrime 0x1000)) = some ⟨0, 0, false⟩ := by decide +kernel
    have h4 : ((gthr.cg 1).msc.any fun l => l.sid == 0 && l.line == vaPrime 0x1000 / 256) = false := by decide +kernel
    obtain ⟨sp, hs, hc⟩ := Option.map_eq_some_iff.mp h2
    simp only [State.rowAt, h1, hs, hc, h3, h4, Bool.false_eq_true, if_false]
  have hq : gthr.sideQueue 1 (0 / 16 * 2 ^ 64 + Config.dramRow 1 0) = [(Config.dramRow 1 0, 0, 0, 3)] := by
    have h5 : (gthr.cg 1).side = [(Config.dramRow 1 0, 0, 0, 3)] := by rfl
    have h6 : gthr.sideAlive (0, 0, 3) = true := by decide +kernel
    simp [State.sideQueue, h5, h6]
  have hp : piecesOf 0x1000 8 = [(0x1000, 8)] := by decide +kernel
  simp only [State.sideHeld, hp, List.any_cons, List.any_nil, h, hq, Bool.or_false]
  rfl

end Sys2Proof.Tests
end

/-! Proofs about the host's register writes and live service. -/

namespace Sys2Proof.Machine

/-! More rules of the sparse maps, of byte memories and of the tables of the package, which the statements about
services and registers read their fields through. -/

/-! Tables. -/

theorem mem_of_tabGet {α : Type} {m : List (Nat × α)} {k : Nat} {v : α} (h : tabGet m k = some v) : (k, v) ∈ m := by
  induction m with
  | nil => simp [tabGet] at h
  | cons p m ih =>
    obtain ⟨k', v'⟩ := p
    by_cases e : k' = k
    · simp_all [tabGet]
    · exact List.mem_cons_of_mem _ (ih (by simpa [tabGet, e] using h))

/-- A change of every entry that leaves the keys is seen in each lookup. -/
theorem tabGet_map {α β : Type} (f : Nat × α → Nat × β) (hf : ∀ p, (f p).1 = p.1) (m : List (Nat × α)) (k : Nat) :
    tabGet (m.map f) k = (tabGet m k).map fun v => (f (k, v)).2 := by
  induction m with
  | nil => rfl
  | cons p m ih =>
    obtain ⟨k', v⟩ := p
    have hc : f (k', v) = (k', (f (k', v)).2) := Prod.ext (hf (k', v)) rfl
    rw [List.map_cons, hc]
    by_cases e : k' = k
    · simp [tabGet, e]
    · simp [tabGet, e, ih]

theorem tabGet_mapSet_same {α : Type} [DecidableEq α] {d v : α} (h : v ≠ d) (m : List (Nat × α)) (k : Nat) :
    tabGet (mapSet d m k v) k = some v := by
  simp [mapSet, h]

/-! Byte memories. -/

/-- Every byte after a write of several: those written, and the others as before. -/
theorem Memory.read_writeBytes (m : Memory) (a : Nat) (bs : List Byte) (n : Nat) :
    (m.writeBytes a bs).read n = if a ≤ n ∧ n < a + bs.length then bs.getD (n - a) 0 else m.read n := by
  split
  · obtain ⟨i, rfl⟩ : ∃ i, n = a + i := ⟨n - a, by omega⟩
    have hi : i < bs.length := by omega
    simp [Memory.read_writeBytes_inside m a bs i hi, hi]
  · exact Memory.read_writeBytes_outside m a bs n (by omega)

/-- Memories that are the same data read the same. -/
theorem KeepsMemories.same {s t : State} (h : KeepsMemories s t) : SameMemory s t := by
  obtain ⟨hd, hh, hsys, hc, hl, hsav⟩ := h
  simp [SameMemory, hd, hh, hsys, hc, hl, hsav]

/-! Access tables. -/

/-- An entry written for a master stands in the table of every target. -/
theorem State.access_setAccess (s : State) (master e : Nat) (t : Target) :
    mapGet 0 (s.setAccess master e).access (t.key master) = e := by
  cases t <;> simp [State.setAccess, Target.key, mapGet_mapSet_ne]

@[simp] theorem State.quad_setAccess (s : State) (master e q : Nat) : (s.setAccess master e).quad q = s.quad q := rfl

/-! A partition's teams. -/

theorem State.partTeams_eq_nil {s : State} {part : Nat} (h : Spec.NoTeams s part) : s.partTeams part = [] := by
  rw [State.partTeams, List.filter_eq_nil_iff]
  intro t ht
  cases hg : s.grid? t.2.grid with
  | none => simp
  | some g => simpa using h t ht g hg

/-! Writes of the host to a function's mailbox slots and to FWWIN (R351, R404, R405). -/

@[simp] theorem exec_registerWrite (vf : Option Nat) (off : Nat) (data : List Byte) (s : State) :
    exec (.registerWrite vf off data) s = execRegisterWrite vf off data s := rfl

theorem read_writeSlotByte (m : Memory) (a : Nat) (b : Byte) (n : Nat) :
    (writeSlotByte m a b).read n = if n = a ∧ n % 256 / 4 ≠ 1 then b else m.read n := by
  unfold writeSlotByte
  by_cases e : n = a
  · subst e
    split <;> simp_all [Memory.read_write_same]
  · split <;> simp [e, Memory.read_write_ne]

/-- The bytes of a write, one after the other from the k-th on: each reaches its place unless that is reserved. -/
theorem read_foldl_writeSlotByte (data : List Byte) (off k : Nat) (m : Memory) (n : Nat) :
    Memory.read ((data.zipIdx k).foldl (fun m p => writeSlotByte m (off + p.2) p.1) m) n =
      if off + k ≤ n ∧ n < off + k + data.length ∧ n % 256 / 4 ≠ 1 then data.getD (n - (off + k)) 0 else m.read n := by
  induction data generalizing k m with
  | nil =>
    have : ¬ (off + k ≤ n ∧ n < off + k + 0 ∧ n % 256 / 4 ≠ 1) := by omega
    simp only [List.zipIdx_nil, List.foldl_nil, List.length_nil, if_neg this]
  | cons b data ih =>
    simp only [List.zipIdx_cons, List.foldl_cons, ih, read_writeSlotByte, List.length_cons]
    by_cases hr : n % 256 / 4 = 1
    · simp [hr]
    · rcases Nat.lt_trichotomy n (off + k) with hlt | rfl | hgt
      · rw [if_neg (by omega), if_neg (by omega), if_neg (by omega)]
      · rw [if_neg (by omega), if_pos ⟨rfl, hr⟩, if_pos (by omega), Nat.sub_self]
        rfl
      · have hs : n - (off + k) = n - (off + (k + 1)) + 1 := by omega
        rw [if_neg (show ¬ (n = off + k ∧ n % 256 / 4 ≠ 1) by omega), hs, List.getD_cons_succ]
        congr 1
        simp only [eq_iff_iff]
        omega

theorem Vf.slots_write (v : Vf) {off : Nat} {data : List Byte} (h : off + data.length ≤ 0x20000) (n : Nat) :
    (v.write off data).slots.read n =
      if off ≤ n ∧ n < off + data.length ∧ n % 256 / 4 ≠ 1 then data.getD (n - off) 0 else v.slots.read n := by
  simpa [Vf.write, h] using read_foldl_writeSlotByte data off 0 v.slots n

/-- The mailbox slots lie below every register whose write is a step of its own. -/
theorem hasOwnStep_slots {off n : Nat} (h : off + n ≤ 0x20000) : hasOwnStep off n = false := by
  have h1 : ¬ 0x20000 < off + n := by omega
  have h2 : ¬ 0x20060 < off + n := by omega
  have h3 : ¬ 0x30000 ≤ off + n := by omega
  simp [hasOwnStep, touches, h1, h2, h3]

/-- In service the access table alone decides on a function's request. -/
theorem vfMay_of_service {s : State} {v : Nat} (hv : v < 384) (hb : s.mgmt.boot = .service) (t : Target) (w : Bool) :
    s.vfMay t v w = s.admits t (271 + v) (match (s.vf v).ctx with | some c => c / 16 | none => 0) w := by
  have h : (s.mgmt.boot == .service && decide (v < 384)) = true := by simp [hv, hb]
  exact (congrArg (· && _) h).trans (Bool.true_and _)

/-- A host write within a function's mailbox slots, admitted or not. -/
theorem exec_registerWrite_slots {v off : Nat} {data : List Byte} {s : State} (hv : v < 384) (hb : s.mgmt.boot = .service)
    (ho : off < 0x20000) (h : off + data.length ≤ 0x20000) :
    exec (.registerWrite (some v) off data) s =
      .next (if s.vfMay .mailbox v true then s.setVf v ((s.vf v).write off data) else s) := by
  simp [execRegisterWrite, hb, hasOwnStep_slots h, ho, Nat.not_le.mpr hv]

/-- A write of the physical function within FWWIN, which its table admits. -/
theorem exec_registerWrite_fwwin {off : Nat} {data : List Byte} {s : State} (h1 : s.mgmt.boot ≠ .off)
    (h2 : s.mgmt.boot ≠ .poweredDown) (ha : s.admits .regs 270 0 true = true) (ho : 0x1000000 ≤ off)
    (h : off + data.length ≤ 0x2000000) :
    exec (.registerWrite none off data) s =
      .next { s with mgmt := { s.mgmt with fwwin := s.mgmt.fwwin.writeBytes (off - 0x1000000) data } } := by
  have hans : s.mgmt.answers = true := by
    unfold Mgmt.answers
    split <;> simp_all
  have ht : touches off data.length 8 4 = false := by
    have : ¬ off < 8 + 4 := by omega
    simp [touches, this]
  simp [execRegisterWrite, hans, ht, ha, Nat.not_lt.mpr ho, Nat.not_lt.mpr h]

theorem registersAreWritten : Spec.RegistersAreWritten := by
  refine ⟨fun v off data s hv hb ho h => ?_, fun off data s h1 h2 ha ho h => ?_⟩
  · have hmay := vfMay_of_service hv hb .mailbox true
    rw [exec_registerWrite_slots hv hb ho h]
    refine ⟨fun ha => ?_, fun ha => ?_⟩
    · rw [if_pos (hmay.trans ha)]
      refine ⟨_, rfl, rfl, fun n => ?_⟩
      rw [State.vf_setVf]
      exact Vf.slots_write _ h n
    · rw [hmay.trans ha, if_neg Bool.false_ne_true]
  · refine ⟨_, exec_registerWrite_fwwin h1 h2 ha ho h, rfl, fun n => ?_⟩
    have hin : (off - 0x1000000 ≤ n ∧ n < off - 0x1000000 + data.length) ↔
        (off ≤ n + 0x1000000 ∧ n + 0x1000000 < off + data.length) := by omega
    have hi : n - (off - 0x1000000) = n + 0x1000000 - off := by omega
    simp only [Memory.read_writeBytes, hin, hi]

/-! A quadrant that leaves service (R403): what the partition's rebinding keeps, and why no saved team is stopped
where none waits to be loaded. -/

@[simp] theorem exec_quadrantRetirement (q : Nat) (s : State) : exec (.quadrantRetirement q) s = execQuadrantRetirement q s := rfl

/-- Every team that waits to be loaded is bound anew: none has a saved record. -/
def ReloadsAnew (s : State) : Prop := ∀ g ∈ s.grids, ∀ r ∈ g.2.reload, r.2 = SaveAt.anew

/-- What rebinding a partition's quadrants leaves as it was. -/
structure RebindKeeps (s t : State) : Prop where
  parts : t.parts = s.parts
  access : t.access = s.access
  memories : KeepsMemories s t
  bind : ∀ q, (t.quad q).bind = (s.quad q).bind
  anew : ReloadsAnew s → ReloadsAnew t

theorem RebindKeeps.refl (s : State) : RebindKeeps s s := ⟨rfl, rfl, .refl s, fun _ => rfl, id⟩
theorem RebindKeeps.trans {s t u : State} (h : RebindKeeps s t) (g : RebindKeeps t u) : RebindKeeps s u :=
  ⟨g.parts.trans h.parts, g.access.trans h.access, h.memories.trans g.memories, fun q => (g.bind q).trans (h.bind q),
   g.anew ∘ h.anew⟩
/-- A fold of operations that each keep it keeps it. -/
theorem RebindKeeps.foldl {α : Type} {f : State → α → State} (hf : ∀ s x, RebindKeeps s (f s x)) (l : List α) (s : State) :
    RebindKeeps s (l.foldl f s) :=
  List.foldlRecOn l f (.refl s) fun t h x _ => h.trans (hf t x)

theorem rebindKeeps_setCtx (s : State) (k : Nat) (x : Ctx) : RebindKeeps s (s.setCtx k x) :=
  ⟨rfl, rfl, .refl s, fun _ => rfl, id⟩
theorem rebindKeeps_setVf (s : State) (k : Nat) (x : Vf) : RebindKeeps s (s.setVf k x) :=
  ⟨rfl, rfl, .refl s, fun _ => rfl, id⟩
theorem rebindKeeps_setQuad {s : State} {k : Nat} {x : Quad} (h : x.bind = (s.quad k).bind) : RebindKeeps s (s.setQuad k x) := by
  refine ⟨rfl, rfl, .refl s, fun q => ?_, id⟩
  by_cases e : q = k
  · rw [e, State.quad_setQuad, h]
  · rw [State.quad_setQuad_ne _ _ _ _ e]
theorem rebindKeeps_setGrid {s : State} {k : Nat} {g : Grid} (h : s.grid? k = some g) (is : List Nat) :
    RebindKeeps s (s.setGrid k { g with reload := g.reload ++ is.map fun i => (i, .anew) }) := by
  refine ⟨rfl, rfl, .refl s, fun _ => rfl, fun ha p hp r hr => ?_⟩
  rcases mem_mapPut _ _ _ _ hp with rfl | hp
  · rcases List.mem_append.mp hr with hr | hr
    · exact ha _ (mem_of_tabGet h) r hr
    · obtain ⟨i, -, rfl⟩ := List.mem_map.mp hr
      rfl
  · exact ha p hp r hr

theorem rebindKeeps_releaseStanding (s : State) (qs : List Nat) : RebindKeeps s (s.releaseStanding qs) := by
  refine .foldl (fun s q => ?_) qs s
  exact rebindKeeps_setQuad rfl
theorem rebindKeeps_dropStanding (s : State) (gone : List Nat) : RebindKeeps s (s.dropStanding gone) := by
  refine .foldl (fun s p => ?_) s.ctxs s
  dsimp only
  split
  · cases p.2.vf with
    | none => exact rebindKeeps_setCtx ..
    | some v => exact (rebindKeeps_setCtx ..).trans (rebindKeeps_setVf ..)
  · exact .refl s
theorem rebindKeeps_unbind (s : State) (quad : Nat) (gone : Bind → Bool) : RebindKeeps s (s.unbind quad gone) := by
  refine .foldl (fun s r => ?_) _ s
  have hq : RebindKeeps s (s.setQuad quad { s.quad quad with records := (s.quad quad).records.erase r }) := rebindKeeps_setQuad rfl
  dsimp only
  split
  · exact hq
  · exact hq.trans (rebindKeeps_setGrid ‹_› _)
theorem rebindKeeps_rebind (s : State) (part : Nat) (qs : List Nat) : RebindKeeps s (s.rebind part qs) :=
  (RebindKeeps.foldl (fun _ _ => (rebindKeeps_releaseStanding ..).trans (rebindKeeps_dropStanding ..)) _ s).trans
    (.foldl (fun _ _ => rebindKeeps_unbind ..) qs _)

/-- Matins stops no saved team where none has a record. -/
theorem stopDoomed_of_anew {s : State} (h : ReloadsAnew s) : s.stopDoomed = s := by
  refine List.foldlRecOn (motive := (· = s)) s.grids _ rfl fun t ht g hg => ?_
  refine List.foldlRecOn (motive := (· = s)) g.2.reload _ ht fun u hu r hr => ?_
  simp [h g hg r hr, State.recordBytes?, hu]

/-- The partition without a quadrant, its bind records rebound. -/
def State.resignQuad (s : State) (part : Nat) (p : Part) (q : Nat) : State :=
  (s.setPart part { p with quads := p.quads.filter (· != q) }).rebind part [q]
/-- A quadrant emptied and out of service. -/
def State.takeOut (s : State) (q : Nat) : State :=
  (s.takeQuads [q]).setQuad q { (s.takeQuads [q]).quad q with retired := true, recovery := true }

theorem exec_quadrantRetirement_idle {q part : Nat} {s : State} {p : Part} (hq : q < 256) (hr : (s.quad q).retired = false)
    (hp : (s.quad q).part = some part) (hpart : s.part? part = some p) (hn : Spec.NoTeams s part) :
    exec (.quadrantRetirement q) s = .next ((s.resignQuad part p q).takeOut q).stopDoomed := by
  simp only [exec_quadrantRetirement, execQuadrantRetirement, hr, hp, hpart, State.partTeams_eq_nil hn, Nat.not_le.mpr hq,
    decide_false, Bool.or_self, Bool.false_eq_true, if_false]
  rfl

@[simp] theorem State.takeOut_parts (s : State) (q : Nat) : (s.takeOut q).parts = s.parts := rfl
@[simp] theorem State.takeOut_grids (s : State) (q : Nat) : (s.takeOut q).grids = s.grids := rfl
theorem State.takeOut_access (s : State) (q : Nat) (t : Target) : mapGet 0 (s.takeOut q).access (t.key q) = 0 :=
  State.access_setAccess _ q 0 t
theorem takeOut_keeps (s : State) (q : Nat) : KeepsMemories s (s.takeOut q) := .refl s
theorem State.quad_takeOut (s : State) (q : Nat) : ((s.takeOut q).quad q).retired = true ∧ ((s.takeOut q).quad q).part = none ∧
    ((s.takeOut q).quad q).bind = (s.quad q).bind := by
  simp [State.takeOut, State.takeQuads, Quad.reset]

theorem quadrant_leaves_service {q part : Nat} {s : State} {p : Part} (hq : q < 256) (hr : (s.quad q).retired = false)
    (hp : (s.quad q).part = some part) (hpart : s.part? part = some p) (hn : Spec.NoTeams s part)
    (hload : ∀ g ∈ s.grids, g.2.reload = []) :
    ∃ u, exec (.quadrantRetirement q) s = .next u ∧ (u.quad q).retired = true ∧ (u.quad q).part = none ∧
      (u.quad q).bind = (s.quad q).bind ∧ u.part? part = some { p with quads := p.quads.filter (· != q) } ∧
      (∀ t : Target, mapGet 0 u.access (t.key q) = 0) ∧ SameMemory s u := by
  have hk : RebindKeeps (s.setPart part { p with quads := p.quads.filter (· != q) }) (s.resignQuad part p q) :=
    rebindKeeps_rebind _ part [q]
  have ha : ReloadsAnew (s.resignQuad part p q) := hk.anew fun g hg r hr => by
    rw [hload g hg] at hr
    cases hr
  obtain ⟨hret, hnone, hbind⟩ := State.quad_takeOut (s.resignQuad part p q) q
  have hparts : ((s.resignQuad part p q).takeOut q).part? part = some { p with quads := p.quads.filter (· != q) } := by
    rw [State.part?, State.takeOut_parts, hk.parts]
    exact State.part?_setPart ..
  refine ⟨(s.resignQuad part p q).takeOut q, ?_, hret, hnone, hbind.trans (hk.bind q), hparts, State.takeOut_access _ q,
    (hk.memories.trans (takeOut_keeps _ q)).same⟩
  rw [exec_quadrantRetirement_idle hq hr hp hpart hn, stopDoomed_of_anew (by simpa [ReloadsAnew] using ha)]

/-! The other steps of live service (R16, R178, R402, R403, R406), and the statement of registers and service. -/

@[simp] theorem exec_firmwareSwap (image : List Byte) (version : Nat) (sig : List Byte) (s : State) :
    exec (.firmwareSwap image version sig) s = execFirmwareSwap image version sig s := rfl
@[simp] theorem exec_swapTimeout (s : State) : exec .swapTimeout s = execSwapTimeout s := rfl
@[simp] theorem exec_slotScrub (quad slot : Nat) (mismatch : Bool) (s : State) :
    exec (.slotScrub quad slot mismatch) s = execSlotScrub quad slot mismatch s := rfl
@[simp] theorem exec_hbmRecalibration (n : Nat) (s : State) : exec (.hbmRecalibration n) s = execHbmRecalibration n s := rfl
@[simp] theorem exec_linkRecalibration (a b g : Nat) (s : State) :
    exec (.linkRecalibration a b g) s = execLinkRecalibration a b g s := rfl
@[simp] theorem exec_retryRound (a b : Nat) (s : State) : exec (.retryRound a b) s = execRetryRound a b s := rfl
@[simp] theorem exec_cgRetirement (cg : Nat) (s : State) : exec (.cgRetirement cg) s = execCgRetirement cg s := rfl
@[simp] theorem exec_powerLimit (q : Nat) (s : State) : exec (.powerLimit q) s = execPowerLimit q s := rfl
@[simp] theorem exec_thermalTrip (s : State) : exec .thermalTrip s = execThermalTrip s := rfl
@[simp] theorem exec_portReassign (port : Nat) (s : State) : exec (.portReassign port) s = execPortReassign port s := rfl

/-! Firmware swaps (R402). -/

/-- Stage 2's checks pass exactly for a signed image no older than the fused minimum. -/
theorem checkFirmware_eq_zero (image : List Byte) (version : Nat) (sig : List Byte) :
    checkFirmware image version sig = 0 ↔
      Config.mlDsaVerify Config.dexsonKey image sig = true ∧ Config.minVersion ≤ version := by
  unfold checkFirmware
  split
  · simp_all
  · split <;> simp_all

theorem exec_firmwareSwap_checked {s : State} (image : List Byte) (version : Nat) (sig : List Byte)
    (hb : s.mgmt.boot = .service) (hh : s.mgmt.handoff = false) :
    exec (.firmwareSwap image version sig) s = .next (if checkFirmware image version sig = 0 then
      { s with mgmt := { s.mgmt with swap := some (image, version, sig), handoff := true } } else s) := by
  by_cases hc : checkFirmware image version sig = 0 <;> simp [execFirmwareSwap, hb, hh, hc]

/-! Scrubs (R178). -/

theorem slotScrub_of_match (quad slot : Nat) (s : State) : exec (.slotScrub quad slot false) s = .next s := rfl
theorem slotScrub_of_unbound {quad slot : Nat} {s : State} {im : Image} (hp : tabGet (s.quad quad).phys slot = some im)
    (hb : ((s.quad quad).bind.find? fun b => b.1 % 16 == slot && b.2.gen == im.gen) = none) :
    ∃ u, exec (.slotScrub quad slot true) s = .next u ∧
      u = s.setQuad quad { s.quad quad with rt := (u.quad quad).rt, scrubs := (s.quad quad).scrubs + 1 } := by
  simp only [exec_slotScrub, execSlotScrub, hp, hb, Bool.not_true, Bool.false_eq_true, if_false]
  exact ⟨_, rfl, by rw [State.quad_setQuad]⟩
theorem slotScrub_of_bound {quad slot : Nat} {s : State} {im : Image} {b : Nat × Image}
    (hp : tabGet (s.quad quad).phys slot = some im)
    (hb : ((s.quad quad).bind.find? fun b => b.1 % 16 == slot && b.2.gen == im.gen) = some b)
    (hr : b.1 ∉ (s.quad quad).reloading) :
    exec (.slotScrub quad slot true) s =
      .next (s.setQuad quad { s.quad quad with reloading := (s.quad quad).reloading ++ [b.1], scrubs := (s.quad quad).scrubs + 1 }) := by
  simp [execSlotScrub, hp, hb, hr]

/-! A channel group leaves service (R403). -/

/-- The heir is another CG: the search goes over the 31 others of the die. -/
theorem heirCg_ne {s : State} {cg h : Nat} (hh : s.heirCg cg = some h) : h ≠ cg := by
  have hm := List.mem_of_find?_eq_some hh
  simp only [List.mem_map, List.mem_range] at hm
  omega

/-- A partition's quota after chunks have moved: it falls at their new home alone. -/
theorem mapGet_lessQuota_same (p : Part) (h n : Nat) : mapGet 0 (p.lessQuota h n).quota h = mapGet 0 p.quota h - n :=
  mapGet_mapSet_same ..
theorem mapGet_lessQuota_ne (p : Part) {h c : Nat} (n : Nat) (hc : c ≠ h) :
    mapGet 0 (p.lessQuota h n).quota c = mapGet 0 p.quota c :=
  mapGet_mapSet_ne _ _ _ _ _ hc

/-- The channel group gone and its heir x in its place: each partition's quota at the heir falls by the chunks it has moved
there, and the channel groups the retired one stood for have the heir for their home. -/
def State.succeedCg (s : State) (cg h : Nat) (x : Cg) : State :=
  let parts := s.parts.map fun p => (p.1, p.2.lessQuota h (s.chunksOf p.1 (s.cg cg).chunks).length)
  let gone := { Cg.reset with
    retired := true, recovery := true, home := h + 1, corrected := (s.cg cg).corrected, demoted := (s.cg cg).demoted }
  { s with
    parts := parts
    cgs := ((s.setCg h x).setCg cg gone).cgs.map fun p => if p.2.home = cg + 1 then (p.1, { p.2 with home := h + 1 }) else p }

theorem exec_cgRetirement_heir {cg h : Nat} {s : State} (hcg : cg < 128) (hr : (s.cg cg).retired = false)
    (hh : s.heirCg cg = some h) : ∃ x, exec (.cgRetirement cg) s = .next (s.succeedCg cg h x) := by
  simp only [exec_cgRetirement, execCgRetirement, hr, hh, Nat.not_le.mpr hcg, decide_false, Bool.or_self,
    Bool.false_eq_true, if_false]
  exact ⟨_, rfl⟩

theorem part?_succeedCg (s : State) (cg h : Nat) (x : Cg) (n : Nat) :
    (s.succeedCg cg h x).part? n = (s.part? n).map fun p => p.lessQuota h (s.chunksOf n (s.cg cg).chunks).length :=
  tabGet_map (fun p => (p.1, Part.lessQuota p.2 h (s.chunksOf p.1 (s.cg cg).chunks).length)) (fun _ => rfl) s.parts n
theorem cg_succeedCg {s : State} {cg h : Nat} (hne : h ≠ cg) (x : Cg) : (s.succeedCg cg h x).cg cg =
    { Cg.reset with
      retired := true, recovery := true, home := h + 1, corrected := (s.cg cg).corrected, demoted := (s.cg cg).demoted } := by
  simp only [State.cg, State.succeedCg, State.setCg, mapGet_eq]
  rw [tabGet_map _ (fun p => by split <;> rfl), tabGet_mapSet_same (by simp [Cg.reset])]
  simp [hne]

/-! Power (R406) and ports (R16). -/

/-- Where no other quadrant goes before it, the quadrant steps down. -/
theorem powerLimit_of_first {q : Nat} {s : State} (hq : q < 256) (hr : (s.quad q).retired = false) (hm : 600 < (s.quad q).mhz)
    (hfirst : ∀ o, o < 256 → o ≠ q → (s.quad o).mhz ≤ 600 ∨ (s.quad o).retired = true ∨
      (s.indebted q = true ∧ s.indebted o = false) ∨ (s.indebted o = s.indebted q ∧ o < q)) :
    exec (.powerLimit q) s = .next (s.setQuad q { s.quad q with mhz := (s.quad q).mhz - 100 }) := by
  simp only [exec_powerLimit, execPowerLimit]
  rw [if_neg]
  simp only [hr, Bool.or_eq_true, decide_eq_true_eq, List.any_eq_true, List.mem_range, not_or, Bool.false_eq_true,
    not_false_eq_true, and_true]
  refine ⟨⟨by omega, by omega⟩, ?_⟩
  rintro ⟨o, ho, hgoes⟩
  simp only [Bool.and_eq_true, Bool.or_eq_true, decide_eq_true_eq, beq_iff_eq, Bool.not_eq_true'] at hgoes
  obtain ⟨⟨hro, hmo⟩, hbefore⟩ := hgoes
  by_cases e : o = q
  · subst e
    simp at hbefore
  · rcases hfirst o ho e with h | h | ⟨hiq, hio⟩ | ⟨hi, h⟩
    · omega
    · simp [h] at hro
    · simp [hiq, hio] at hbefore
    · rcases hbefore with ⟨hio, hiq⟩ | ⟨-, hlt⟩
      · simp [hi, hiq] at hio
      · omega

theorem thermalTrip_takes_power {s : State} (hb : s.mgmt.boot ≠ .poweredDown) :
    ∃ u, exec .thermalTrip s = .next u ∧ u.agents = [] ∧ u.teams = [] ∧ u.quads = [] ∧ u.dmem = [] ∧ u.cmem = [] ∧
      u.lmem = [] ∧ u.mgmt.boot = .poweredDown ∧ u.mgmt.reason = 8 :=
  ⟨_, if_neg hb, rfl, rfl, rfl, rfl, rfl, rfl, rfl, rfl⟩

theorem port_changes_use {port : Nat} {s : State} (hb : s.mgmt.boot = .service) (hp : port < 12)
    (hx : ∀ x ∈ s.hub.outbox, isPost x.packet = mapGet false s.hub.ports port) :
    ∃ u, exec (.portReassign port) s = .next u ∧ u = { s with hub := { s.hub with ports := u.hub.ports } } ∧
      mapGet false u.hub.ports port = !mapGet false s.hub.ports port ∧
      ∀ n, n ≠ port → mapGet false u.hub.ports n = mapGet false s.hub.ports n := by
  have hdrained : (s.hub.outbox.any fun x => isPost x.packet != mapGet false s.hub.ports port) = false := by
    simpa [List.any_eq_false] using hx
  simp only [exec_portReassign, execPortReassign, hb, hdrained, Nat.not_le.mpr hp, ne_eq, not_true_eq_false, decide_false,
    Bool.or_self, Bool.false_eq_true, if_false]
  exact ⟨_, rfl, rfl, mapGet_mapSet_same .., fun n hn => mapGet_mapSet_ne _ _ _ _ _ hn⟩

theorem partsAreServiced : Spec.PartsAreServiced := by
  refine ⟨?swap, ?timeout, ?scrub, ?recalibrate, ?quadrant, ?group, ?power, ?trip, ?port⟩
  case swap =>
    intro image version sig s hb hh
    dsimp only
    rw [exec_firmwareSwap_checked image version sig hb hh, ← checkFirmware_eq_zero]
    exact ⟨fun h => by rw [if_pos h], fun h => by rw [if_neg h]⟩
  case timeout =>
    intro s hh
    exact if_pos hh
  case scrub =>
    intro quad slot s
    exact ⟨slotScrub_of_match quad slot s, fun _ => slotScrub_of_unbound, fun _ _ => slotScrub_of_bound⟩
  case recalibrate =>
    intro n a b g s
    exact ⟨fun h => if_pos h, fun h => ⟨if_pos h, if_pos h⟩⟩
  case quadrant =>
    intro q part s p hq hr hp hpart hn hload
    exact quadrant_leaves_service hq hr hp hpart hn hload
  case group =>
    intro cg h s hcg hr hh _
    obtain ⟨x, hx⟩ := exec_cgRetirement_heir hcg hr hh
    have hgone := cg_succeedCg (s := s) (heirCg_ne hh) x
    refine ⟨s.succeedCg cg h x, hx, rfl, by rw [hgone], by rw [hgone]; rfl, fun n p hp => ?_⟩
    refine ⟨_, (part?_succeedCg s cg h x n).trans (congrArg _ hp), rfl, ?_, fun c hc => ?_⟩
    · exact mapGet_lessQuota_same ..
    · exact mapGet_lessQuota_ne _ _ hc
  case power =>
    intro q s hq hr hm hfirst
    exact powerLimit_of_first hq hr hm hfirst
  case trip =>
    intro s hb
    exact thermalTrip_takes_power hb
  case port =>
    intro port s hb hp hx
    exact port_changes_use hb hp hx

/-- Settles O59: the host's writes byte by byte, and each step of live service by its own lemma. -/
theorem registersAndService : Obligations.RegistersAndService :=
  ⟨registersAreWritten, partsAreServiced⟩

end Sys2Proof.Machine

/-! Admission on a quadrant whose number the package does not have (R19, R364). The statement of admission bounds no quadrant's
number, and from 2^26 on a quadrant's positions have the numbers of ended gangs' accesses (`orphanBase`). `State.gangsOn` does not
count those, so `State.freePosition` takes scheduler 0 for empty throughout and finds no position for a thirteenth gang. -/

namespace Sys2Proof.Machine

/-- The least quadrant number whose first position is at `orphanBase`. -/
def farQuad : Nat := 2 ^ 26

/-- `farQuad` is empty and has one bind record, of a grid's one team of 13 gangs (a kernel record may ask for 16, R65). -/
def farAdmission : State :=
  let s := placedSpace (placedBase State.reset false (placedAgent none)) []
  let wide (p : Nat × Grid) : Nat × Grid := (p.1, { p.2 with shape := { p.2.shape with gangs := 13 } })
  { s with grids := s.grids.map wide }.setQuad farQuad
    { Quad.reset with records := [{ handle := 1, first := 0, count := 1, order := 0, ctx := 0, standing := false }] }

/-- The keys of the team that TEAM_ADMIT admits on a quadrant. -/
def admittedKeys (q : Nat) (s : State) : Option (List Nat) :=
  match exec (.teamAdmit q) s with
  | .next u => (u.team? s.nextTeam).map Team.keys
  | _ => none

theorem admittedKeys_of_next {q : Nat} {s u : State} {t : Team} (hstep : exec (.teamAdmit q) s = .next u)
    (hteam : u.team? s.nextTeam = some t) : admittedKeys q s = some t.keys := by
  simp only [admittedKeys, hstep, hteam, Option.map_some]

/-- The record is the current one, its grid has 13 gangs in a team, and the team fits. -/
theorem farAdmission_fits :
    ∃ b ∈ (farAdmission.quad farQuad).current, ∃ g ∈ farAdmission.grid? b.handle, ∃ c ∈ farAdmission.ctx? b.ctx,
      c.frozen = false ∧ g.cor = false ∧ tabGet g.reload b.first = none ∧
      farAdmission.fits farQuad g.shape g.shape.entries = true ∧ g.shape.gangs = 13 := by
  decide +kernel

/-- Only the twelve positions of scheduler 0 are filled. -/
theorem admittedKeys_farAdmission :
    admittedKeys farQuad farAdmission = some ((List.range 12).map (orphanBase + ·)) := by
  decide +kernel

theorem not_teamsAreAdmitted : ¬ Spec.TeamsAreAdmitted := by
  intro h
  obtain ⟨b, hb, g, hg, c, hc, hfrozen, hcor, hreload, hfits, hgangs⟩ := farAdmission_fits
  obtain ⟨u, t, hstep, -, hteam, -, -, -, -, -, -, -, -, -, -, -, hlength, -⟩ :=
    h farQuad farAdmission b g c hb hg hc hfrozen hcor (.inl hreload) hfits
  have hkeys : t.keys = (List.range 12).map (orphanBase + ·) :=
    Option.some.inj ((admittedKeys_of_next hstep hteam).symm.trans admittedKeys_farAdmission)
  rw [hkeys, hgangs] at hlength
  exact absurd hlength (by decide)

/-- Refutes O56: its clause of admission gives the team a key for each of its gangs on every quadrant, and on `farQuad`, a number
its premises admit where R19 has quadrants 0 to 255, a team of 13 gangs that fits gets 12. -/
theorem not_teamsAdmittedAndRetired : ¬ Obligations.TeamsAdmittedAndRetired :=
  fun h => not_teamsAreAdmitted h.1

end Sys2Proof.Machine
